-- ==== Sys2Proof/Word.lean ====
section
/-! DEFINITION. The word types of the Wennak W7 (spec/03 R40, spec/11 R231). -/
namespace Sys2Proof

/-- One byte of memory (R6). -/
abbrev Byte := BitVec 8

/-- One 32-bit register of one thread (R21, R190). Also a mask with bit t for thread t. -/
abbrev Word := BitVec 32

/-- A 64-bit scalar, address or system register (R29). -/
abbrev DWord := BitVec 64

/-- The 96-bit instruction word (R40). -/
abbrev IWord := BitVec 96

/-- The bytes of `x`, least significant first (R6). -/
def leBytes : Nat → Nat → List Byte
  | 0, _ => []
  | n + 1, x => BitVec.ofNat 8 x :: leBytes n (x / 256)

/-- The number whose little-endian bytes are given (R6). -/
def leNat : List Byte → Nat
  | [] => 0
  | b :: bs => b.toNat + 256 * leNat bs

/-- Bits `hi` down to `lo` of a number (R5). -/
def bitsOf (x hi lo : Nat) : Nat := (x >>> lo) % 2 ^ (hi + 1 - lo)

end Sys2Proof
end

