-- ==== Sys2Proof/Syntax.lean ====
section
/-! DEFINITION. The instructions and steps of the Wennak W7: one constructor per row of spec/opcode_table.json.
The first 152 rows are instructions of Tlaby (spec/03 R62), each carrying the fields of its format exactly as the
96-bit word holds them. The rows that follow are the device's own steps and the Enmen commands (spec/95). -/
namespace Sys2Proof

/-- A 20-bit source operand field (R43). -/
structure Src where
  lvl : BitVec 2
  idx : BitVec 8
  pat : BitVec 4
  par : BitVec 6
  deriving DecidableEq, Repr

/-- A 14-bit destination field; `rows` and `cols` hold the extents minus one (R43). -/
structure Dst where
  lvl : BitVec 2
  idx : BitVec 8
  rows : BitVec 2
  cols : BitVec 2
  deriving DecidableEq, Repr

/-- U, guard negate and guard predicate, common to every format (R41). -/
structure Hdr where
  u : Bool
  gn : Bool
  gp : BitVec 3
  deriving DecidableEq, Repr

/-- Format V (R44). -/
structure FmtV where
  h : Hdr
  d : Dst
  a : Src
  b : Src
  c : Src
  subop : BitVec 3
  rnd : BitVec 2
  fmt : BitVec 2
  deriving DecidableEq, Repr

/-- Format I (R48). -/
structure FmtI where
  h : Hdr
  d : Dst
  a : Src
  imm : BitVec 32
  xsub : BitVec 8
  subop : BitVec 3
  rnd : BitVec 2
  fmt : BitVec 2
  deriving DecidableEq, Repr

/-- Format C (R50). -/
structure FmtC where
  h : Hdr
  offs : BitVec 24
  a : Src
  imm : BitVec 32
  sub : BitVec 5
  deriving DecidableEq, Repr

/-- Format M (R51). -/
structure FmtM where
  h : Hdr
  d : Dst
  a : Src
  b : Src
  ofs : BitVec 16
  scope : BitVec 3
  byp : Bool
  sub : BitVec 7
  deriving DecidableEq, Repr

/-- Format E (R51). -/
structure FmtE where
  h : Hdr
  d : Dst
  a : Src
  b : Src
  t : BitVec 8
  scope : BitVec 3
  lvl : BitVec 2
  sub : BitVec 7
  imm : BitVec 7
  deriving DecidableEq, Repr

/-- Format Y (R51). -/
structure FmtY where
  h : Hdr
  d : Dst
  a : Src
  b : Src
  sysn : BitVec 16
  scope : BitVec 3
  sub : BitVec 8
  deriving DecidableEq, Repr

/-- Format X (R53). `low` is bits [6:0], which are reserved. -/
structure FmtX where
  h : Hdr
  tc : BitVec 8
  a : Src
  b : Src
  aT : Bool
  bT : Bool
  acc : Bool
  scs : BitVec 6
  fa : BitVec 4
  fb : BitVec 4
  fc : BitVec 2
  rnd : BitVec 2
  sub : BitVec 5
  low : BitVec 7
  deriving DecidableEq, Repr

/-- One Enmen message: a header flit with the fields of R429 and its data bytes (R428). -/
structure Msg where
  dst : BitVec 19
  src : BitVec 19
  typ : BitVec 4
  len : BitVec 6
  ctx : BitVec 12
  scope : BitVec 3
  va : BitVec 57
  cmd : BitVec 8
  arg : BitVec 64
  data : List Byte
  deriving DecidableEq, Repr

/-- Every row of the table of operations and events. -/
inductive Instr where
  /-- NOP (R222). -/
  | nop (f : FmtC)
  /-- BRA (R222). -/
  | bra (f : FmtC)
  /-- BRC (R223). -/
  | brc (f : FmtC)
  /-- BRI (R222). -/
  | bri (f : FmtC)
  /-- CALL (R222). -/
  | call (f : FmtC)
  /-- RET (R222). -/
  | ret (f : FmtC)
  /-- RCV (R224). -/
  | rcv (f : FmtC)
  /-- EXIT (R225). -/
  | exit (f : FmtC)
  /-- STRAND (R175). -/
  | strand (f : FmtC)
  /-- YIELD (R226). -/
  | yield (f : FmtC)
  /-- TRAP (R373). -/
  | trap (f : FmtY)
  /-- ERET (R375). -/
  | eret (f : FmtY)
  /-- SRD (R372). -/
  | srd (f : FmtY)
  /-- SWR (R372). -/
  | swr (f : FmtY)
  /-- PATCH (R382). -/
  | patch (f : FmtY)
  /-- BKPT (R373). -/
  | bkpt (f : FmtY)
  /-- HALT (R374). -/
  | halt (f : FmtY)
  /-- MOV (R202). -/
  | mov (f : FmtV)
  /-- MOV_I (R194). -/
  | movI (f : FmtI)
  /-- SEL (R201). -/
  | sel (f : FmtV)
  /-- SEL_I (R201). -/
  | selI (f : FmtI)
  /-- IADD (R194). -/
  | iadd (f : FmtV)
  /-- IADD_I (R194). -/
  | iaddI (f : FmtI)
  /-- ISUB (R194). -/
  | isub (f : FmtV)
  /-- ISUB_I (R194). -/
  | isubI (f : FmtI)
  /-- IMUL (R194). -/
  | imul (f : FmtV)
  /-- IMUL_I (R194). -/
  | imulI (f : FmtI)
  /-- IMULH (R194). -/
  | imulh (f : FmtV)
  /-- IMULH_I (R194). -/
  | imulhI (f : FmtI)
  /-- IMAD (R194). -/
  | imad (f : FmtV)
  /-- IMAD_I (R194). -/
  | imadI (f : FmtI)
  /-- IMIN (R194). -/
  | imin (f : FmtV)
  /-- IMIN_I (R194). -/
  | iminI (f : FmtI)
  /-- IMAX (R194). -/
  | imax (f : FmtV)
  /-- IMAX_I (R194). -/
  | imaxI (f : FmtI)
  /-- IABS (R195). -/
  | iabs (f : FmtV)
  /-- ISET (R200). -/
  | iset (f : FmtV)
  /-- ISET_I (R200). -/
  | isetI (f : FmtI)
  /-- LEA (R198). -/
  | lea (f : FmtV)
  /-- LEA_I (R198). -/
  | leaI (f : FmtI)
  /-- AND (R194). -/
  | iand (f : FmtV)
  /-- AND_I (R194). -/
  | iandI (f : FmtI)
  /-- OR (R194). -/
  | ior (f : FmtV)
  /-- OR_I (R194). -/
  | iorI (f : FmtI)
  /-- XOR (R194). -/
  | ixor (f : FmtV)
  /-- XOR_I (R194). -/
  | ixorI (f : FmtI)
  /-- NOT (R194). -/
  | inot (f : FmtV)
  /-- LOP3 (R199); `tt7` is opcode bit [86], bit 7 of the truth table (R61). -/
  | lop3 (tt7 : Bool) (f : FmtV)
  /-- SHL (R196). -/
  | shl (f : FmtV)
  /-- SHL_I (R196). -/
  | shlI (f : FmtI)
  /-- SHR (R196). -/
  | shr (f : FmtV)
  /-- SHR_I (R196). -/
  | shrI (f : FmtI)
  /-- SAR (R196). -/
  | sar (f : FmtV)
  /-- SAR_I (R196). -/
  | sarI (f : FmtI)
  /-- ROT (R196). -/
  | rot (f : FmtV)
  /-- ROT_I (R196). -/
  | rotI (f : FmtI)
  /-- POPC (R194). -/
  | popc (f : FmtV)
  /-- CLZ (R194). -/
  | clz (f : FmtV)
  /-- BREV (R194). -/
  | brev (f : FmtV)
  /-- BFX (R197). -/
  | bfx (f : FmtV)
  /-- BFX_I (R197). -/
  | bfxI (f : FmtI)
  /-- PAND (R203). -/
  | pand (f : FmtV)
  /-- POR (R203). -/
  | por (f : FmtV)
  /-- PXOR (R203). -/
  | pxor (f : FmtV)
  /-- PNOT (R203). -/
  | pnot (f : FmtV)
  /-- PMOV (R203). -/
  | pmov (f : FmtV)
  /-- FADD (R204). -/
  | fadd (f : FmtV)
  /-- FADD_I (R204). -/
  | faddI (f : FmtI)
  /-- FSUB (R204). -/
  | fsub (f : FmtV)
  /-- FSUB_I (R204). -/
  | fsubI (f : FmtI)
  /-- FMUL (R204). -/
  | fmul (f : FmtV)
  /-- FMUL_I (R204). -/
  | fmulI (f : FmtI)
  /-- FFMA (R204). -/
  | ffma (f : FmtV)
  /-- FFMA_I (R204). -/
  | ffmaI (f : FmtI)
  /-- FMIN (R206). -/
  | fmin (f : FmtV)
  /-- FMIN_I (R206). -/
  | fminI (f : FmtI)
  /-- FMAX (R206). -/
  | fmax (f : FmtV)
  /-- FMAX_I (R206). -/
  | fmaxI (f : FmtI)
  /-- FMAXI (R207). -/
  | fmaxi (f : FmtV)
  /-- FMINI (R207). -/
  | fmini (f : FmtV)
  /-- FSET (R208). -/
  | fset (f : FmtV)
  /-- FSET_I (R208). -/
  | fsetI (f : FmtI)
  /-- FCLS (R209). -/
  | fcls (f : FmtV)
  /-- FRCP (R204). -/
  | frcp (f : FmtV)
  /-- FRSQ (R204). -/
  | frsq (f : FmtV)
  /-- FSQRT (R204). -/
  | fsqrt (f : FmtV)
  /-- FEXP2 (R204). -/
  | fexp2 (f : FmtV)
  /-- FLOG2 (R204). -/
  | flog2 (f : FmtV)
  /-- FSIN (R204). -/
  | fsin (f : FmtV)
  /-- FCOS (R204). -/
  | fcos (f : FmtV)
  /-- FDIVS (R204). -/
  | fdivs (f : FmtV)
  /-- CVT (R211). -/
  | cvt (f : FmtV)
  /-- BPK (R213). -/
  | bpk (f : FmtV)
  /-- BUPK (R213). -/
  | bupk (f : FmtV)
  /-- SBPK (R214). -/
  | sbpk (f : FmtV)
  /-- SBUPK (R214). -/
  | sbupk (f : FmtV)
  /-- XSEL (R216). -/
  | xsel (f : FmtV)
  /-- VOTE (R216). -/
  | vote (f : FmtV)
  /-- BALL (R216). -/
  | ball (f : FmtV)
  /-- SCAN (R217). -/
  | scan (f : FmtV)
  /-- REDX (R217). -/
  | redx (f : FmtV)
  /-- MATCH (R216). -/
  | matchX (f : FmtV)
  /-- RAND (R218). -/
  | rand (f : FmtV)
  /-- RSEED (R219). -/
  | rseed (f : FmtV)
  /-- LD (R130). -/
  | ld (f : FmtM)
  /-- ST (R130). -/
  | st (f : FmtM)
  /-- LDP (R136). -/
  | ldp (f : FmtM)
  /-- STP (R136). -/
  | stp (f : FmtM)
  /-- LDL (R137). -/
  | ldl (f : FmtM)
  /-- STL (R137). -/
  | stl (f : FmtM)
  /-- LDC (R133). -/
  | ldc (f : FmtM)
  /-- PRF (R134). -/
  | prf (f : FmtM)
  /-- TLD (R139). -/
  | tld (f : FmtE)
  /-- TST (R139). -/
  | tst (f : FmtE)
  /-- TALC (R140). -/
  | talc (f : FmtE)
  /-- TFREE (R141). -/
  | tfree (f : FmtE)
  /-- TINFO (R142). -/
  | tinfo (f : FmtE)
  /-- LAYSET (R143). -/
  | layset (f : FmtM)
  /-- LAYINV (R144). -/
  | layinv (f : FmtM)
  /-- SEAL (R145). -/
  | seal (f : FmtM)
  /-- UNSEAL (R145). -/
  | unseal (f : FmtM)
  /-- INVL1 (R146). -/
  | invl1 (f : FmtM)
  /-- WBL2 (R147). -/
  | wbl2 (f : FmtM)
  /-- BULK (R161). -/
  | bulk (f : FmtE)
  /-- BCOPY (R159). -/
  | bcopy (f : FmtE)
  /-- KICK (R157). -/
  | kick (f : FmtE)
  /-- TEND (R167). -/
  | tend (f : FmtE)
  /-- ECHK (R168). -/
  | echk (f : FmtE)
  /-- SPAWN (R358). -/
  | spawn (f : FmtE)
  /-- BINCFG (R359). -/
  | bincfg (f : FmtE)
  /-- LAUNCH (R360). -/
  | launch (f : FmtM)
  /-- MBEG (R265). -/
  | mbeg (f : FmtX)
  /-- MEND (R265). -/
  | mend (f : FmtX)
  /-- MMA (R268). -/
  | mma (f : FmtX)
  /-- GANG (R266). -/
  | gang (f : FmtX)
  /-- MRD (R270). -/
  | mrd (f : FmtX)
  /-- MWR (R271). -/
  | mwr (f : FmtX)
  /-- MZERO (R269). -/
  | mzero (f : FmtX)
  /-- MSCL (R272). -/
  | mscl (f : FmtX)
  /-- VIGIL (R290). -/
  | vigil (f : FmtM)
  /-- WAKE (R296). -/
  | wake (f : FmtM)
  /-- WAKEQ (R296). -/
  | wakeq (f : FmtM)
  /-- ARV (R295). -/
  | arv (f : FmtM)
  /-- BINIT (R294). -/
  | binit (f : FmtM)
  /-- ATOM (R300). -/
  | atom (f : FmtM)
  /-- RED (R303). -/
  | red (f : FmtM)
  /-- REDD (R304). -/
  | redd (f : FmtM)
  /-- DTOK (R305). -/
  | dtok (f : FmtM)
  /-- FENCE (R306). -/
  | fence (f : FmtM)
  /-- OPCLS (R425). -/
  | opcls (f : FmtY)
  /-- LUMQ (R426). -/
  | lumq (f : FmtY)
  /-- MONRD (R427). -/
  | monrd (f : FmtY)
  /-- UNASSIGNED_OPCODE (R63): a word whose primary opcode is one of the 871 unassigned ones. -/
  | unassignedOpcode (w : IWord)
  /-- STRAND_BOUNDARY_RESUME (R150). -/
  | strandBoundaryResume (wave : Nat)
  /-- TRANSLATION_INVALIDATION (R89). -/
  | translationInvalidation (k : Nat)
  /-- ENGINE_READ_START (R151). -/
  | engineReadStart (op item : Nat)
  /-- ENGINE_READS_COMPLETE (R117). -/
  | engineReadsComplete (op : Nat)
  /-- ENGINE_BYTES_LANDED (R152). -/
  | engineBytesLanded (op item : Nat)
  /-- ENGINE_FAULT (R153). -/
  | engineFault (op item : Nat)
  /-- BULK_PIECE_RETURN (R162). -/
  | bulkPieceReturn (op item : Nat)
  /-- BIN_TIMER_EXPIRY (R163). -/
  | binTimerExpiry (core bin : Nat)
  /-- MATRIX_STEP_EXECUTE (R257). -/
  | matrixStepExecute (step : Nat)
  /-- PATCH_ENGINE_COPY (R383). -/
  | patchEngineCopy (wave : Nat)
  /-- WAKE_DELIVERY (R279). -/
  | wakeDelivery (k : Nat)
  /-- VIGIL_BUDGET_EXPIRY (R282). -/
  | vigilBudgetExpiry (wave : Nat)
  /-- VIGIL_WITHDRAWAL (R283). -/
  | vigilWithdrawal (wave : Nat)
  /-- QUIESCENCE_LIMIT (R354). -/
  | quiescenceLimit (wave : Nat)
  /-- LAUNCH_QUIESCENT (R355). -/
  | launchQuiescent (launch : Nat)
  /-- SWAP_THRESHOLD (R344). -/
  | swapThreshold (block : Nat)
  /-- BLOCK_RESTORE (R381). -/
  | blockRestore (block core : Nat)
  /-- LAZY_FILL (R188). -/
  | lazyFill (wave granule : Nat)
  /-- PARITY_ROLLBACK (R184). -/
  | parityRollback (wave : Nat)
  /-- LAUNCH_RECORD_START (R335). -/
  | launchRecordStart (queue : Nat)
  /-- LAUNCH_COMPLETION (R353). -/
  | launchCompletion (launch : Nat)
  /-- DISPATCHER_GRANT (R340). -/
  | dispatcherGrant (quad : Nat)
  /-- QUANTUM_EXPIRY (R341). -/
  | quantumExpiry (quad : Nat)
  /-- CLUSTER_ADMISSION (R347). -/
  | clusterAdmission (launch cluster quad : Nat)
  /-- CORE_RESPLIT (R110). -/
  | coreResplit (core launch : Nat)
  /-- BLOCK_RETIRE (R154). -/
  | blockRetire (block : Nat)
  /-- WAVE_LIGHTING (R173). -/
  | waveLighting (side : Nat)
  /-- VICTIM_TIMEOUT (R350). -/
  | victimTimeout (wave : Nat)
  /-- GRID_RELEASE_BATCH (R406). -/
  | gridReleaseBatch (k : Nat)
  /-- LUMEN_ROTATION (R410). -/
  | lumenRotation (core : Nat)
  /-- SIDE_RESERVATION (R412). -/
  | sideReservation (side : Nat)
  /-- WAVE_STARVATION (R412). -/
  | waveStarvation (wave : Nat)
  /-- DIE_TICK (R414). -/
  | dieTick (die : Nat)
  /-- BUDGET_UNIT_EXPIRY (R415). -/
  | budgetUnitExpiry (die : Nat)
  /-- POWER_LIMIT_ADJUST (R415). -/
  | powerLimitAdjust (step : Nat)
  /-- QUAD_CLASS_CHANGE (R417). -/
  | quadClassChange (quad : Nat)
  /-- STALL_WINDOW_END (R423). -/
  | stallWindowEnd (side : Nat)
  /-- MONITOR_SAMPLE (R437). -/
  | monitorSample (die unit value : Nat)
  /-- BANK_REFRESH (R439). -/
  | bankRefresh (bank : Nat)
  /-- SCRUB_SECTOR (R440). -/
  | scrubSector (sector : Nat)
  /-- RETENTION_LOSS (R386). -/
  | retentionLoss (quad ctx : Nat)
  /-- FABRIC_READ (R431). -/
  | fabricRead (m : Msg)
  /-- FABRIC_WRITE (R431). -/
  | fabricWrite (m : Msg)
  /-- INFO (R433). -/
  | info (m : Msg)
  /-- CREATECTX (R433). -/
  | createctx (m : Msg)
  /-- KILLCTX (R370). -/
  | killctx (m : Msg)
  /-- HALTCTX (R370). -/
  | haltctx (m : Msg)
  /-- RUNCTX (R370). -/
  | runctx (m : Msg)
  /-- RESUME (R370). -/
  | resume (m : Msg)
  /-- RESUMEDROP (R370). -/
  | resumedrop (m : Msg)
  /-- FABRIC_XLINV (R433). -/
  | fabricXlinv (m : Msg)
  /-- FABRIC_QCTL (R433). -/
  | fabricQctl (m : Msg)
  /-- MONCFG (R438). -/
  | moncfg (m : Msg)
  /-- ATTEST (R436). -/
  | attest (m : Msg)
  /-- FWLOAD (R433). -/
  | fwload (m : Msg)
  /-- RESET (R433). -/
  | resetCmd (m : Msg)
  /-- FABRIC_UNKNOWN_COMMAND (R433). -/
  | fabricUnknownCommand (m : Msg)
  /-- START_UP (R435). -/
  | startUp (outcome : Nat)
  /-- RETENTION_ENTRY (R439). -/
  | retentionEntry (quad : Nat)
  /-- SELF_REFRESH (R70). -/
  | selfRefresh
  deriving DecidableEq, Repr

/-- The rows that are steps of the device and not instruction words (spec/95). -/
def Instr.isEvent : Instr → Bool
  | .nop .. => false
  | .bra .. => false
  | .brc .. => false
  | .bri .. => false
  | .call .. => false
  | .ret .. => false
  | .rcv .. => false
  | .exit .. => false
  | .strand .. => false
  | .yield .. => false
  | .trap .. => false
  | .eret .. => false
  | .srd .. => false
  | .swr .. => false
  | .patch .. => false
  | .bkpt .. => false
  | .halt .. => false
  | .mov .. => false
  | .movI .. => false
  | .sel .. => false
  | .selI .. => false
  | .iadd .. => false
  | .iaddI .. => false
  | .isub .. => false
  | .isubI .. => false
  | .imul .. => false
  | .imulI .. => false
  | .imulh .. => false
  | .imulhI .. => false
  | .imad .. => false
  | .imadI .. => false
  | .imin .. => false
  | .iminI .. => false
  | .imax .. => false
  | .imaxI .. => false
  | .iabs .. => false
  | .iset .. => false
  | .isetI .. => false
  | .lea .. => false
  | .leaI .. => false
  | .iand .. => false
  | .iandI .. => false
  | .ior .. => false
  | .iorI .. => false
  | .ixor .. => false
  | .ixorI .. => false
  | .inot .. => false
  | .lop3 .. => false
  | .shl .. => false
  | .shlI .. => false
  | .shr .. => false
  | .shrI .. => false
  | .sar .. => false
  | .sarI .. => false
  | .rot .. => false
  | .rotI .. => false
  | .popc .. => false
  | .clz .. => false
  | .brev .. => false
  | .bfx .. => false
  | .bfxI .. => false
  | .pand .. => false
  | .por .. => false
  | .pxor .. => false
  | .pnot .. => false
  | .pmov .. => false
  | .fadd .. => false
  | .faddI .. => false
  | .fsub .. => false
  | .fsubI .. => false
  | .fmul .. => false
  | .fmulI .. => false
  | .ffma .. => false
  | .ffmaI .. => false
  | .fmin .. => false
  | .fminI .. => false
  | .fmax .. => false
  | .fmaxI .. => false
  | .fmaxi .. => false
  | .fmini .. => false
  | .fset .. => false
  | .fsetI .. => false
  | .fcls .. => false
  | .frcp .. => false
  | .frsq .. => false
  | .fsqrt .. => false
  | .fexp2 .. => false
  | .flog2 .. => false
  | .fsin .. => false
  | .fcos .. => false
  | .fdivs .. => false
  | .cvt .. => false
  | .bpk .. => false
  | .bupk .. => false
  | .sbpk .. => false
  | .sbupk .. => false
  | .xsel .. => false
  | .vote .. => false
  | .ball .. => false
  | .scan .. => false
  | .redx .. => false
  | .matchX .. => false
  | .rand .. => false
  | .rseed .. => false
  | .ld .. => false
  | .st .. => false
  | .ldp .. => false
  | .stp .. => false
  | .ldl .. => false
  | .stl .. => false
  | .ldc .. => false
  | .prf .. => false
  | .tld .. => false
  | .tst .. => false
  | .talc .. => false
  | .tfree .. => false
  | .tinfo .. => false
  | .layset .. => false
  | .layinv .. => false
  | .seal .. => false
  | .unseal .. => false
  | .invl1 .. => false
  | .wbl2 .. => false
  | .bulk .. => false
  | .bcopy .. => false
  | .kick .. => false
  | .tend .. => false
  | .echk .. => false
  | .spawn .. => false
  | .bincfg .. => false
  | .launch .. => false
  | .mbeg .. => false
  | .mend .. => false
  | .mma .. => false
  | .gang .. => false
  | .mrd .. => false
  | .mwr .. => false
  | .mzero .. => false
  | .mscl .. => false
  | .vigil .. => false
  | .wake .. => false
  | .wakeq .. => false
  | .arv .. => false
  | .binit .. => false
  | .atom .. => false
  | .red .. => false
  | .redd .. => false
  | .dtok .. => false
  | .fence .. => false
  | .opcls .. => false
  | .lumq .. => false
  | .monrd .. => false
  | .unassignedOpcode .. => false
  | .strandBoundaryResume .. => true
  | .translationInvalidation .. => true
  | .engineReadStart .. => true
  | .engineReadsComplete .. => true
  | .engineBytesLanded .. => true
  | .engineFault .. => true
  | .bulkPieceReturn .. => true
  | .binTimerExpiry .. => true
  | .matrixStepExecute .. => true
  | .patchEngineCopy .. => true
  | .wakeDelivery .. => true
  | .vigilBudgetExpiry .. => true
  | .vigilWithdrawal .. => true
  | .quiescenceLimit .. => true
  | .launchQuiescent .. => true
  | .swapThreshold .. => true
  | .blockRestore .. => true
  | .lazyFill .. => true
  | .parityRollback .. => true
  | .launchRecordStart .. => true
  | .launchCompletion .. => true
  | .dispatcherGrant .. => true
  | .quantumExpiry .. => true
  | .clusterAdmission .. => true
  | .coreResplit .. => true
  | .blockRetire .. => true
  | .waveLighting .. => true
  | .victimTimeout .. => true
  | .gridReleaseBatch .. => true
  | .lumenRotation .. => true
  | .sideReservation .. => true
  | .waveStarvation .. => true
  | .dieTick .. => true
  | .budgetUnitExpiry .. => true
  | .powerLimitAdjust .. => true
  | .quadClassChange .. => true
  | .stallWindowEnd .. => true
  | .monitorSample .. => true
  | .bankRefresh .. => true
  | .scrubSector .. => true
  | .retentionLoss .. => true
  | .fabricRead .. => true
  | .fabricWrite .. => true
  | .info .. => true
  | .createctx .. => true
  | .killctx .. => true
  | .haltctx .. => true
  | .runctx .. => true
  | .resume .. => true
  | .resumedrop .. => true
  | .fabricXlinv .. => true
  | .fabricQctl .. => true
  | .moncfg .. => true
  | .attest .. => true
  | .fwload .. => true
  | .resetCmd .. => true
  | .fabricUnknownCommand .. => true
  | .startUp .. => true
  | .retentionEntry .. => true
  | .selfRefresh .. => true

end Sys2Proof
end

