-- ==== Sys2Proof/Decode.lean ====
section
/-! DEFINITION. The decoder, total on every 96-bit word, and the encoder, both from the formats of spec/03 (R40 to R53,
R61, R62). A word whose opcode is unassigned decodes to `unassignedOpcode` (R63); a byte string shorter than one
instruction is refused. -/
namespace Sys2Proof

/-- Bits [95:86], the primary opcode (R41). -/
def opcodeOf (w : IWord) : Nat := (w.extractLsb' 86 10).toNat

/-- The header's U, GN and GP (R41). -/
def readHdr (w : IWord) : Hdr := ⟨w.getLsbD 85, w.getLsbD 84, w.extractLsb' 81 3⟩

/-- A destination field whose lowest bit is `p` (R43). -/
def readDst (w : IWord) (p : Nat) : Dst :=
  ⟨w.extractLsb' (p + 12) 2, w.extractLsb' (p + 4) 8, w.extractLsb' (p + 2) 2, w.extractLsb' p 2⟩

/-- A source field whose lowest bit is `p` (R43). -/
def readSrc (w : IWord) (p : Nat) : Src :=
  ⟨w.extractLsb' (p + 18) 2, w.extractLsb' (p + 10) 8, w.extractLsb' (p + 6) 4, w.extractLsb' p 6⟩

/-- Format V (R44). -/
def readV (w : IWord) : FmtV :=
  ⟨readHdr w, readDst w 67, readSrc w 47, readSrc w 27, readSrc w 7, w.extractLsb' 4 3, w.extractLsb' 2 2, w.extractLsb' 0 2⟩

/-- Format I (R48). -/
def readI (w : IWord) : FmtI :=
  ⟨readHdr w, readDst w 67, readSrc w 47, w.extractLsb' 15 32, w.extractLsb' 7 8, w.extractLsb' 4 3, w.extractLsb' 2 2,
    w.extractLsb' 0 2⟩

/-- Format C (R50). -/
def readC (w : IWord) : FmtC :=
  ⟨readHdr w, w.extractLsb' 57 24, readSrc w 37, w.extractLsb' 5 32, w.extractLsb' 0 5⟩

/-- Format M (R51). -/
def readM (w : IWord) : FmtM :=
  ⟨readHdr w, readDst w 67, readSrc w 47, readSrc w 27, w.extractLsb' 11 16, w.extractLsb' 8 3, w.getLsbD 7,
    w.extractLsb' 0 7⟩

/-- Format E (R51). -/
def readE (w : IWord) : FmtE :=
  ⟨readHdr w, readDst w 67, readSrc w 47, readSrc w 27, w.extractLsb' 19 8, w.extractLsb' 16 3, w.extractLsb' 14 2,
    w.extractLsb' 7 7, w.extractLsb' 0 7⟩

/-- Format Y (R51). -/
def readY (w : IWord) : FmtY :=
  ⟨readHdr w, readDst w 67, readSrc w 47, readSrc w 27, w.extractLsb' 11 16, w.extractLsb' 8 3, w.extractLsb' 0 8⟩

/-- Format X (R53). -/
def readX (w : IWord) : FmtX :=
  ⟨readHdr w, w.extractLsb' 73 8, readSrc w 53, readSrc w 33, w.getLsbD 32, w.getLsbD 31, w.getLsbD 30,
    w.extractLsb' 24 6, w.extractLsb' 20 4, w.extractLsb' 16 4, w.extractLsb' 14 2, w.extractLsb' 12 2, w.extractLsb' 7 5,
    w.extractLsb' 0 7⟩

/-- Group 000, the control and system instructions (R62, R63). -/
def decodeGroup0 (op : Nat) (w : IWord) : Instr :=
  match op with
  | 0x001 => .nop (readC w)
  | 0x002 => .bra (readC w)
  | 0x003 => .brc (readC w)
  | 0x004 => .bri (readC w)
  | 0x005 => .call (readC w)
  | 0x006 => .ret (readC w)
  | 0x007 => .rcv (readC w)
  | 0x008 => .exit (readC w)
  | 0x009 => .strand (readC w)
  | 0x00A => .yield (readC w)
  | 0x040 => .trap (readY w)
  | 0x041 => .eret (readY w)
  | 0x042 => .srd (readY w)
  | 0x043 => .swr (readY w)
  | 0x044 => .patch (readY w)
  | 0x045 => .bkpt (readY w)
  | 0x046 => .halt (readY w)
  | _ => .unassignedOpcode w

/-- Group 001, the integer and predicate instructions (R62, R63). -/
def decodeGroup1 (op : Nat) (w : IWord) : Instr :=
  match op with
  | 0x080 => .mov (readV w)
  | 0x081 => .movI (readI w)
  | 0x082 => .sel (readV w)
  | 0x083 => .selI (readI w)
  | 0x084 => .iadd (readV w)
  | 0x085 => .iaddI (readI w)
  | 0x086 => .isub (readV w)
  | 0x087 => .isubI (readI w)
  | 0x088 => .imul (readV w)
  | 0x089 => .imulI (readI w)
  | 0x08A => .imulh (readV w)
  | 0x08B => .imulhI (readI w)
  | 0x08C => .imad (readV w)
  | 0x08D => .imadI (readI w)
  | 0x08E => .imin (readV w)
  | 0x08F => .iminI (readI w)
  | 0x090 => .imax (readV w)
  | 0x091 => .imaxI (readI w)
  | 0x092 => .iabs (readV w)
  | 0x094 => .iset (readV w)
  | 0x095 => .isetI (readI w)
  | 0x096 => .lea (readV w)
  | 0x097 => .leaI (readI w)
  | 0x098 => .iand (readV w)
  | 0x099 => .iandI (readI w)
  | 0x09A => .ior (readV w)
  | 0x09B => .iorI (readI w)
  | 0x09C => .ixor (readV w)
  | 0x09D => .ixorI (readI w)
  | 0x09E => .inot (readV w)
  | 0x0A0 => .lop3 false (readV w)
  | 0x0A1 => .lop3 true (readV w)
  | 0x0A2 => .shl (readV w)
  | 0x0A3 => .shlI (readI w)
  | 0x0A4 => .shr (readV w)
  | 0x0A5 => .shrI (readI w)
  | 0x0A6 => .sar (readV w)
  | 0x0A7 => .sarI (readI w)
  | 0x0A8 => .rot (readV w)
  | 0x0A9 => .rotI (readI w)
  | 0x0AA => .popc (readV w)
  | 0x0AC => .clz (readV w)
  | 0x0AE => .brev (readV w)
  | 0x0B0 => .bfx (readV w)
  | 0x0B1 => .bfxI (readI w)
  | 0x0C0 => .pand (readV w)
  | 0x0C2 => .por (readV w)
  | 0x0C4 => .pxor (readV w)
  | 0x0C6 => .pnot (readV w)
  | 0x0C8 => .pmov (readV w)
  | _ => .unassignedOpcode w

/-- Group 010, the floating-point instructions (R62, R63). -/
def decodeGroup2 (op : Nat) (w : IWord) : Instr :=
  match op with
  | 0x100 => .fadd (readV w)
  | 0x101 => .faddI (readI w)
  | 0x102 => .fsub (readV w)
  | 0x103 => .fsubI (readI w)
  | 0x104 => .fmul (readV w)
  | 0x105 => .fmulI (readI w)
  | 0x106 => .ffma (readV w)
  | 0x107 => .ffmaI (readI w)
  | 0x108 => .fmin (readV w)
  | 0x109 => .fminI (readI w)
  | 0x10A => .fmax (readV w)
  | 0x10B => .fmaxI (readI w)
  | 0x10C => .fmaxi (readV w)
  | 0x10E => .fmini (readV w)
  | 0x110 => .fset (readV w)
  | 0x111 => .fsetI (readI w)
  | 0x112 => .fcls (readV w)
  | 0x114 => .frcp (readV w)
  | 0x116 => .frsq (readV w)
  | 0x118 => .fsqrt (readV w)
  | 0x11A => .fexp2 (readV w)
  | 0x11C => .flog2 (readV w)
  | 0x11E => .fsin (readV w)
  | 0x120 => .fcos (readV w)
  | 0x122 => .fdivs (readV w)
  | _ => .unassignedOpcode w

/-- Group 011, the conversion, packing, cross-lane and random instructions (R62, R63). -/
def decodeGroup3 (op : Nat) (w : IWord) : Instr :=
  match op with
  | 0x180 => .cvt (readV w)
  | 0x181 => .bpk (readV w)
  | 0x182 => .bupk (readV w)
  | 0x183 => .sbpk (readV w)
  | 0x184 => .sbupk (readV w)
  | 0x190 => .xsel (readV w)
  | 0x191 => .vote (readV w)
  | 0x192 => .ball (readV w)
  | 0x193 => .scan (readV w)
  | 0x194 => .redx (readV w)
  | 0x195 => .matchX (readV w)
  | 0x1A0 => .rand (readV w)
  | 0x1A1 => .rseed (readV w)
  | _ => .unassignedOpcode w

/-- Group 100, the memory instructions (R62, R63). -/
def decodeGroup4 (op : Nat) (w : IWord) : Instr :=
  match op with
  | 0x200 => .ld (readM w)
  | 0x201 => .st (readM w)
  | 0x202 => .ldp (readM w)
  | 0x203 => .stp (readM w)
  | 0x204 => .ldl (readM w)
  | 0x205 => .stl (readM w)
  | 0x206 => .ldc (readM w)
  | 0x207 => .prf (readM w)
  | 0x210 => .tld (readE w)
  | 0x211 => .tst (readE w)
  | 0x212 => .talc (readE w)
  | 0x213 => .tfree (readE w)
  | 0x214 => .tinfo (readE w)
  | 0x220 => .layset (readM w)
  | 0x221 => .layinv (readM w)
  | 0x222 => .seal (readM w)
  | 0x223 => .unseal (readM w)
  | 0x224 => .invl1 (readM w)
  | 0x225 => .wbl2 (readM w)
  | _ => .unassignedOpcode w

/-- Group 101, the engine and spawn instructions (R62, R63). -/
def decodeGroup5 (op : Nat) (w : IWord) : Instr :=
  match op with
  | 0x280 => .bulk (readE w)
  | 0x281 => .bcopy (readE w)
  | 0x282 => .kick (readE w)
  | 0x283 => .tend (readE w)
  | 0x284 => .echk (readE w)
  | 0x290 => .spawn (readE w)
  | 0x291 => .bincfg (readE w)
  | 0x292 => .launch (readM w)
  | _ => .unassignedOpcode w

/-- Group 110, the matrix instructions (R62, R63). -/
def decodeGroup6 (op : Nat) (w : IWord) : Instr :=
  match op with
  | 0x300 => .mbeg (readX w)
  | 0x301 => .mend (readX w)
  | 0x302 => .mma (readX w)
  | 0x303 => .gang (readX w)
  | 0x304 => .mrd (readX w)
  | 0x305 => .mwr (readX w)
  | 0x306 => .mzero (readX w)
  | 0x307 => .mscl (readX w)
  | _ => .unassignedOpcode w

/-- Group 111, the synchronisation and power instructions (R62, R63). -/
def decodeGroup7 (op : Nat) (w : IWord) : Instr :=
  match op with
  | 0x380 => .vigil (readM w)
  | 0x381 => .wake (readM w)
  | 0x382 => .wakeq (readM w)
  | 0x383 => .arv (readM w)
  | 0x384 => .binit (readM w)
  | 0x385 => .atom (readM w)
  | 0x386 => .red (readM w)
  | 0x387 => .redd (readM w)
  | 0x388 => .dtok (readM w)
  | 0x389 => .fence (readM w)
  | 0x3C0 => .opcls (readY w)
  | 0x3C1 => .lumq (readY w)
  | 0x3C2 => .monrd (readY w)
  | _ => .unassignedOpcode w

/-- The instruction of a 96-bit word (R41, R62, R63); bits [95:93] give the group. -/
def decode (w : IWord) : Instr :=
  match opcodeOf w / 128 with
  | 0 => decodeGroup0 (opcodeOf w) w
  | 1 => decodeGroup1 (opcodeOf w) w
  | 2 => decodeGroup2 (opcodeOf w) w
  | 3 => decodeGroup3 (opcodeOf w) w
  | 4 => decodeGroup4 (opcodeOf w) w
  | 5 => decodeGroup5 (opcodeOf w) w
  | 6 => decodeGroup6 (opcodeOf w) w
  | _ => decodeGroup7 (opcodeOf w) w

/-- An instruction read from the front of a byte string, with the rest (R40, R6); none when fewer than 12 bytes stand. -/
def decodeBytes (bs : List Byte) : Option (Instr × List Byte) :=
  if bs.length < 12 then none else some (decode (BitVec.ofNat 96 (leNat (bs.take 12))), bs.drop 12)

/-- The header above the 81 bits of a format (R41). -/
def writeHdr (op : Nat) (h : Hdr) (rest : BitVec 81) : IWord :=
  BitVec.ofNat 10 op ++ BitVec.ofBool h.u ++ BitVec.ofBool h.gn ++ h.gp ++ rest

/-- The 14 bits of a destination field (R43). -/
def writeDst (d : Dst) : BitVec 14 := d.lvl ++ d.idx ++ d.rows ++ d.cols

/-- The 20 bits of a source field (R43). -/
def writeSrc (f : Src) : BitVec 20 := f.lvl ++ f.idx ++ f.pat ++ f.par

/-- Format V (R44). -/
def writeV (op : Nat) (f : FmtV) : IWord :=
  writeHdr op f.h (writeDst f.d ++ writeSrc f.a ++ writeSrc f.b ++ writeSrc f.c ++ f.subop ++ f.rnd ++ f.fmt)

/-- Format I (R48). -/
def writeI (op : Nat) (f : FmtI) : IWord :=
  writeHdr op f.h (writeDst f.d ++ writeSrc f.a ++ f.imm ++ f.xsub ++ f.subop ++ f.rnd ++ f.fmt)

/-- Format C (R50). -/
def writeC (op : Nat) (f : FmtC) : IWord := writeHdr op f.h (f.offs ++ writeSrc f.a ++ f.imm ++ f.sub)

/-- Format M (R51). -/
def writeM (op : Nat) (f : FmtM) : IWord :=
  writeHdr op f.h (writeDst f.d ++ writeSrc f.a ++ writeSrc f.b ++ f.ofs ++ f.scope ++ BitVec.ofBool f.byp ++ f.sub)

/-- Format E (R51). -/
def writeE (op : Nat) (f : FmtE) : IWord :=
  writeHdr op f.h (writeDst f.d ++ writeSrc f.a ++ writeSrc f.b ++ f.t ++ f.scope ++ f.lvl ++ f.sub ++ f.imm)

/-- Format Y (R51). -/
def writeY (op : Nat) (f : FmtY) : IWord :=
  writeHdr op f.h (writeDst f.d ++ writeSrc f.a ++ writeSrc f.b ++ f.sysn ++ f.scope ++ f.sub)

/-- Format X (R53). -/
def writeX (op : Nat) (f : FmtX) : IWord :=
  writeHdr op f.h (f.tc ++ writeSrc f.a ++ writeSrc f.b ++ BitVec.ofBool f.aT ++ BitVec.ofBool f.bT ++
    BitVec.ofBool f.acc ++ f.scs ++ f.fa ++ f.fb ++ f.fc ++ f.rnd ++ f.sub ++ f.low)

/-- The word of an instruction (R62). A device step has no word; it answers the all-zero word, which never executes
(R63). -/
def encode : Instr → IWord
  | .nop f => writeC 0x001 f
  | .bra f => writeC 0x002 f
  | .brc f => writeC 0x003 f
  | .bri f => writeC 0x004 f
  | .call f => writeC 0x005 f
  | .ret f => writeC 0x006 f
  | .rcv f => writeC 0x007 f
  | .exit f => writeC 0x008 f
  | .strand f => writeC 0x009 f
  | .yield f => writeC 0x00A f
  | .trap f => writeY 0x040 f
  | .eret f => writeY 0x041 f
  | .srd f => writeY 0x042 f
  | .swr f => writeY 0x043 f
  | .patch f => writeY 0x044 f
  | .bkpt f => writeY 0x045 f
  | .halt f => writeY 0x046 f
  | .mov f => writeV 0x080 f
  | .movI f => writeI 0x081 f
  | .sel f => writeV 0x082 f
  | .selI f => writeI 0x083 f
  | .iadd f => writeV 0x084 f
  | .iaddI f => writeI 0x085 f
  | .isub f => writeV 0x086 f
  | .isubI f => writeI 0x087 f
  | .imul f => writeV 0x088 f
  | .imulI f => writeI 0x089 f
  | .imulh f => writeV 0x08A f
  | .imulhI f => writeI 0x08B f
  | .imad f => writeV 0x08C f
  | .imadI f => writeI 0x08D f
  | .imin f => writeV 0x08E f
  | .iminI f => writeI 0x08F f
  | .imax f => writeV 0x090 f
  | .imaxI f => writeI 0x091 f
  | .iabs f => writeV 0x092 f
  | .iset f => writeV 0x094 f
  | .isetI f => writeI 0x095 f
  | .lea f => writeV 0x096 f
  | .leaI f => writeI 0x097 f
  | .iand f => writeV 0x098 f
  | .iandI f => writeI 0x099 f
  | .ior f => writeV 0x09A f
  | .iorI f => writeI 0x09B f
  | .ixor f => writeV 0x09C f
  | .ixorI f => writeI 0x09D f
  | .inot f => writeV 0x09E f
  | .lop3 tt7 f => writeV (if tt7 then 0x0A1 else 0x0A0) f
  | .shl f => writeV 0x0A2 f
  | .shlI f => writeI 0x0A3 f
  | .shr f => writeV 0x0A4 f
  | .shrI f => writeI 0x0A5 f
  | .sar f => writeV 0x0A6 f
  | .sarI f => writeI 0x0A7 f
  | .rot f => writeV 0x0A8 f
  | .rotI f => writeI 0x0A9 f
  | .popc f => writeV 0x0AA f
  | .clz f => writeV 0x0AC f
  | .brev f => writeV 0x0AE f
  | .bfx f => writeV 0x0B0 f
  | .bfxI f => writeI 0x0B1 f
  | .pand f => writeV 0x0C0 f
  | .por f => writeV 0x0C2 f
  | .pxor f => writeV 0x0C4 f
  | .pnot f => writeV 0x0C6 f
  | .pmov f => writeV 0x0C8 f
  | .fadd f => writeV 0x100 f
  | .faddI f => writeI 0x101 f
  | .fsub f => writeV 0x102 f
  | .fsubI f => writeI 0x103 f
  | .fmul f => writeV 0x104 f
  | .fmulI f => writeI 0x105 f
  | .ffma f => writeV 0x106 f
  | .ffmaI f => writeI 0x107 f
  | .fmin f => writeV 0x108 f
  | .fminI f => writeI 0x109 f
  | .fmax f => writeV 0x10A f
  | .fmaxI f => writeI 0x10B f
  | .fmaxi f => writeV 0x10C f
  | .fmini f => writeV 0x10E f
  | .fset f => writeV 0x110 f
  | .fsetI f => writeI 0x111 f
  | .fcls f => writeV 0x112 f
  | .frcp f => writeV 0x114 f
  | .frsq f => writeV 0x116 f
  | .fsqrt f => writeV 0x118 f
  | .fexp2 f => writeV 0x11A f
  | .flog2 f => writeV 0x11C f
  | .fsin f => writeV 0x11E f
  | .fcos f => writeV 0x120 f
  | .fdivs f => writeV 0x122 f
  | .cvt f => writeV 0x180 f
  | .bpk f => writeV 0x181 f
  | .bupk f => writeV 0x182 f
  | .sbpk f => writeV 0x183 f
  | .sbupk f => writeV 0x184 f
  | .xsel f => writeV 0x190 f
  | .vote f => writeV 0x191 f
  | .ball f => writeV 0x192 f
  | .scan f => writeV 0x193 f
  | .redx f => writeV 0x194 f
  | .matchX f => writeV 0x195 f
  | .rand f => writeV 0x1A0 f
  | .rseed f => writeV 0x1A1 f
  | .ld f => writeM 0x200 f
  | .st f => writeM 0x201 f
  | .ldp f => writeM 0x202 f
  | .stp f => writeM 0x203 f
  | .ldl f => writeM 0x204 f
  | .stl f => writeM 0x205 f
  | .ldc f => writeM 0x206 f
  | .prf f => writeM 0x207 f
  | .tld f => writeE 0x210 f
  | .tst f => writeE 0x211 f
  | .talc f => writeE 0x212 f
  | .tfree f => writeE 0x213 f
  | .tinfo f => writeE 0x214 f
  | .layset f => writeM 0x220 f
  | .layinv f => writeM 0x221 f
  | .seal f => writeM 0x222 f
  | .unseal f => writeM 0x223 f
  | .invl1 f => writeM 0x224 f
  | .wbl2 f => writeM 0x225 f
  | .bulk f => writeE 0x280 f
  | .bcopy f => writeE 0x281 f
  | .kick f => writeE 0x282 f
  | .tend f => writeE 0x283 f
  | .echk f => writeE 0x284 f
  | .spawn f => writeE 0x290 f
  | .bincfg f => writeE 0x291 f
  | .launch f => writeM 0x292 f
  | .mbeg f => writeX 0x300 f
  | .mend f => writeX 0x301 f
  | .mma f => writeX 0x302 f
  | .gang f => writeX 0x303 f
  | .mrd f => writeX 0x304 f
  | .mwr f => writeX 0x305 f
  | .mzero f => writeX 0x306 f
  | .mscl f => writeX 0x307 f
  | .vigil f => writeM 0x380 f
  | .wake f => writeM 0x381 f
  | .wakeq f => writeM 0x382 f
  | .arv f => writeM 0x383 f
  | .binit f => writeM 0x384 f
  | .atom f => writeM 0x385 f
  | .red f => writeM 0x386 f
  | .redd f => writeM 0x387 f
  | .dtok f => writeM 0x388 f
  | .fence f => writeM 0x389 f
  | .opcls f => writeY 0x3C0 f
  | .lumq f => writeY 0x3C1 f
  | .monrd f => writeY 0x3C2 f
  | .unassignedOpcode w => w
  | .strandBoundaryResume .. => 0
  | .translationInvalidation .. => 0
  | .engineReadStart .. => 0
  | .engineReadsComplete .. => 0
  | .engineBytesLanded .. => 0
  | .engineFault .. => 0
  | .bulkPieceReturn .. => 0
  | .binTimerExpiry .. => 0
  | .matrixStepExecute .. => 0
  | .patchEngineCopy .. => 0
  | .wakeDelivery .. => 0
  | .vigilBudgetExpiry .. => 0
  | .vigilWithdrawal .. => 0
  | .quiescenceLimit .. => 0
  | .launchQuiescent .. => 0
  | .swapThreshold .. => 0
  | .blockRestore .. => 0
  | .lazyFill .. => 0
  | .parityRollback .. => 0
  | .launchRecordStart .. => 0
  | .launchCompletion .. => 0
  | .dispatcherGrant .. => 0
  | .quantumExpiry .. => 0
  | .clusterAdmission .. => 0
  | .coreResplit .. => 0
  | .blockRetire .. => 0
  | .waveLighting .. => 0
  | .victimTimeout .. => 0
  | .gridReleaseBatch .. => 0
  | .lumenRotation .. => 0
  | .sideReservation .. => 0
  | .waveStarvation .. => 0
  | .dieTick .. => 0
  | .budgetUnitExpiry .. => 0
  | .powerLimitAdjust .. => 0
  | .quadClassChange .. => 0
  | .stallWindowEnd .. => 0
  | .monitorSample .. => 0
  | .bankRefresh .. => 0
  | .scrubSector .. => 0
  | .retentionLoss .. => 0
  | .fabricRead .. => 0
  | .fabricWrite .. => 0
  | .info .. => 0
  | .createctx .. => 0
  | .killctx .. => 0
  | .haltctx .. => 0
  | .runctx .. => 0
  | .resume .. => 0
  | .resumedrop .. => 0
  | .fabricXlinv .. => 0
  | .fabricQctl .. => 0
  | .moncfg .. => 0
  | .attest .. => 0
  | .fwload .. => 0
  | .resetCmd .. => 0
  | .fabricUnknownCommand .. => 0
  | .startUp .. => 0
  | .retentionEntry .. => 0
  | .selfRefresh => 0

/-- The 12 bytes of an instruction, from the PC upward (R40). -/
def encodeBytes (i : Instr) : List Byte := leBytes 12 (encode i).toNat

/-- What the decoder reads from an instruction whose bits are `w`, with every bit above `nbits` zero: the word is laid
out as memory stores it and given to `decodeBytes`. -/
def decodeTableWord (nbits w : Nat) : Option Instr :=
  (decodeBytes (leBytes 12 (w % 2 ^ nbits))).map Prod.fst

end Sys2Proof
end

