-- ==== Sys2Proof/Machine/Float.lean ====
section
/-! DEFINITION. Floating-point values and rounding (spec/11 R232 to R237), and the exact operations under one rounding
(spec/09 R204 to R209). Format codes are those of R47: 0 f32, 1 f64, 2 f16, 3 bf16. -/
namespace Sys2Proof.Machine

/-- Flags in the bit order of FPSTAT (R238): NV 0, DZ 1, OF 2, UF 3, NX 4. -/
abbrev FFlags := BitVec 5

def flNone : FFlags := 0
def flNV : FFlags := 1
def flDZ : FFlags := 2
def flOF : FFlags := 4
def flUF : FFlags := 8
def flNX : FFlags := 16

/-- Fraction bits of a format (R232). -/
def fracBits (fmt : Nat) : Nat := match fmt with | 0 => 23 | 1 => 52 | 2 => 10 | _ => 7

/-- Exponent bits of a format (R232). -/
def expBits (fmt : Nat) : Nat := match fmt with | 0 => 8 | 1 => 11 | 2 => 5 | _ => 8

/-- Bias of a format (R232). -/
def fbias (fmt : Nat) : Nat := 2 ^ (expBits fmt - 1) - 1

/-- Width of a format in bits. -/
def fwidth (fmt : Nat) : Nat := 1 + expBits fmt + fracBits fmt

/-- A floating-point value: a NaN, an infinity, or (-1)^neg * m * 2^e (R233). -/
inductive FVal where
  | nan (signalling : Bool)
  | inf (neg : Bool)
  | fin (neg : Bool) (m : Nat) (e : Int)
  deriving DecidableEq, Repr

/-- The value of an encoding (R233). -/
def decodeF (fmt bits : Nat) : FVal :=
  let p := fracBits fmt
  let f := bits % 2 ^ p
  let e := bits / 2 ^ p % 2 ^ expBits fmt
  let neg := bits / 2 ^ (fwidth fmt - 1) % 2 = 1
  if e = 2 ^ expBits fmt - 1 then
    if f = 0 then .inf neg else .nan (f / 2 ^ (p - 1) = 0)
  else if e = 0 then .fin neg f (1 - (fbias fmt : Int) - p)
  else .fin neg (2 ^ p + f) ((e : Int) - fbias fmt - p)

/-- The default NaN (R234). -/
def defaultNaN (fmt : Nat) : Nat := (2 ^ expBits fmt - 1) * 2 ^ fracBits fmt + 2 ^ (fracBits fmt - 1)

def signBit (fmt : Nat) (neg : Bool) : Nat := if neg then 2 ^ (fwidth fmt - 1) else 0

/-- An infinity of a format. -/
def infBits (fmt : Nat) (neg : Bool) : Nat := signBit fmt neg + (2 ^ expBits fmt - 1) * 2 ^ fracBits fmt

/-- The largest finite value (R232). -/
def maxBits (fmt : Nat) (neg : Bool) : Nat := signBit fmt neg + (2 ^ expBits fmt - 1) * 2 ^ fracBits fmt - 1

/-- Number of binary digits. -/
def bitLen (n : Nat) : Nat := if n = 0 then 0 else Nat.log2 n + 1

/-- `m * 2^e` counted in units of `2^g`: the whole units, and whether a rest below, at or above one half remains
(0 none, 1 below, 2 half, 3 above). -/
def quantise (m : Nat) (e g : Int) : Nat × Nat :=
  if e ≥ g then (m * 2 ^ (e - g).toNat, 0)
  else
    let k := (g - e).toNat
    let r := m % 2 ^ k
    (m / 2 ^ k, if r = 0 then 0 else if 2 * r < 2 ^ k then 1 else if 2 * r = 2 ^ k then 2 else 3)

/-- Whether the magnitude rounds up to the next unit (R236). Modes: 0 rn, 1 rz, 2 rp, 3 rm. -/
def roundUp (mode : Nat) (neg : Bool) (q rest : Nat) : Bool :=
  match mode with
  | 0 => rest = 3 || (rest = 2 && q % 2 = 1)
  | 1 => false
  | 2 => rest ≠ 0 && !neg
  | _ => rest ≠ 0 && neg

/-- Round of R236 and R237 for a non-zero magnitude `m * 2^e`; `sticky` says that the exact magnitude lies strictly
between `m` and `m + 1` units, where `m` has at least two digits more than the format. -/
def roundMag (fmt mode : Nat) (neg : Bool) (m : Nat) (e : Int) (sticky : Bool) : Nat × FFlags :=
  let m := if sticky then 2 * m + 1 else m
  let e := if sticky then e - 1 else e
  let p := fracBits fmt
  let gU : Int := e + bitLen m - (p + 1)
  let (qU, rU) := quantise m e gU
  let yU := if roundUp mode neg qU rU then qU + 1 else qU
  -- compare y with 2^(bias + 1) and with the smallest normal, 2^(1 - bias)
  let top : Int := gU + bitLen yU
  if top > fbias fmt + 1 then
    let v := match mode with
      | 0 => infBits fmt neg
      | 1 => maxBits fmt neg
      | 2 => if neg then maxBits fmt neg else infBits fmt neg
      | _ => if neg then infBits fmt neg else maxBits fmt neg
    (v, flOF ||| flNX)
  else
    let tiny := top < 2 - (fbias fmt : Int)
    let gMin : Int := 1 - (fbias fmt : Int) - p
    let gD := max gU gMin
    let (qD, rD) := quantise m e gD
    let y := if roundUp mode neg qD rD then qD + 1 else qD
    let nx : FFlags := if rD = 0 then 0 else flNX
    let uf : FFlags := if tiny && rD ≠ 0 then flUF else 0
    -- biased exponent of the unit grid: gD = gMin is both the subnormal grid and exponent code 1
    let code := (gD - gMin).toNat
    -- y < 2^(p+1), or y = 2^(p+1) after a carry: adding the fraction to the exponent field carries on its own
    (signBit fmt neg + code * 2 ^ p + y, nx ||| uf)

/-- Round of an exact dyadic value; an exact zero keeps the given sign. -/
def roundDy (fmt mode : Nat) (neg : Bool) (m : Nat) (e : Int) (sticky : Bool) : Nat × FFlags :=
  if m = 0 && !sticky then (signBit fmt neg, 0) else roundMag fmt mode neg m e sticky

def nanRes (fmt : Nat) (fl : FFlags) : Nat × FFlags := (defaultNaN fmt, fl)

def FVal.isNaN : FVal → Bool
  | .nan _ => true
  | _ => false

def FVal.isSNaN : FVal → Bool
  | .nan true => true
  | _ => false

def FVal.isZero : FVal → Bool
  | .fin _ 0 _ => true
  | _ => false

def FVal.isInf : FVal → Bool
  | .inf _ => true
  | _ => false

def FVal.sign : FVal → Bool
  | .nan _ => false
  | .inf n => n
  | .fin n _ _ => n

def FVal.negate : FVal → FVal
  | .nan q => .nan q
  | .inf n => .inf !n
  | .fin n m e => .fin (!n) m e

/-- The NaN cases that come first in R205. -/
def nanCase (fmt : Nat) (xs : List FVal) : Option (Nat × FFlags) :=
  if xs.any FVal.isSNaN then some (nanRes fmt flNV)
  else if xs.any FVal.isNaN then some (nanRes fmt 0)
  else none

/-- Signed integer coefficient. -/
def signed (neg : Bool) (m : Nat) : Int := if neg then -(m : Int) else m

/-- The exact sum of two values that are not NaNs, rounded once (R205). -/
def addVal (fmt mode : Nat) (x y : FVal) : Nat × FFlags :=
  match x, y with
  | .nan _, _ => nanRes fmt 0
  | _, .nan _ => nanRes fmt 0
  | .inf a, .inf b => if a = b then (infBits fmt a, 0) else nanRes fmt flNV
  | .inf a, .fin .. => (infBits fmt a, 0)
  | .fin .., .inf b => (infBits fmt b, 0)
  | .fin nx mx ex, .fin ny my ey =>
    let e := min ex ey
    let v := signed nx (mx * 2 ^ (ex - e).toNat) + signed ny (my * 2 ^ (ey - e).toNat)
    if v = 0 then
      (signBit fmt (if nx = ny then nx else mode = 3), 0)
    else roundMag fmt mode (v < 0) v.natAbs e false

/-- The exact product, without rounding; `none` for 0 x infinity. -/
def mulExact (x y : FVal) : Option FVal :=
  match x, y with
  | .nan q, _ => some (.nan q)
  | _, .nan q => some (.nan q)
  | .inf a, .inf b => some (.inf (a != b))
  | .inf a, .fin n m _ => if m = 0 then none else some (.inf (a != n))
  | .fin n m _, .inf b => if m = 0 then none else some (.inf (n != b))
  | .fin a m e, .fin b k g => some (.fin (a != b) (m * k) (e + g))

/-- A value that needs no operand any more, rounded. -/
def roundVal (fmt mode : Nat) : FVal → Nat × FFlags
  | .nan _ => nanRes fmt 0
  | .inf n => (infBits fmt n, 0)
  | .fin n m e => roundDy fmt mode n m e false

/-- FADD (R204, R205). -/
def fAdd (fmt mode a b : Nat) : Nat × FFlags :=
  let x := decodeF fmt a
  let y := decodeF fmt b
  (nanCase fmt [x, y]).getD (addVal fmt mode x y)

/-- FSUB (R204). -/
def fSub (fmt mode a b : Nat) : Nat × FFlags :=
  let x := decodeF fmt a
  let y := decodeF fmt b
  (nanCase fmt [x, y]).getD (addVal fmt mode x y.negate)

/-- FMUL (R204, R205). -/
def fMul (fmt mode a b : Nat) : Nat × FFlags :=
  let x := decodeF fmt a
  let y := decodeF fmt b
  (nanCase fmt [x, y]).getD
    (match mulExact x y with
     | none => nanRes fmt flNV
     | some v => roundVal fmt mode v)

/-- FFMA (R204, R205): a signalling NaN, then 0 x infinity whatever C holds, then a quiet NaN. An infinite product with an infinite C of the
other sign is a NaN that Round receives (R67), so the default NaN; no rule lists it as invalid (R237). -/
def fFma (fmt mode a b c : Nat) : Nat × FFlags :=
  let x := decodeF fmt a
  let y := decodeF fmt b
  let z := decodeF fmt c
  if x.isSNaN || y.isSNaN || z.isSNaN then nanRes fmt flNV
  else match mulExact x y with
    | none => nanRes fmt flNV
    | some v => (nanCase fmt [x, y, z]).getD (match v, z with
        | .inf p, .inf q => if p = q then (infBits fmt p, 0) else nanRes fmt 0
        | _, _ => addVal fmt mode v z)

/-- FDIVS (R204, R205). -/
def fDiv (fmt mode a b : Nat) : Nat × FFlags :=
  let x := decodeF fmt a
  let y := decodeF fmt b
  (nanCase fmt [x, y]).getD
    (match x, y with
     | .inf _, .inf _ => nanRes fmt flNV
     | .inf n, v => (infBits fmt (n != v.sign), 0)
     | v, .inf n => (signBit fmt (v.sign != n), 0)
     | .fin n m e, .fin n' m' e' =>
       if m' = 0 then (if m = 0 then nanRes fmt flNV else (infBits fmt (n != n'), flDZ))
       else if m = 0 then (signBit fmt (n != n'), 0)
       else
         let num := m * 2 ^ 160
         roundDy fmt mode (n != n') (num / m') (e - e' - 160) (num % m' ≠ 0)
     | _, _ => nanRes fmt 0)

/-- One binary digit of the integer square root at a time. -/
def isqrtAux (n : Nat) : Nat → Nat → Nat
  | 0, r => r
  | k + 1, r =>
    let c := r + 2 ^ k
    isqrtAux n k (if c * c ≤ n then c else r)

/-- The largest r with r * r ≤ n. -/
def isqrt (n : Nat) : Nat := isqrtAux n (bitLen n / 2 + 1) 0

/-- A value with an even exponent: (m, e) as (m', 2 h). -/
def evenExp (m : Nat) (e : Int) : Nat × Int := if e % 2 = 0 then (m, e / 2) else (2 * m, (e - 1) / 2)

/-- FSQRT (R204, R205). -/
def fSqrt (fmt mode a : Nat) : Nat × FFlags :=
  let x := decodeF fmt a
  (nanCase fmt [x]).getD
    (match x with
     | .nan _ => nanRes fmt 0
     | .inf true => nanRes fmt flNV
     | .inf false => (infBits fmt false, 0)
     | .fin n m e =>
       if m = 0 then (signBit fmt n, 0)
       else if n then nanRes fmt flNV
       else
         let (m', h) := evenExp m e
         let big := m' * 2 ^ 240
         let r := isqrt big
         roundDy fmt mode false r (h - 120) (r * r ≠ big))

/-- FRSQ (R204, R205): 1 / sqrt. -/
def fRsq (fmt mode a : Nat) : Nat × FFlags :=
  let x := decodeF fmt a
  (nanCase fmt [x]).getD
    (match x with
     | .nan _ => nanRes fmt 0
     | .inf true => nanRes fmt flNV
     | .inf false => (0, 0)
     | .fin n m e =>
       if m = 0 then (infBits fmt n, flDZ)
       else if n then nanRes fmt flNV
       else
         let (m', h) := evenExp m e
         -- 1 / sqrt (m' 2^(2h)) = sqrt (2^400 / m') 2^(-200 - h)
         let r := isqrt (2 ^ 400 / m')
         roundDy fmt mode false r (-200 - h) (r * r * m' ≠ 2 ^ 400))

/-- FRCP (R204, R205). -/
def fRcp (fmt mode a : Nat) : Nat × FFlags :=
  let x := decodeF fmt a
  (nanCase fmt [x]).getD
    (match x with
     | .nan _ => nanRes fmt 0
     | .inf n => (signBit fmt n, 0)
     | .fin n m e =>
       if m = 0 then (infBits fmt n, flDZ)
       else roundDy fmt mode n (2 ^ 200 / m) (-200 - e) (2 ^ 200 % m ≠ 0))

/-- Exact comparison of two values that are not NaNs: less, equal, greater by their real value. -/
def FVal.cmp (x y : FVal) : Ordering :=
  match x, y with
  | .inf a, .inf b => if a = b then .eq else if a then .lt else .gt
  | .inf a, _ => if a then .lt else .gt
  | _, .inf b => if b then .gt else .lt
  | .fin nx mx ex, .fin ny my ey =>
    let e := min ex ey
    compare (signed nx (mx * 2 ^ (ex - e).toNat)) (signed ny (my * 2 ^ (ey - e).toNat))
  | _, _ => .eq

/-- The order of R206: as `cmp`, with -0 below +0. -/
def FVal.below (x y : FVal) : Bool :=
  match x.cmp y with
  | .lt => true
  | .gt => false
  | .eq => x.sign && !y.sign

/-- FMIN and FMAX (R206): the operand's bits. -/
def fMinMax (isMax : Bool) (fmt a b : Nat) : Nat × FFlags :=
  let x := decodeF fmt a
  let y := decodeF fmt b
  let fl : FFlags := if x.isSNaN || y.isSNaN then flNV else 0
  if x.isNaN && y.isNaN then (defaultNaN fmt, fl)
  else if x.isNaN then (b, fl)
  else if y.isNaN then (a, fl)
  else if isMax then (if x.below y then b else a, fl)
  else (if y.below x then b else a, fl)

/-- FMAXI and FMINI on one pair (R207): (value, index) of the winner. -/
def fMaxI (isMax : Bool) (fmt a ia b ib : Nat) : Nat × Nat × FFlags :=
  let x := decodeF fmt a
  let y := decodeF fmt b
  let fl : FFlags := if x.isSNaN || y.isSNaN then flNV else 0
  let tie := if ib < ia then (b, ib) else (a, ia)
  let (v, i) :=
    if x.isNaN && y.isNaN then (defaultNaN fmt, min ia ib)
    else if x.isNaN then (b, ib)
    else if y.isNaN then (a, ia)
    else if x.below y then (if isMax then (b, ib) else (a, ia))
    else if y.below x then (if isMax then (a, ia) else (b, ib))
    else tie
  (v, i, fl)

/-- FSET's relations (R208). -/
def fSet (rel fmt a b : Nat) : Bool × FFlags :=
  let x := decodeF fmt a
  let y := decodeF fmt b
  let un := x.isNaN || y.isNaN
  let ord := x.cmp y
  let r := match rel with
    | 0 => !un && ord = .eq
    | 1 => !un && ord ≠ .eq
    | 2 => !un && ord = .lt
    | 3 => !un && ord ≠ .gt
    | 4 => !un
    | 5 => un
    | 6 => un || ord ≠ .eq
    | _ => un || ord = .eq
  let nv := x.isSNaN || y.isSNaN || (un && (rel = 2 || rel = 3))
  (r, if nv then flNV else 0)

/-- FCLS (R209). -/
def fCls (fmt a : Nat) : Nat :=
  match decodeF fmt a with
  | .nan true => 1
  | .nan false => 2
  | .inf true => 4
  | .inf false => 512
  | .fin n m _ =>
    if m = 0 then (if n then 32 else 64)
    else if a / 2 ^ fracBits fmt % 2 ^ expBits fmt = 0 then (if n then 16 else 128)
    else if n then 8 else 256

/-- Rounding to an integer by a mode (R211): magnitude and whether a fraction was discarded. -/
def roundInt (mode : Nat) (neg : Bool) (m : Nat) (e : Int) : Nat × Bool :=
  let (q, r) := quantise m e 0
  (if roundUp mode neg q r then q + 1 else q, r ≠ 0)

end Sys2Proof.Machine
end

