-- ==== Sys2Proof/Machine/Bfp.lean ====
section
/-! DEFINITION. Block floating point (spec/09 R212 to R215, spec/11 R241 to R245): packing, unpacking, exponents. -/
namespace Sys2Proof.Machine

/-- Mantissas of a BFPw block (R212). -/
def bfpMants (w : Nat) : Nat := 128 / w

/-- Mantissa `j` of a 128-bit block (R212). -/
def bfpMant (w block j : Nat) : Int :=
  let m := block / 2 ^ (w * j) % 2 ^ w
  if m ≥ 2 ^ (w - 1) then (m : Int) - 2 ^ w else m

/-- Whether a spare bit is set (R241, R244). -/
def bfpSpare (w block : Nat) : Bool := block / 2 ^ (w * bfpMants w) ≠ 0

/-- The exponent of one unit of a mantissa under X (R212). -/
def bfpExp (w x : Nat) : Int := (x : Int) - 127 - ((w : Int) - 2)

/-- A block from its mantissas, spare bits 0 (R213). -/
def bfpPack (w : Nat) (ms : List Int) : Nat :=
  (ms.zipIdx).foldl (fun (acc : Nat) (mj : Int × Nat) => acc + ((mj.1 : Int) % ((2 ^ w : Nat) : Int)).toNat * 2 ^ (w * mj.2)) 0

/-- A number clamped to the w-bit range (R213, R214). -/
def bfpClamp (w : Nat) (m : Int) : Int := max (-(2 ^ (w - 1) : Nat)) (min ((2 ^ (w - 1) : Nat) - 1) m)

/-- One mantissa of SBPK (R214), with its flags. Under X = 0xFF, which gives mantissa 0, a NaN or an infinity raises nothing: DESIGN CHOICE
(log 13), as the cases are not ordered. -/
def sbpkMant (w fmt mode x bits : Nat) : Int × FFlags :=
  if x = 255 then (0, 0)
  else match decodeF fmt bits with
    | .nan _ => (0, flNV)
    | .inf n => (bfpClamp w (if n then -(2 ^ 64 : Nat) else (2 ^ 64 : Nat)), flNV)
    | .fin n m e =>
      let (q, nx) := roundInt mode n m (e - bfpExp w x)
      let v := signed n q
      if bfpClamp w v ≠ v then (bfpClamp w v, flOF ||| flNX) else (v, if nx then flNX else 0)

/-- One element of SBUPK (R214, R245), with its flags. -/
def sbupkElem (w fmt mode x block j : Nat) : Nat × FFlags :=
  if x = 255 then (defaultNaN fmt, 0)
  else
    let m := bfpMant w block j
    roundDy fmt mode (m < 0) m.natAbs (bfpExp w x) false

/-- The exact dot product of two blocks, as a value (R248); a poisoned exponent counts as no contribution. -/
def bfpDot (w a xa b xb : Nat) : FVal :=
  let v := (List.range (bfpMants w)).foldl (fun acc j => acc + bfpMant w a j * bfpMant w b j) (0 : Int)
  .fin (v < 0) v.natAbs (bfpExp w xa + bfpExp w xb)

end Sys2Proof.Machine
end

