-- ==== Sys2Proof/Config.lean ====
section
/-! DEFINITION. What the spec leaves open or to the outside: free values with no body, and what moves next. -/
namespace Sys2Proof

/-- A place where an uncorrectable soft error may stand (R440). -/
inductive ErrLoc where
  /-- The sector of a tier, by its physical byte address divided by 48. -/
  | tier (sector : Nat)
  /-- The L2 copy of that sector. -/
  | l2 (sector : Nat)
  /-- One far register of a wave. -/
  | far (wave reg : Nat)
  /-- The 8 bytes `word` of a tile. -/
  | tile (tile word : Nat)
  /-- An entry of a slice's vigil table, by its number. -/
  | vigil (id : Nat)
  deriving DecidableEq, Repr, Inhabited

/-- Which agent moves next: a side's issue unit, a step of the device or a message from outside, or a soft error. -/
inductive Turn where
  /-- The side, 0 to 767, picks a ready wave and issues its next instruction (R349). -/
  | issue (side : Nat)
  /-- A row of spec/95 that is not an instruction word. -/
  | event (e : Instr)
  /-- An uncorrectable soft error strikes (R440). -/
  | strike (loc : ErrLoc)
  /-- A soft error of a die is corrected (R440). -/
  | corrected (die : Nat)
  /-- The sent write at a place of the list is performed at its home slice (R312, R314). -/
  | sent (i : Nat)
  /-- A wave's read of the sector at a virtual address is performed ahead of its earlier accesses (R314). -/
  | early (wave va : Nat)
  /-- The management processor sets a die's share (R414). -/
  | share (die units : Nat)
  deriving DecidableEq, Repr, Inhabited

namespace Config

/-- DESIGN CHOICE (log 2): the order in which the agents move, and what arrives from outside. No body: a statement holds
for every order. -/
opaque nextTurn : Nat → Turn

/-- DESIGN CHOICE (log 1): the undefined values of the spec (R9). `n` is the state's counter, which every step advances,
and `key` says which value of the step is meant. No body. -/
opaque freeValue (n key : Nat) : BitVec 64

/-- DESIGN CHOICE (log 3): the set of a slice's tag array that a line falls in, by the line's number in its slice; R92 gives the
count of the sets and no function. -/
opaque l2Set (line : Nat) : Nat

/-- DESIGN CHOICE (log 8): the secret part of the module's identity key (R436): for a tree of the HSS key (0 the upper one, n + 1
the lower one under its leaf n), the 16-byte identifier; for a leaf of it, the start of each of its 34 chains and the
randomiser. -/
opaque keyId (tree : Nat) : List (BitVec 8)
opaque keyChain (tree leaf chain : Nat) : List (BitVec 8)
opaque keyRandom (tree leaf : Nat) : List (BitVec 8)

/-- DESIGN CHOICE (log 8): where an image holds its HSS public key, its signature, what is signed, and its version (R435, R436): the
spec gives an image no layout. -/
opaque imageKey (image : List (BitVec 8)) : List (BitVec 8)
opaque imageSignature (image : List (BitVec 8)) : List (BitVec 8)
opaque imageBody (image : List (BitVec 8)) : List (BitVec 8)
opaque imageVersion (image : List (BitVec 8)) : Nat

end Config
end Sys2Proof
end

