-- ==== Sys2Proof/Machine/Tab.lean ====
section
/-! DEFINITION. Sparse tables: lists of key and value pairs with strictly rising keys. -/
namespace Sys2Proof.Machine

/-- A sparse table: keys strictly rising, at most one entry a key. -/
abbrev Tab (α : Type) := List (Nat × α)

/-- The entry at a key. -/
def tget {α : Type} : Tab α → Nat → Option α
  | [], _ => none
  | (k, v) :: rest, x => if k = x then some v else if x < k then none else tget rest x

/-- The table with one entry set. -/
def tset {α : Type} : Tab α → Nat → α → Tab α
  | [], x, v => [(x, v)]
  | (k, u) :: rest, x, v =>
    if x < k then (x, v) :: (k, u) :: rest
    else if x = k then (x, v) :: rest
    else (k, u) :: tset rest x v

/-- The table without an entry at a key. -/
def terase {α : Type} : Tab α → Nat → Tab α
  | [], _ => []
  | (k, u) :: rest, x => if k = x then rest else if x < k then (k, u) :: rest else (k, u) :: terase rest x

/-- The values of a table, in key order. -/
def tvals {α : Type} (t : Tab α) : List α := t.map Prod.snd

/-- A key that no entry has: one above the greatest. -/
def tfresh {α : Type} (t : Tab α) : Nat := t.foldl (fun n e => max n (e.1 + 1)) 0

/-- The table with the entry at a key changed, if there is one. -/
def tmod {α : Type} (t : Tab α) (k : Nat) (f : α → α) : Tab α :=
  match tget t k with
  | none => t
  | some v => tset t k (f v)

/-- Every entry changed. -/
def tmap {α : Type} (t : Tab α) (f : α → α) : Tab α := t.map fun e => (e.1, f e.2)

/-- The keys rise strictly. -/
def tsorted {α : Type} : Tab α → Bool
  | [] => true
  | [_] => true
  | (k, _) :: (k', v') :: rest => decide (k < k') && tsorted ((k', v') :: rest)

/-- The first entry, in key order, that satisfies a test. -/
def tfind {α : Type} (t : Tab α) (p : Nat → α → Bool) : Option (Nat × α) := t.find? fun e => p e.1 e.2

end Sys2Proof.Machine
end

