-- ==== Sys2Proof/Machine/State.lean ====
section
/-! DEFINITION. The state of the Wennak W7 as plain data, and the state after start-up. INVENTORY.md lists each field
with its rule and reset value. A `Tab` field holds only what differs from the stated default of its element. -/
namespace Sys2Proof.Machine

/-- Why the machine stops. -/
inductive Fault where
  /-- Raised by `exec` of an instruction row when no wave is issuing. The machine itself never does that: `step` sets the
  issuing wave first. Safe. -/
  | noIssuingWave
  deriving DecidableEq, Repr

/-- Why an instruction has no meaning. -/
inductive Refusal where
  /-- Raised by an arm of `exec` whose instruction is not modelled yet. Safe. -/
  | notModelled (mnemonic : String)
  deriving DecidableEq, Repr

/-- One 32-bit register of the 32 threads; `none` is undefined until written (R176), or 0 in the far file. -/
abbrev Lanes := List (Option Word)

/-- One DSTACK entry (R220, R379). -/
structure DEntry where
  jpc : DWord
  ppc : DWord
  saved : Word
  pmask : Word
  deriving DecidableEq, Repr

/-- One RSTACK entry (R220, R379). -/
structure REntry where
  rpc : DWord
  depth : Nat
  deriving DecidableEq, Repr

/-- The part of a wave that the strand head record holds (R177, R379). Absent scalars, predicates and counters are 0. -/
structure WState where
  pc : DWord
  scal : Tab DWord
  pred : Tab Word
  fpstat : BitVec 5
  seed : DWord
  ctr : Tab Word
  gmask : Word
  gseq : BitVec 16
  chain : Bool
  chainOrd : Bool
  aiv : BitVec 24
  live : Word
  exec : Word
  dstack : List DEntry
  rstack : List REntry
  svm : Word
  pl1 : Bool
  deriving DecidableEq, Repr

/-- A register named as a destination: level, index (R179). Level 3 is a scalar, level 4 a predicate. -/
abbrev RegRef := Nat × Nat

/-- A barrier reference that passed its checks (R149): a memory word or a tile element. -/
inductive BarRef where
  | none
  | mem (va : Nat)
  | tile (handle elem : Nat)
  deriving DecidableEq, Repr

/-- One end of an engine copy: memory, or a tile (R155). -/
inductive EndPt where
  | mem (va : Nat)
  | tile (tile off : Nat)
  deriving DecidableEq, Repr

/-- A request record as checked (R155, R158): its ends, length, barrier and scope. -/
structure Rec where
  src : EndPt
  dst : EndPt
  len : Nat
  bar : BarRef
  scope : Nat
  deriving DecidableEq, Repr

/-- One thread's part of a memory operation: the thread, its virtual address and its bytes. -/
structure LaneBytes where
  thr : Nat
  va : Nat
  bytes : List Byte
  deriving DecidableEq, Repr

/-- One thread's atomic operation (R297): address, operand, compare value. -/
structure LaneAtom where
  thr : Nat
  va : Nat
  v : DWord
  cmp : DWord
  deriving DecidableEq, Repr

/-- One element of an STP: the thread, its layout handle, its coordinates, its data (R136). -/
structure LaneCoord where
  thr : Nat
  handle : Nat
  coord : List Int
  bytes : List Byte
  deriving DecidableEq, Repr

/-- A kind of write with respect to ordering and checks. -/
inductive StoreKind where
  | st
  | stl
  deriving DecidableEq, Repr

/-- The fields of an MMA as read at issue (R254, R255, R268): `mask` is GANG.MASK, `aRows` and `bCols` are register operands, 8 registers for each
of 32 threads; `aSc` and `bSc` the scale registers. -/
structure MmaOp where
  tc : Nat
  mask : Word
  aT : Bool
  bT : Bool
  aTile : Nat
  bTile : Nat
  acc : Bool
  fa : Nat
  fb : Nat
  fc : Nat
  rnd : Nat
  aRegs : List (List Word)
  bRegs : List (List Word)
  aSc : List Word
  bSc : List Word
  deriving DecidableEq, Repr

/-- A queued operation with the operands that it read at issue (R58, R67). -/
inductive QOp where
  /-- Its guard left no thread active (R59). -/
  | nothing
  /-- ST or STL (R127, R137). -/
  | store (kind : StoreKind) (rel : Bool) (scope : Nat) (lanes : List LaneBytes)
  /-- STP (R136). -/
  | storeLayout (lanes : List LaneCoord)
  /-- TST (R139): thread, row, column, bytes; the tile is found when it is performed. -/
  | tileStore (handle lvl : Nat) (lanes : List (Nat × Nat × Nat × List Byte))
  /-- TFREE (R141). -/
  | tileFree (handle lvl : Nat)
  /-- LAYSET (R143). -/
  | laySet (handle : Nat) (record : List Byte)
  /-- SEAL and UNSEAL (R145). -/
  | sealRange (base lines : Nat) (dst : Dst) (uni : Bool)
  | unsealRange (base lines : Nat) (dst : Dst) (uni : Bool)
  /-- BULK (R160), BCOPY (R159), KICK (R157). -/
  | bulk (handle scope : Nat) (params : List DWord) (args : List DWord)
  | bcopy (handle tile lvl scope : Nat) (st : Bool) (bar : DWord) (origin : List DWord)
  | kick (tile lvl first n : Nat)
  /-- The records of a KICK that are still to be accepted, as checked (R157). -/
  | kickRest (records : List Rec)
  /-- SPAWN (R358). -/
  | spawn (entry : DWord) (lanes : List (Nat × List Word))
  /-- LAUNCH (R360). -/
  | launch (va : Nat) (queue : Nat) (scope : Nat) (dst : Nat)
  /-- The matrix entries (R257 to R272); MWR and MSCL carry their registers, the steps whether a chain is open at their issue, MMA
  whether it carries `.ord`. -/
  | mbeg
  | mend
  | mma (op : MmaOp) (chain ord : Bool)
  | mzero (tc : Nat) (chain : Bool)
  | mwr (tc rc cq fc : Nat) (regs : List (List Word)) (chain : Bool)
  | mscl (tc rc fc rnd : Nat) (alpha : List DWord) (chain : Bool)
  /-- WAKE, WAKEQ (R296). -/
  | wake (va n scope : Nat)
  | wakeq (va : Nat) (v : DWord) (w64 : Bool) (n scope : Nat)
  /-- ARV, BINIT (R294, R295). -/
  | arv (ref : DWord) (bytes : Word) (scope dst pr : Nat)
  | binit (ref : DWord) (reload : Nat)
  /-- ATOM, RED, REDD (R297): `which` 0, 1, 2. -/
  | atomic (which op : Nat) (pk w64 : Bool) (rnd scope ord : Nat) (dst : Dst) (uni : Bool) (lanes : List LaneAtom)
  | dtok
  /-- FENCE (R306). -/
  | fence (kind scope : Nat)
  /-- SWR (R372). -/
  | swr (sysn : Nat) (a b : DWord)
  /-- PATCH (R382). -/
  | patch (scope : Nat) (dst src cnt : DWord)
  /-- OPCLS (R425). -/
  | opcls (k m : DWord) (dst : Nat)
  deriving DecidableEq, Repr

/-- One entry of a strand queue: its PC, its operation, its active threads, the registers it writes, the sectors by virtual
address that it marks (R126), and whether part of it has already been accepted while its boundary waits (a latch arrival,
a queued matrix step, a patch). -/
structure QEntry where
  pc : DWord
  op : QOp
  act : Word
  dsts : List RegRef
  marks : List Nat
  stage : Option Nat
  deriving DecidableEq, Repr

/-- What keeps a wave from issuing. -/
inductive Wait where
  /-- Nothing: lit, or dark and ready to be lit. -/
  | none
  /-- Its boundary waits for room, a lock, a latch, a list or a bin (R150, R255, R257, R358); `residual` holds the rest. -/
  | boundary
  /-- Its boundary waits for a matrix step (R257, R259). -/
  | steps
  /-- It waits at a rendezvous latch (R255). -/
  | latch
  /-- Its boundary waits for the patch engine (R382). -/
  | patch
  /-- Its ARV is held (R404). -/
  | held
  /-- Its boundary waits for a translation invalidation (R89). -/
  | inval
  /-- It waits in its VIGIL (R290). -/
  | vigil
  /-- It yielded or was darkened, and waits in the lighting queue for its side (R350). -/
  | parked
  /-- It has ended (R225, R167). -/
  | ended
  deriving DecidableEq, Repr

/-- The facts of one thread of a bin wave (R162, R166, R356) and its REDD key (R401). -/
structure Born where
  taper : Bool
  closing : Bool
  op : Nat
  bx : Word
  byy : Word
  bz : Word
  blen : Word
  bflag : Word
  barg : List Word
  key2 : Nat
  key3 : Nat
  key4 : List Nat
  redd : Nat
  deriving DecidableEq, Repr

/-- Where a vigil or barrier word stands: at a physical address, or at a byte of a tile. -/
inductive WLoc where
  | mem (pa : Nat)
  | tile (tile off : Nat)
  deriving DecidableEq, Repr

/-- The VIGIL in which a wave waits (R285, R290): D, PT, SCOPE, its PC, and whether its return is an acquire, which it is not on a UO
page. -/
structure VPend where
  dst : Nat
  pt : Nat
  scope : Nat
  pc : Nat
  orders : Bool
  deriving DecidableEq, Repr

/-- One wave (R172, R177, R366). `vpend` is the VIGIL in which it waits; `vresult` and `vobs` a result and an
observation that await its restore (R279, R288); `qdue` a quiescence fault that does (R354). `mflags` are the flags of the open
chain's steps, `fmflags` those of the chain that FRAME interrupts (R239, R259). -/
structure Wave where
  ctx : Nat
  block : Nat
  side : Nat
  wid : Nat
  isBin : Bool
  born : Tab Born
  st : WState
  head : WState
  frame : Option WState
  near : Tab Lanes
  wick : Tab Lanes
  far : Tab Lanes
  bank : Tab Lanes
  farRegs : Nat
  absent : List Nat
  farRead : List Nat
  queue : List QEntry
  residual : List QEntry
  be : Option (Instr × DWord)
  fresidual : List QEntry
  fbe : Option (Instr × DWord)
  fmflags : BitVec 5
  ecause : DWord
  epc : DWord
  eres : DWord
  eaddr : DWord
  lit : Bool
  litAt : Nat
  victim : Bool
  wait : Wait
  vresult : Option (DWord × Bool)
  vpend : Option VPend
  vobs : Option WLoc
  qdue : Nat
  admitted : Nat
  frameNo : Option Nat
  pwlim : Nat
  redd : Nat
  bulkSeq : Nat
  spawnSeq : Nat
  dtok : Bool
  mflags : BitVec 5
  parity : Nat
  starve : Nat
  starved : Bool
  waited : Nat
  deriving DecidableEq, Repr

/-- One REDD contribution (R304, R401): its key, its operation, its address, and the pool sector that it spilled to. -/
structure Contrib where
  key : List Nat
  ctx : Nat
  op : Nat
  pk : Bool
  w64 : Bool
  rnd : Nat
  scope : Nat
  va : Nat
  v : DWord
  spilled : Option Nat
  deriving DecidableEq, Repr

/-- Where a block stands (R379 STATE). -/
inductive BStatus where
  | resident
  | swapped
  | escalated
  | stranded
  | finished
  | retired
  deriving DecidableEq, Repr

/-- One launch (R331, R333, R334): the record and the descriptor as read. -/
structure Launch where
  queue : Nat
  ctx : Nat
  index : Nat
  record : Nat
  desc : Nat
  admitted : List Nat
  retired : List Nat
  finished : List Nat
  token : Nat
  deferred : List Contrib
  quiet : Nat
  deriving DecidableEq, Repr

/-- What RUNCTX does again for a save-area access that failed (R442): a read of `n` bytes; the write-out of a block; the wake of a
wave; CFLAGS; a block's header; the clearing of a wave's pending-vigil record; a wave's records changed by an invalidation. -/
inductive SaRedo where
  | read (n : Nat)
  | swap (b : Nat)
  | wake (k : Nat)
  | flags
  | header (b : Nat)
  | clear (k : Nat)
  | rewind (id : Nat)
  deriving DecidableEq, Repr

/-- A save-area access that failed (R442): its block slot, the sub-cause of R84 or 0 for an uncorrectable error, its address. -/
structure SaFailure where
  slot : Nat
  sub : Nat
  va : Nat
  redo : SaRedo
  deriving DecidableEq, Repr

/-- One context (R376, R432, R433). Absent registers read their reset value (`Ops.sysReset`). -/
structure Ctx where
  owner : Nat
  sabase : Nat
  bslots : Nat
  regs : Tab DWord
  astat : BitVec 5
  csync : BitVec 24
  halted : Bool
  rloss : Bool
  lost : List Nat
  slots : List Nat
  spill : List Nat
  energy : Nat
  gutter : Nat
  failed : List SaFailure
  deriving DecidableEq, Repr

/-- One layout record held by a core (R115). -/
structure LayEntry where
  ctx : Nat
  handle : Nat
  record : Nat
  deriving DecidableEq, Repr

/-- One private sector held write-back (R101): the wave of its frame, whether it is dirty and its page has CMP, and its bytes. -/
structure PrivSector where
  wave : Nat
  dirty : Bool
  cmp : Bool
  bytes : List Byte
  deriving DecidableEq, Repr

/-- One thread in a bin or in the return buffer (R162, R164, R356): its far registers and its facts. -/
structure BinThread where
  regs : List Word
  born : Born
  deriving DecidableEq, Repr

/-- One spawn bin (R163). -/
structure Bin where
  block : Nat
  entry : Nat
  threads : List BinThread
  started : Nat
  limit : Nat
  expired : Bool
  refused : Option Nat
  deriving DecidableEq, Repr

/-- One piece in the return buffer (R164). -/
structure Piece where
  block : Nat
  entry : Nat
  thread : BinThread
  deriving DecidableEq, Repr

/-- One step of the matrix queue (R257): its block, its members, those of them whose entry a handler performed (PL 1), whether it lies in a
chain; `behind` counts the MBEGs of its members performed since, each a fixed point behind it (R258, R265). -/
structure MStep where
  id : Nat
  block : Nat
  members : List Nat
  handler : List Nat
  inChain : Bool
  behind : Nat
  ordered : Bool
  op : QOp
  rows : List MmaOp
  deriving DecidableEq, Repr

/-- One arrival recorded at a latch (R255); `pl1`, whether the member's handler arrived. -/
structure Arrival where
  wave : Nat
  pl1 : Bool
  pos : Nat
  op : MmaOp
  chain : Bool
  ord : Bool
  deriving DecidableEq, Repr

/-- One rendezvous latch (R255), keyed by block, mask and step number; `failed` is the fault, cause × 16 + sub-cause, that
its members are to raise, and `done` those that have raised it. -/
structure Latch where
  block : Nat
  mask : Word
  seq : BitVec 16
  arrivals : List Arrival
  failed : Option Nat
  done : List Nat
  deriving DecidableEq, Repr

/-- One block (R336, R376, R379). `strandAs` is the status that a stranded block is to take once it has been
written out (R442), `notice` the escalation notify that then follows (R434); `escKey` names the wave that escalated, `escWave` is its
number. `image` is what the device wrote of its own parts, which a restore must find again (R443); `parked` names the patches that a
parked wave of the block waits for (R383). -/
structure Block where
  ctx : Nat
  launch : Nat
  queue : Nat
  bx : Nat
  byy : Nat
  bz : Nat
  linear : Nat
  cluster : Nat
  inCluster : Nat
  curve : Nat
  slot : Nat
  core : Nat
  status : BStatus
  strandAs : BStatus
  pwake : Bool
  lost : Bool
  escWave : Nat
  escKey : Nat
  notice : Option (Nat × DWord)
  hcause : DWord
  hpc : DWord
  haddr : DWord
  binTimer : Nat
  waited : Nat
  redd : List Contrib
  image : List (Nat × List Byte)
  parked : List Nat
  bins : List Bin
  pieces : List Piece
  latches : List Latch
  deriving DecidableEq, Repr

/-- The engine fault record of a context on a core (R168). -/
structure EFault where
  v : Bool
  ovf : Bool
  op : Nat
  fault : Nat
  subc : Nat
  addr : Nat
  deriving DecidableEq, Repr

/-- One core (R21). `pass` is the first side that the ring has not yet passed in this rotation (R410); `rate` the class at whose rate
its refill was granted (R415). -/
structure Core where
  splitF : Nat
  splitS : Nat
  splitL : Nat
  l1 : Tab (List Byte)
  priv : Tab PrivSector
  icache : Tab (List Byte)
  layouts : List LayEntry
  bins : Tab Bin
  retbuf : List Piece
  latches : List Latch
  steps : List MStep
  efaults : Tab EFault
  cycles : Nat
  lumens : Nat
  refill : Nat
  aside : Nat
  reserved : List Nat
  pass : Nat
  denied : Bool
  rate : Nat
  returned : Nat
  refusals : Nat
  deriving DecidableEq, Repr

/-- One side (R14, R412, R423). `cycles`, `lums`, `opnd` and `iss` count in the running stall window. -/
structure Side where
  denied : Nat
  lighting : List Nat
  stall : DWord
  winUs : Nat
  cycles : Nat
  lums : Nat
  opnd : Nat
  iss : Nat
  deniedNow : Bool
  deriving DecidableEq, Repr

/-- One quad (R417, R419 to R421). -/
structure Quad where
  cls : Nat
  vfloor : Nat
  vceil : Nat
  chg : Nat
  gut : Bool
  draw : Nat
  used : Nat
  ctxUsed : Tab Nat
  ctxPrev : Tab Nat
  episode : Option Nat
  grant : Option Nat
  grantUs : Nat
  retention : Bool
  deriving DecidableEq, Repr

/-- One capture unit (R437, R438). -/
structure Capture where
  ctx : Nat
  en : Bool
  shift : Nat
  src : Nat
  mn : Nat
  mx : Nat
  bins : List Nat
  deriving DecidableEq, Repr

/-- One compute die (R12). Budget units are listed with their hops (R415): those that have arrived since the last tick, those that
the last tick granted, in the order of their use, and those that have made their last hop. `undivided` is what the last tick granted
to no core, in fractions of a unit. `corrected` counts the soft errors corrected in this microsecond, `correctedUs` those of the last
one (R438, R440). -/
structure Die where
  usec : Nat
  cyc : Nat
  share : Nat
  passin : Nat
  passout : Nat
  arriving : List (Nat × Nat)
  held : List (Nat × Nat)
  left : List (Nat × Nat)
  undivided : Nat
  poison : List Nat
  corrected : Nat
  correctedUs : Nat
  capture : Tab Capture
  deriving DecidableEq, Repr

/-- One sector present in its slice (R93, R94): whether it is dirty, the context that wrote it, its encoding. -/
structure L2Sector where
  dirty : Bool
  ctx : Nat
  code : Nat
  deriving DecidableEq, Repr

/-- One line present in its home slice (R92, R94): whether its page had CMP when it was allocated, and its sectors by number. -/
structure L2Line where
  cmp : Bool
  sects : Tab L2Sector
  deriving DecidableEq, Repr

/-- A leaf entry and the level at which it was found (R86). -/
structure Xlat where
  pte : Nat
  level : Nat
  deriving DecidableEq, Repr

/-- The translation caches (R86): of a core, of a die, of the hub. -/
inductive TCache where
  | core (c : Nat)
  | die (d : Nat)
  | hub
  deriving DecidableEq, Repr

/-- One cached translation (R86): its cache, its context, the first page that the leaf maps, the leaf. -/
structure TEntry where
  cache : TCache
  ctx : Nat
  base : Nat
  x : Xlat
  deriving DecidableEq, Repr

/-- A write that has been sent and is not yet performed (R312, R314, R315): its wave and context, its place, its bytes, of a RED the
operation (its code, PK, W64 and RND) whose operand the bytes are, whether its page is UO and has CMP, and the widest scope of a release that
it is ordered before, 0 when of none (R317). -/
structure Sent where
  wave : Nat
  ctx : Nat
  pa : Nat
  bytes : List Byte
  red : Option (Nat × Bool × Bool × Nat)
  uo : Bool
  cmp : Bool
  rel : Nat
  deriving DecidableEq, Repr

/-- A sector that a wave's read of an RC or UO page has performed ahead of the wave's earlier accesses to other bytes (R314): the bytes
that it found. -/
structure Early where
  wave : Nat
  sector : Nat
  bytes : List Byte
  uo : Bool
  deriving DecidableEq, Repr

/-- A patch in progress (R383), under the key of its wave: its context, its scope's instance as a list of cores, its range, the waves that
it parked as it began. -/
structure Patch where
  ctx : Nat
  cores : List Nat
  lo : Nat
  hi : Nat
  parked : List Nat
  deriving DecidableEq, Repr

/-- A translation invalidation in progress (R89): context, first page, count; who waits for it. -/
structure XlInv where
  id : Nat
  ctx : Nat
  base : Nat
  count : Nat
  wave : Option Nat
  reply : Option Msg
  deriving DecidableEq, Repr

/-- The kinds of vigil entry (R275, R380). -/
inductive VKind where
  | plain
  | queue
  | phase
  | deferred
  | drain
  deriving DecidableEq, Repr

/-- Who waits: a wave, or the dispatcher for a queue (R332). -/
inductive Waiter where
  | wave (k : Nat)
  | dispatcher (q : Nat)
  deriving DecidableEq, Repr

/-- One vigil entry (R275), in the table or in an overflow list (`spill` names its pool sector). -/
structure Vigil where
  id : Nat
  waiter : Waiter
  ctx : Nat
  va : Nat
  loc : WLoc
  w64 : Bool
  cmp : Nat
  operand : DWord
  mask : DWord
  kind : VKind
  ticket : Nat
  timed : Bool
  budget : Nat
  pt : Nat
  scope : Nat
  spill : Option Nat
  withdraw : Bool
  deriving DecidableEq, Repr

/-- A wake on its way to its waiter (R279): the value, the result flag, and whether the wave observes a phase (R288). -/
structure Wake where
  waiter : Waiter
  va : Nat
  value : DWord
  flag : Bool
  observe : Option WLoc
  arv : Bool
  release : Option Nat
  deriving DecidableEq, Repr

/-- A held arrival (R404): its wave, its key, its barrier, its result word, and the pool sector that it spilled to. -/
structure Held where
  wave : Nat
  key : List Nat
  loc : WLoc
  result : DWord
  pr : Nat
  spill : Option Nat
  deriving DecidableEq, Repr

/-- A grid-wide release (R406): the waves still to be lit, each with its launch, its curve index and its wave index; the batch that is
being lit; the slew allowance (R422); the hub microsecond from which the next batch may be lit. -/
structure Release where
  waves : List (Nat × Nat × Nat × Nat)
  batch : List Nat
  slew : Nat
  nextUs : Nat
  deriving DecidableEq, Repr

/-- A range lock (R116): the engine operation, the dies whose table holds it, its sectors by virtual address. -/
structure RLock where
  op : Nat
  ctx : Nat
  dies : List Nat
  lo : Nat
  hi : Nat
  dst : Bool
  deriving DecidableEq, Repr

/-- An entry of the seal table (R102). -/
structure Seal where
  ctx : Nat
  base : Nat
  lines : Nat
  deriving DecidableEq, Repr

/-- Who owns a tile (R106). -/
inductive TOwner where
  | block (b : Nat)
  | cluster (launch cluster : Nat)
  deriving DecidableEq, Repr

/-- One tile (R106, R107): `data` holds the bytes written, by logical offset; the others are undefined, or zero once
`cleared` (MZERO, R269). -/
structure Tile where
  owner : TOwner
  handle : Nat
  lvl : Nat
  ew : Nat
  rows : Nat
  cols : Nat
  cores : List Nat
  bytes : Nat
  bd : Nat
  bs : Nat
  data : Tab Byte
  cleared : Bool
  poison : Bool
  deriving DecidableEq, Repr

/-- What an engine operation moves. -/
inductive EngKind where
  /-- A request record: LEN bytes from one end to the other (R155). -/
  | record (src dst : EndPt) (len : Nat)
  /-- BCOPY of a whole tile (R159): the layout record, the tile, the origin. -/
  | bcopy (record tile : Nat) (origin : List Int) (st : Bool)
  /-- BULK (R160): the layout record, origin and extents, entries, arguments. -/
  | bulk (record : Nat) (origin : List Int) (ext : List Nat) (entry closing : Nat) (args : List Word) (wid seq : Nat)
  deriving DecidableEq, Repr

/-- The progress of one item of an engine operation. -/
inductive EngItem where
  | read (bytes : List Byte)
  | gone
  deriving DecidableEq, Repr

/-- One accepted engine operation (R150, R151): `total` bytes to count, `counted` so far, `lost` when a sector
failed. -/
structure EngOp where
  kind : EngKind
  ctx : Nat
  block : Nat
  core : Nat
  launch : Nat
  scope : Nat
  bar : BarRef
  items : Tab EngItem
  readsDone : Bool
  total : Nat
  counted : Nat
  lost : Bool
  failed : Bool
  suspended : Bool
  deriving DecidableEq, Repr

/-- The dispatcher's copy of an enabled queue (R329, R332, R340). -/
structure Queue where
  desc : Nat
  taken : Nat
  vt : Nat
  running : Option Nat
  vtIn : Bool
  deriving DecidableEq, Repr

/-- The whole machine. -/
structure State where
  free : Nat
  turn : Turn
  cur : Option Nat
  mem : Tab Byte
  sent : List Sent
  early : List Early
  l2 : Tab L2Line
  errs : List ErrLoc
  tlb : List TEntry
  xlinvs : List XlInv
  ctxs : Tab Ctx
  queues : Tab Queue
  launches : Tab Launch
  blocks : Tab Block
  waves : Tab Wave
  cores : Tab Core
  sides : Tab Side
  quads : Tab Quad
  dies : Tab Die
  vigils : Tab Vigil
  tickets : Tab Nat
  wakes : List Wake
  helds : Tab Held
  releases : Tab Release
  locks : List RLock
  seals : List Seal
  tiles : Tab Tile
  engops : Tab EngOp
  patches : Tab Patch
  qtBase : Nat
  hubUs : Nat
  started : Bool
  minimal : Bool
  reason : Nat
  fails : Nat
  nodeId : Nat
  mgmtNode : Nat
  serial : DWord
  minVersion : Nat
  romDigest : List Byte
  fwDigest : List Byte
  fuseDigest : List Byte
  rootKey : List Byte
  nextFw : List Byte
  sigIndex : Nat
  outbox : List Msg
  selfRefresh : Bool
  refreshing : List Nat
  admissions : Nat
  stepIds : Nat
  deriving DecidableEq, Repr

/-- A core after start-up: no reset split is given; DESIGN CHOICE (log 5), the assembler's default of R36. -/
def Core.reset : Core :=
  { splitF := 8, splitS := 0, splitL := 24, l1 := [], priv := [], icache := [], layouts := [], bins := [], retbuf := [],
    latches := [], steps := [], efaults := [], cycles := 0, lumens := 0, refill := 8, aside := 0, reserved := [],
    pass := 0, rate := 4, denied := false, returned := 0, refusals := 0 }

def Side.reset : Side :=
  { denied := 0, lighting := [], stall := 0, winUs := 0, cycles := 0, lums := 0, opnd := 0, iss := 0, deniedNow := false }

/-- A quad after start-up: pool 4 (R346); VFLOOR and VCEIL are DESIGN CHOICE (log 5). -/
def Quad.reset : Quad :=
  { cls := 4, vfloor := 0, vceil := 7, chg := 0, gut := false, draw := 0, used := 0, ctxUsed := [], ctxPrev := [],
    episode := none, grant := none, grantUs := 0, retention := false }

/-- A die after start-up (R414, R426). -/
def Die.reset : Die :=
  { usec := 0, cyc := 0, share := 275, passin := 0, passout := 0, arriving := [], held := [], left := [], undivided := 0,
    poison := [], corrected := 0, correctedUs := 0, capture := [] }

/-- A capture unit before any MONCFG: R438 gives CTX no reset value; none, 4,096, so that MONRD reads zero for every context, is
DESIGN CHOICE (log 5). -/
def Capture.reset : Capture :=
  { ctx := 4096, en := false, shift := 0, src := 0, mn := 0xFFFFFFFF, mx := 0, bins := [] }

/-- A context as CREATECTX makes it (R433). -/
def Ctx.fresh (owner sabase bslots : Nat) : Ctx :=
  { owner, sabase, bslots, regs := [], astat := 0, csync := 0, halted := false, rloss := false, lost := [], slots := [],
    spill := [], energy := 0, gutter := 0, failed := [] }

/-- The machine after a start that completed (R8, R435): no context but the management one, no wave, nothing granted.
The fields for which the spec gives no value are DESIGN CHOICE (log 5). -/
def State.reset : State :=
  { free := 0, turn := .issue 0, cur := none, mem := [], sent := [], early := [], l2 := [], errs := [], tlb := [], xlinvs := [],
    ctxs := [(4095, Ctx.fresh 0 0 0)], queues := [], launches := [], blocks := [], waves := [], cores := [], sides := [],
    quads := [], dies := [], vigils := [], tickets := [], wakes := [], helds := [], releases := [], locks := [],
    seals := [], tiles := [], engops := [], patches := [], qtBase := 0, hubUs := 0, started := true, minimal := false, reason := 0, fails := 0,
    nodeId := 0, mgmtNode := 0, serial := 0, minVersion := 0, romDigest := List.replicate 32 0,
    fwDigest := List.replicate 32 0, fuseDigest := List.replicate 32 0, rootKey := List.replicate 32 0, nextFw := [],
    sigIndex := 0, outbox := [], selfRefresh := false, refreshing := [], admissions := 0, stepIds := 0 }

end Sys2Proof.Machine
end

