-- ==== Sys2Proof/Machine/Access.lean ====
section
/-! DEFINITION. Reading and writing the parts of the state: tables with their defaults, places, free values, registers of
the context. -/
namespace Sys2Proof.Machine

/-- An undefined value of this step (R9); `key` tells the step's values apart. -/
def State.fv (s : State) (key : Nat) : DWord := Config.freeValue s.free key

/-- A choice that the spec leaves open. -/
def State.fbool (s : State) (key : Nat) : Bool := (s.fv key).getLsbD 0

/-- A key for the free value number `a` of kind `kind`. -/
def fkey (kind a : Nat) : Nat := kind + 32 * a

def State.core (s : State) (c : Nat) : Core := (tget s.cores c).getD Core.reset
def State.setCore (s : State) (c : Nat) (x : Core) : State := { s with cores := tset s.cores c x }
def State.side (s : State) (c : Nat) : Side := (tget s.sides c).getD Side.reset
def State.setSide (s : State) (c : Nat) (x : Side) : State := { s with sides := tset s.sides c x }
def State.quad (s : State) (c : Nat) : Quad := (tget s.quads c).getD Quad.reset
def State.setQuad (s : State) (c : Nat) (x : Quad) : State := { s with quads := tset s.quads c x }
def State.die (s : State) (c : Nat) : Die := (tget s.dies c).getD Die.reset
def State.setDie (s : State) (c : Nat) (x : Die) : State := { s with dies := tset s.dies c x }
def State.wave (s : State) (k : Nat) : Option Wave := tget s.waves k
def State.setWave (s : State) (k : Nat) (w : Wave) : State := { s with waves := tset s.waves k w }
def State.modWave (s : State) (k : Nat) (f : Wave → Wave) : State := { s with waves := tmod s.waves k f }
def State.setBlock (s : State) (b : Nat) (x : Block) : State := { s with blocks := tset s.blocks b x }
def State.modBlock (s : State) (b : Nat) (f : Block → Block) : State := { s with blocks := tmod s.blocks b f }
def State.modCtx (s : State) (c : Nat) (f : Ctx → Ctx) : State := { s with ctxs := tmod s.ctxs c f }
def State.modLaunch (s : State) (l : Nat) (f : Launch → Launch) : State := { s with launches := tmod s.launches l f }
def State.modTile (s : State) (t : Nat) (f : Tile → Tile) : State := { s with tiles := tmod s.tiles t f }
def State.modOp (s : State) (o : Nat) (f : EngOp → EngOp) : State := { s with engops := tmod s.engops o f }
def State.modQueue (s : State) (q : Nat) (f : Queue → Queue) : State := { s with queues := tmod s.queues q f }

/-- Places (R12, R15): side, core, quad and die from a global number. -/
def coreOfSide (side : Nat) : Nat := side / 4
def quadOfCore (core : Nat) : Nat := core / 4
def dieOfQuad (quad : Nat) : Nat := quad / 12
def dieOfCore (core : Nat) : Nat := core / 48
def Wave.core (w : Wave) : Nat := coreOfSide w.side

/-- The reset value of a context register by its system number (R339, R366, R371). -/
def sysReset (sysn : Nat) : DWord :=
  if sysn = 0x4E then 1000000 else if sysn = 0x4F then 100 else 0

/-- A context register by its system number. -/
def Ctx.reg (c : Ctx) (sysn : Nat) : DWord := (tget c.regs sysn).getD (sysReset sysn)

/-- A context register; a context that does not exist reads reset values. -/
def State.ctxReg (s : State) (ctx sysn : Nat) : DWord :=
  match tget s.ctxs ctx with
  | none => sysReset sysn
  | some c => c.reg sysn

def State.setCtxReg (s : State) (ctx sysn : Nat) (v : DWord) : State :=
  s.modCtx ctx fun c => { c with regs := tset c.regs sysn v }

/-- The waves of a block. -/
def State.wavesOf (s : State) (b : Nat) : List (Nat × Wave) := s.waves.filter fun e => e.2.block = b

/-- Whether a wave's block is resident (R345, R379). -/
def State.residentBlock (s : State) (b : Nat) : Bool :=
  match tget s.blocks b with
  | none => false
  | some x => x.status = .resident || x.status = .stranded || x.status = .finished

/-- Whether the waves of a block may issue: it is resident and not stranded (R442). -/
def State.blockRuns (s : State) (b : Nat) : Bool := ((tget s.blocks b).map fun (x : Block) => decide (x.status = .resident)) = some true

/-- The launch of a wave. -/
def State.launchOf (s : State) (w : Wave) : Option Launch :=
  (tget s.blocks w.block).bind fun b => tget s.launches b.launch

/-- Descriptor and record fields (R333, R334). -/
def Launch.det (l : Launch) : Bool := bitsOf l.desc 669 669 = 1
def Launch.dord (l : Launch) : Bool := bitsOf l.desc 668 668 = 1
def Launch.entry (l : Launch) : Nat := bitsOf l.desc 760 704
def Launch.nh (l : Launch) : Nat := bitsOf l.desc 703 700
def Launch.farRegs (l : Launch) : Nat := bitsOf l.desc 695 688
def Launch.cls (l : Launch) : Nat := bitsOf l.desc 672 670
def Launch.split (l : Launch) : Nat × Nat × Nat := (bitsOf l.desc 687 683, bitsOf l.desc 682 678, bitsOf l.desc 677 673)
def Launch.handler (l : Launch) (k : Nat) : Nat := bitsOf l.desc (64 * k + 831) (64 * k + 768)
def Launch.gdx (l : Launch) : Nat := bitsOf l.record 479 448
def Launch.gdy (l : Launch) : Nat := bitsOf l.record 511 480
def Launch.gdz (l : Launch) : Nat := bitsOf l.record 543 512
def Launch.clx (l : Launch) : Nat := bitsOf l.record 349 347
def Launch.cly (l : Launch) : Nat := bitsOf l.record 352 350
def Launch.clz (l : Launch) : Nat := bitsOf l.record 355 353
def Launch.bdim (l : Launch) : Nat := bitsOf l.record 361 356
def Launch.tlast (l : Launch) : Nat := bitsOf l.record 367 362
def Launch.cscope (l : Launch) : Nat := bitsOf l.record 370 368
def Launch.cseq (l : Launch) : Nat := bitsOf l.record 639 576
def Launch.cwaddr (l : Launch) : Nat := bitsOf l.record 696 640
def Launch.pwlim (l : Launch) : Nat := bitsOf l.record 575 544
def Launch.seed (l : Launch) : DWord := BitVec.ofNat 64 (bitsOf l.record 767 704)
def Launch.arg (l : Launch) (k : Nat) : DWord := BitVec.ofNat 64 (bitsOf l.record (64 * k + 831) (64 * k + 768))

/-- The granules of a listed handler entry, if the address is one (R161, R334, R358). -/
def Launch.handlerGranules (l : Launch) (entry : Nat) : Option Nat :=
  (List.range l.nh).findSome? fun k =>
    let h := l.handler k
    if bitsOf h 56 0 = entry then some (bitsOf h 60 57) else none

/-- Whether a launch is deterministic (R394). -/
def State.isDet (s : State) (w : Wave) : Bool :=
  match s.launchOf w with
  | none => false
  | some l => l.det

/-- A message that the module sends (R434): a notify to a context's owner. -/
def State.notify (s : State) (ctx cmd : Nat) (arg : DWord) (data : List Byte) : State :=
  let owner := match tget s.ctxs ctx with
    | none => 0
    | some c => c.owner
  { s with outbox := s.outbox ++
    [{ dst := BitVec.ofNat 19 owner, src := BitVec.ofNat 19 s.nodeId, typ := 6, len := BitVec.ofNat 6 ((data.length + 23) / 24),
       ctx := BitVec.ofNat 12 ctx, scope := 7, va := 0, cmd := BitVec.ofNat 8 cmd, arg := arg, data := data }] }

end Sys2Proof.Machine
end

