-- ==== Sys2Proof/Machine/FloatFun.lean ====
section
/-! DEFINITION. The functions of R204 that need an approximation (FEXP2, FLOG2, FSIN, FCOS) and the constant table of
R56. A function is computed between two bounds in fixed point; when both bounds round alike, that is the correctly
rounded result (R204), and otherwise more digits are taken. -/
namespace Sys2Proof.Machine

/-- Fixed-point product at `p` binary places. -/
def fxMul (p : Nat) (x y : Int) : Int := (x * y) / 2 ^ p

/-- The sum of `x^j / j!` from term `j` on, for `|x| < 1`; `term` is the term of number `j`. -/
def expSeries (p : Nat) (x : Int) : Nat → Nat → Int → Int → Int
  | 0, _, _, acc => acc
  | n + 1, j, term, acc =>
    let t := fxMul p term x / (j + 1 : Nat)
    expSeries p x n (j + 1) t (acc + t)

/-- e^x at `p` places for `|x| < 1`. -/
def fxExp (p : Nat) (x : Int) : Int := expSeries p x (p / 4 + 16) 0 (2 ^ p) (2 ^ p)

/-- The sum of `z^(2j+1) / (2j+1)`. -/
def atanhSeries (p : Nat) (z2 : Int) : Nat → Nat → Int → Int → Int
  | 0, _, _, acc => acc
  | n + 1, j, pw, acc =>
    let pw' := fxMul p pw z2
    atanhSeries p z2 n (j + 2) pw' (acc + pw' / (j + 2 : Nat))

/-- ln of `num / den` at `p` places, for a ratio between 1/2 and 2. -/
def fxLn (p : Nat) (num den : Nat) : Int :=
  let z : Int := ((num : Int) - den) * 2 ^ p / (num + den : Nat)
  2 * atanhSeries p (fxMul p z z) (p / 3 + 8) 1 z z

/-- ln 2 at `p` places. -/
def fxLn2 (p : Nat) : Int := fxLn p 4 3 + fxLn p 3 2

/-- The alternating sum of `x^(2j) / (2j)!` or `x^(2j+1) / (2j+1)!`, from the term numbered `j`. -/
def trigSeries (p : Nat) (x2 : Int) : Nat → Nat → Int → Int → Int
  | 0, _, _, acc => acc
  | n + 1, j, term, acc =>
    let t := -(fxMul p term x2) / ((j + 1) * (j + 2) : Nat)
    trigSeries p x2 n (j + 2) t (acc + t)

def fxSin (p : Nat) (x : Int) : Int := trigSeries p (fxMul p x x) (p / 8 + 12) 1 x x
def fxCos (p : Nat) (x : Int) : Int := trigSeries p (fxMul p x x) (p / 8 + 12) 0 (2 ^ p) (2 ^ p)

/-- The sum of `1 / ((2j+1) n^(2j+1))` with alternating signs, at scale `q`. -/
def atanInv (n q : Nat) : Nat → Nat → Nat → Int → Int → Int
  | 0, _, _, _, acc => acc
  | k + 1, j, pw, sg, acc =>
    let pw' := pw / (n * n)
    atanInv n q k (j + 2) pw' (-sg) (acc - sg * (pw' / (j + 2) : Nat))

/-- Pi at `q` places, within a few hundred units, by Machin's formula. -/
def fxPi (q : Nat) : Int :=
  16 * atanInv 5 q (q / 4 + 8) 1 (2 ^ q / 5) 1 (2 ^ q / 5 : Nat) -
  4 * atanInv 239 q (q / 12 + 8) 1 (2 ^ q / 239) 1 (2 ^ q / 239 : Nat)

/-- A magnitude known to lie strictly between `v - err` and `v + err` at `p` places, times 2^sh, rounded if both ends
round alike. -/
def roundBetween (fmt mode : Nat) (neg : Bool) (v err : Int) (p : Nat) (sh : Int) : Option (Nat × FFlags) :=
  if v ≤ err then none
  else
    let lo := roundMag fmt mode neg (v - err).toNat (sh - p) true
    let hi := roundMag fmt mode neg (v + err).toNat (sh - p) true
    if lo = hi then some lo else none

/-- Precisions tried in turn. -/
def precisions : List Nat := [192, 320, 640, 1280, 2560]

/-- The first precision at which the bounds agree. -/
def firstSome (f : Nat → Option (Nat × FFlags)) : List Nat → Nat × FFlags
  | [] => (0, 0)
  | p :: ps => match f p with
    | some r => r
    | none => firstSome f ps

/-- The bound on the fixed-point error of the series, in units of the last place. -/
def fxErr (p : Nat) : Int := 64 * (p : Int) + 4096

/-- A result that differs from the magnitude `m * 2^e` by less than any rounding can see, above it or below it. -/
def nearly (fmt mode : Nat) (neg above : Bool) (m : Nat) (e : Int) : Nat × FFlags :=
  roundMag fmt mode neg (if above then m * 2 ^ 120 else m * 2 ^ 120 - 1) (e - 120) true

/-- 2^x for a finite non-zero x = (-1)^neg * m * 2^e (R204). -/
def exp2Fin (fmt mode : Nat) (neg : Bool) (m : Nat) (e : Int) : Nat × FFlags :=
  let top : Int := e + bitLen m
  if top > 13 then
    -- beyond every exponent of the formats
    if neg then roundMag fmt mode false (2 ^ 80) (-20000) true else roundMag fmt mode false (2 ^ 80) 20000 true
  else if top < -64 then nearly fmt mode false (!neg) 1 0
  else
    let x := signed neg m
    -- floor and fraction
    let n : Int := if e ≥ 0 then x * 2 ^ e.toNat else x / 2 ^ (-e).toNat
    let f : Nat := if e ≥ 0 then 0 else (x % 2 ^ (-e).toNat).toNat
    if f = 0 then roundMag fmt mode false 1 n false
    else
      firstSome (fun p =>
        let fx : Int := (f * 2 ^ p / 2 ^ (-e).toNat : Nat)
        let v := fxExp p (fxMul p fx (fxLn2 p))
        roundBetween fmt mode false v (fxErr p) p n) precisions

/-- FEXP2 (R204, R205). -/
def fExp2 (fmt mode a : Nat) : Nat × FFlags :=
  let x := decodeF fmt a
  (nanCase fmt [x]).getD
    (match x with
     | .nan _ => nanRes fmt 0
     | .inf n => (if n then 0 else infBits fmt false, 0)
     | .fin n m e => if m = 0 then roundVal fmt mode (.fin false 1 0) else exp2Fin fmt mode n m e)

/-- FLOG2 (R204, R205). -/
def fLog2 (fmt mode a : Nat) : Nat × FFlags :=
  let x := decodeF fmt a
  (nanCase fmt [x]).getD
    (match x with
     | .nan _ => nanRes fmt 0
     | .inf n => if n then nanRes fmt flNV else (infBits fmt false, 0)
     | .fin n m e =>
       if m = 0 then (infBits fmt true, flDZ)
       else if n then nanRes fmt flNV
       else
         let l := bitLen m
         if m = 2 ^ (l - 1) then
           let k : Int := e + (l - 1 : Nat)
           if k = 0 then (0, 0) else roundMag fmt mode (k < 0) k.natAbs 0 false
         else
           -- x = r 2^k with r between 3/4 and 3/2
           let big := 2 * m ≥ 3 * 2 ^ (l - 1)
           let k : Int := e + l - (if big then 0 else 1)
           let den := if big then 2 ^ l else 2 ^ (l - 1)
           firstSome (fun p =>
             let q := p + 64
             let v := fxLn q m den * 2 ^ q / fxLn2 q + k * 2 ^ q
             roundBetween fmt mode (v < 0) v.natAbs (fxErr q) q 0) precisions)

/-- The argument less the nearest multiple of a quarter turn (R204: exactly reduced): the multiple, and the rest at `p`
places. -/
def reduceArg (p : Nat) (neg : Bool) (m : Nat) (e : Int) : Int × Int :=
  let q := p + 32 + (max 0 (e + bitLen m)).toNat
  let x2 : Int := signed neg m * 2 ^ (e + q + 1).toNat
  let pi := fxPi q
  let n := (2 * x2 + pi) / (2 * pi)
  -- x - n pi / 2 at q + 1 places
  (n, (x2 - n * pi) / 2 ^ (q + 1 - p))

/-- sin or cos of a finite non-zero argument that is not tiny. -/
def trigFin (cosine : Bool) (fmt mode : Nat) (neg : Bool) (m : Nat) (e : Int) : Nat × FFlags :=
  firstSome (fun p =>
    let (n, r) := reduceArg p neg m e
    let quarter := ((n + (if cosine then 1 else 0)) % 4).toNat
    let v := if quarter % 2 = 0 then fxSin p r else fxCos p r
    let v := if quarter ≥ 2 then -v else v
    roundBetween fmt mode (v < 0) v.natAbs (fxErr p) p 0) precisions

/-- FSIN (R204, R205). -/
def fSin (fmt mode a : Nat) : Nat × FFlags :=
  let x := decodeF fmt a
  (nanCase fmt [x]).getD
    (match x with
     | .nan _ => nanRes fmt 0
     | .inf _ => nanRes fmt flNV
     | .fin n m e =>
       if m = 0 then (a, 0)
       else if e + bitLen m < -30 then nearly fmt mode n false m e
       else trigFin false fmt mode n m e)

/-- FCOS (R204, R205). -/
def fCos (fmt mode a : Nat) : Nat × FFlags :=
  let x := decodeF fmt a
  (nanCase fmt [x]).getD
    (match x with
     | .nan _ => nanRes fmt 0
     | .inf _ => nanRes fmt flNV
     | .fin n m e =>
       if m = 0 then roundVal fmt mode (.fin false 1 0)
       else if e + bitLen m < -30 then nearly fmt mode false false 1 0
       else trigFin true fmt mode n m e)

/-- The irrational entries of R56 as numerators over 2^200, rounded down. -/
def constNum (idx : Nat) : Nat :=
  match idx with
  | 204 => 0x3243f6a8885a308d313198a2e03707344a4093822299f31d008
  | 205 => 0x1921fb54442d18469898cc51701b839a252049c1114cf98e804
  | 206 => 0xc90fdaa22168c234c4c6628b80dc1cd129024e088a67cc7402
  | 207 => 0x6487ed5110b4611a62633145c06e0e68948127044533e63a010
  | 208 => 0x517cc1b727220a94fe13abe8fa9a6ee06db14acc9e21c820ff
  | 209 => 0xa2f9836e4e441529fc2757d1f534ddc0db6295993c439041fe
  | 210 => 0x2b7e151628aed2a6abf7158809cf4f3c762e7160f38b4da56a7
  | 211 => 0xb17217f7d1cf79abc9e3b39803f2f6af40f343267298b62d8a
  | 212 => 0x171547652b82fe1777d0ffda0d23a7d11d6aef551bad2b4b116
  | 213 => 0x24d763776aaa2b05ba95b58ae0b4c28a38a3fb3e76977e43a0f
  | 214 => 0x4d104d427de7fbcc47c4acd605be48bc13569862a1e8f9a4c5
  | 215 => 0x35269e12f346e2bf924afdbfd36bf6d3365b157f8deceb53a46
  | 216 => 0x16a09e667f3bcc908b2fb1366ea957d3e3adec17512775099da
  | _ => 0xb504f333f9de6484597d89b3754abe9f1d6f60ba893ba84ced

/-- A rational constant rounded to nearest-even (R57). -/
def constRat (fmt : Nat) (neg : Bool) (num den : Nat) : Nat :=
  (roundDy fmt 0 neg (num * 2 ^ 200 / den) (-200) (num * 2 ^ 200 % den ≠ 0)).1

/-- An entry of R56 in an FP format (R57). -/
def fpConst (fmt idx : Nat) : Nat :=
  if idx < 176 then constRat fmt false (idx - 128) 1
  else if idx < 192 then constRat fmt true (idx - 175) 1
  else if idx < 200 then constRat fmt false 1 (2 ^ (idx - 191))
  else if 204 ≤ idx && idx ≤ 217 then (roundDy fmt 0 false (constNum idx) (-200) true).1
  else match idx with
    | 200 => signBit fmt true
    | 201 => infBits fmt false
    | 202 => infBits fmt true
    | 203 => defaultNaN fmt
    | 218 => constRat fmt false 3 2
    | 219 => constRat fmt false 5 2
    | 220 => constRat fmt false 3 4
    | 221 => constRat fmt false 1 10
    | 222 => constRat fmt false 1 3
    | 223 => constRat fmt false 64 1
    | 224 => constRat fmt false 128 1
    | 225 => constRat fmt false 256 1
    | 226 => constRat fmt false 1024 1
    | 227 => constRat fmt false 65536 1
    | 228 => maxBits fmt false
    | 229 => 2 ^ fracBits fmt
    | 230 => 1
    | 231 => constRat fmt false 1 (2 ^ fracBits fmt)
    | 232 => constRat fmt true 1 2
    | 233 => constRat fmt true 3 2
    | 234 => (roundDy fmt 0 true (constNum 204) (-200) true).1
    | 235 => (roundDy fmt 0 true (constNum 205) (-200) true).1
    | _ => maxBits fmt true

end Sys2Proof.Machine
end

