-- ==== Sys2Proof/Machine/Operands.lean ====
section
/-! DEFINITION. Registers of a wave and operand forms: levels and undefined values (spec/08 R170, R171), crossbar patterns
(R186), scalars, special registers and constants (spec/03 R55 to R57, R66), immediates (R49), element images
(spec/09 R190, R191), active threads (R220) and register blocks (R32, R67). -/
namespace Sys2Proof.Machine

/-- Bit `t` of a thread mask. -/
def bit (m : Word) (t : Nat) : Bool := m.getLsbD t

/-- A mask from a test on thread numbers. -/
def maskOf (p : Nat → Bool) : Word :=
  (List.range 32).foldl (fun m t => if p t then m ||| (1 <<< t) else m) 0

/-- The threads of a mask, ascending. -/
def threads (m : Word) : List Nat := (List.range 32).filter (bit m)

/-- The lowest thread of a mask (R366 THR). -/
def lowestThread (m : Word) : Nat := ((threads m).head?).getD 0

/-- The file of a level: 0 wick, 1 near, 2 far (R29). -/
def Wave.file (w : Wave) (lvl : Nat) : Tab Lanes :=
  match lvl with
  | 0 => w.wick
  | 1 => w.near
  | _ => w.far

/-- One thread's register (R170, R171): zero when the thread is not live, undefined (a free value) when a near or wick
register has not been written since it was lost, zero in a far register never written (R338). Readings `o` of one step may differ (R9). -/
def Wave.reg (s : State) (w : Wave) (lvl i t : Nat) (o : Nat := 0) : Word :=
  if !bit w.st.live t then 0
  else match ((tget (w.file lvl) i).bind fun l => (l[t]?).join) with
    | some v => v
    | none => if lvl = 2 then 0 else (s.fv (fkey 0 (o * 131072 + lvl * 65536 + i * 32 + t))).truncate 32

/-- New lanes of a register: threads of `act` take `val`, the others keep theirs. -/
def mergeLanes (old : Option Lanes) (act : Word) (val : Nat → Word) : Lanes :=
  (List.range 32).map fun t => if bit act t then some (val t) else ((old.getD [])[t]?).join

/-- A register written in the threads of `act` (R67). -/
def Wave.setReg (w : Wave) (lvl i : Nat) (act : Word) (val : Nat → Word) : Wave :=
  match lvl with
  | 0 => { w with wick := tset w.wick i (mergeLanes (tget w.wick i) act val) }
  | 1 => { w with near := tset w.near i (mergeLanes (tget w.near i) act val) }
  | _ => { w with far := tset w.far i (mergeLanes (tget w.far i) act val) }

/-- A scalar (R29, R338). -/
def WState.s (st : WState) (i : Nat) : DWord := (tget st.scal i).getD 0
def WState.setS (st : WState) (i : Nat) (v : DWord) : WState := { st with scal := tset st.scal i v }

/-- A predicate as a mask; p0 is 1 in every thread (R203). -/
def WState.p (st : WState) (i : Nat) : Word := if i = 0 then BitVec.allOnes 32 else (tget st.pred i).getD 0
def WState.setP (st : WState) (i : Nat) (v : Word) : WState := if i = 0 then st else { st with pred := tset st.pred i v }

/-- The active threads under a guard (R41, R220). -/
def WState.act (st : WState) (h : Hdr) : Word :=
  let g := st.p h.gp.toNat
  st.live &&& st.exec &&& (if h.gn then ~~~g else g)

/-- The source thread of a crossbar pattern; none delivers zero (R186). -/
def permute (pat par t : Nat) : Option Nat :=
  match pat with
  | 0 => some t
  | 1 => some (par % 32)
  | 2 => some ((t + par) % 32)
  | 3 => some (t ^^^ (par % 32))
  | 4 => some (t ^^^ (2 ^ par - 1))
  | 5 =>
    let k : Int := if par ≥ 32 then (par : Int) - 64 else par
    let u : Int := t + k
    if u < 0 || u > 31 then none else some u.toNat
  | _ => none

/-- The value of a special register in thread `t` (R55, R15, R162, R336, R356). -/
def special (s : State) (w : Wave) (idx t : Nat) : Word :=
  let b := tget s.blocks w.block
  let l := s.launchOf w
  let born := tget w.born t
  let n : Nat := match idx with
    | 64 => 0x01070100
    | 65 => t
    | 66 => if w.isBin then (match born with
              | none => 0
              | some x => if x.taper then 0xFFFFFFFF else 0xFFFFFFFE) else w.wid
    | 67 => (b.map Block.bx).getD 0
    | 68 => (b.map Block.byy).getD 0
    | 69 => (b.map Block.bz).getD 0
    | 70 => (l.map Launch.bdim).getD 0
    | 71 => (l.map Launch.gdx).getD 0
    | 72 => (l.map Launch.gdy).getD 0
    | 73 => (l.map Launch.gdz).getD 0
    | 74 => w.core % 4
    | 75 => w.core / 4 % 12
    | 76 => w.core / 48
    | 77 => (b.map Block.curve).getD 0
    | 78 => (born.map fun x => x.bx.toNat).getD 0
    | 79 => (born.map fun x => x.byy.toNat).getD 0
    | 80 => (born.map fun x => x.bz.toNat).getD 0
    | 81 => (born.map fun x => x.blen.toNat).getD 0
    | 82 => (born.map fun x => x.bflag.toNat).getD 0
    | n => (born.bind fun x => (x.barg[n - 83]?).map BitVec.toNat).getD 0
  BitVec.ofNat 32 n

/-- One value in every element of a register image (R191): 16-bit elements twice, 8-bit elements four times. -/
def replicate (fp : Bool) (fmt v : Nat) : DWord :=
  match fmt with
  | 1 => BitVec.ofNat 64 v
  | 0 => BitVec.ofNat 64 (v % 2 ^ 32)
  | 2 => BitVec.ofNat 64 (v % 2 ^ 16 * 0x10001)
  | _ => if fp then BitVec.ofNat 64 (v % 2 ^ 16 * 0x10001) else BitVec.ofNat 64 (v % 2 ^ 8 * 0x01010101)

/-- A constant of R56 as an integer modulo 2^64 (R57). -/
def intConst (idx : Nat) : Nat := if idx < 176 then idx - 128 else 2 ^ 64 - (idx - 175)

/-- A special register read once for the wave (R187). Where the threads on the path hold different values, which one is read is not
stated: a free choice, the same in every step (log 1, R395). -/
def uniSpecial (s : State) (w : Wave) (idx : Nat) : Word :=
  let vals := (threads (w.st.live &&& w.st.exec)).map (special s w idx)
  match vals with
  | [] => 0
  | v :: rest => if rest.all fun x => x = v then v else (vals[(Config.freeValue 0 (fkey 1 idx)).toNat % vals.length]?).getD v

/-- A level 0b11 source as the image of one register or one 64-bit element (R66, R191). `scalarPath` says U = 1 or a wave-level
read, which reads a special register once. -/
def level3 (s : State) (w : Wave) (fp scalarPath : Bool) (fmt idx t : Nat) : DWord :=
  if idx < 64 then (if fmt = 1 then w.st.s idx else (w.st.s idx).truncate 32 |>.zeroExtend 64)
  else if idx < 87 then (if scalarPath then uniSpecial s w idx else special s w idx t).zeroExtend 64
  else replicate fp fmt (if fp then fpConst fmt idx else intConst idx)

/-- ReadOperand (R66) on one unit of a block: a 32-bit register image, or under a 64-bit format a pair, low word
first (R190). `off` is the unit's first register; the operand `slot` and the thread tell the readings of one
step apart (R9). -/
def srcUnit (s : State) (w : Wave) (fp scalarPath : Bool) (fmt : Nat) (f : Src) (t off : Nat) (slot : Nat := 0) : DWord :=
  if f.lvl = 3 then level3 s w fp scalarPath fmt f.idx.toNat t
  else match permute f.pat.toNat f.par.toNat t with
    | none => 0
    | some u =>
      let lo := (w.reg s f.lvl.toNat (f.idx.toNat + off) u (slot * 32 + t)).zeroExtend 64
      if fmt = 1 then lo ||| ((w.reg s f.lvl.toNat (f.idx.toNat + off + 1) u (slot * 32 + t)).zeroExtend 64 <<< 32) else lo

/-- A 32-bit value of any source (R123). -/
def read32 (s : State) (w : Wave) (f : Src) (t : Nat) (slot : Nat := 0) : Word := (srcUnit s w false false 0 f t 0 slot).truncate 32

/-- The low 32 bits of a level 0b11 operand, read once for the wave (R156, R357). -/
def read32w (s : State) (w : Wave) (f : Src) : Word := (level3 s w false true 0 f.idx.toNat 0).truncate 32

/-- All 64 bits of a level 0b11 operand (R123, R145, R219): constants are sign-extended. -/
def read64w (s : State) (w : Wave) (f : Src) : DWord := level3 s w false true 1 f.idx.toNat 0

/-- A 64-bit base: a scalar, or a pair (R123). -/
def readBase (s : State) (w : Wave) (f : Src) (t : Nat) : DWord := srcUnit s w false false 1 f t 0

/-- An FP32 encoding converted exactly to FP64 (R49, R113, R441): the value, and of a NaN its sign, its payload and whether it
signals. -/
def widen32 (x : Nat) : Nat :=
  if bitsOf x 30 23 = 255 && bitsOf x 22 0 ≠ 0 then bitsOf x 31 31 * 2 ^ 63 + 2047 * 2 ^ 52 + bitsOf x 22 0 * 2 ^ 29
  else (roundVal 1 0 (decodeF 0 x)).1

/-- A format I immediate as the image of a unit (R49, R191). -/
def immUnit (fp : Bool) (fmt : Nat) (imm : Word) : DWord :=
  match fp, fmt with
  | false, 1 => imm.signExtend 64
  | true, 1 => BitVec.ofNat 64 (widen32 imm.toNat)
  | fp, fmt => replicate fp fmt imm.toNat

/-- The registers of a block: offsets 4r + c in the linear order of R124. -/
def blockOffs (d : Dst) : List Nat :=
  (List.range (d.rows.toNat + 1)).flatMap fun r => (List.range (d.cols.toNat + 1)).map fun c => 4 * r + c

/-- The units of a block under a format: registers, or pairs of columns (R190). -/
def unitOffs (fmt : Nat) (d : Dst) : List Nat :=
  if fmt = 1 then
    (List.range (d.rows.toNat + 1)).flatMap fun r => (List.range ((d.cols.toNat + 1) / 2)).map fun m => 4 * r + 2 * m
  else blockOffs d

/-- Element width in bits (R47). -/
def elemBits (fp : Bool) (fmt : Nat) : Nat :=
  match fmt with
  | 0 => 32
  | 1 => 64
  | 2 => 16
  | _ => if fp then 16 else 8

/-- Bits of a unit. -/
def unitBits (fmt : Nat) : Nat := if fmt = 1 then 64 else 32

/-- An element operation applied to each element of the units (R190), flags joined. -/
def mapElems (ub eb : Nat) (op : List Nat → Nat × FFlags) (imgs : List DWord) : DWord × FFlags :=
  (List.range (ub / eb)).foldl (fun acc k =>
    let r := op (imgs.map fun x => x.toNat / 2 ^ (eb * k) % 2 ^ eb)
    (acc.1 ||| BitVec.ofNat 64 (r.1 % 2 ^ eb * 2 ^ (eb * k)), acc.2 ||| r.2)) (0, 0)

/-- A unit written to the block in every thread of `act` (R67). -/
def Wave.writeUnit (w : Wave) (fmt : Nat) (d : Dst) (off : Nat) (act : Word) (val : Nat → DWord) : Wave :=
  let w1 := w.setReg d.lvl.toNat (d.idx.toNat + off) act (fun t => (val t).truncate 32)
  if fmt = 1 then w1.setReg d.lvl.toNat (d.idx.toNat + off + 1) act (fun t => ((val t) >>> 32).truncate 32) else w1

/-- Flags of the active threads joined. -/
def joinFlags (act : Word) (f : Nat → FFlags) : FFlags := (threads act).foldl (fun a t => a ||| f t) 0

/-- An element-by-element instruction: for each unit of the destination block and each active thread, `val` gives the
unit's image and flags from the registers before the instruction (R68). Under U = 1 the scalar takes one image,
zero-extended (R187). -/
def Wave.elementwise (w : Wave) (u : Bool) (fmt : Nat) (d : Dst) (act : Word)
    (val : Nat → Nat → DWord × FFlags) : Wave × FFlags :=
  if u then
    if act = 0 then (w, 0)
    else
      let r := val 0 0
      ({ w with st := w.st.setS d.idx.toNat r.1 }, r.2)
  else
    (unitOffs fmt d).foldl (fun acc off =>
      (acc.1.writeUnit fmt d off act (fun t => (val t off).1), acc.2 ||| joinFlags act (fun t => (val t off).2))) (w, 0)

/-- A predicate destination: active threads take their own bit, the others keep theirs (R203). -/
def Wave.writePred (w : Wave) (i : Nat) (act : Word) (val : Nat → Bool) : Wave :=
  { w with st := w.st.setP i ((w.st.p i &&& ~~~act) ||| (maskOf val &&& act)) }

/-- A value of `n` registers delivered to a block in its linear order; registers beyond it receive zero (R124, R136). -/
def Wave.writeBlockWords (w : Wave) (d : Dst) (act : Word) (val : Nat → Nat → Word) : Wave :=
  ((blockOffs d).zipIdx).foldl (fun acc oj => acc.setReg d.lvl.toNat (d.idx.toNat + oj.1) act (fun t => val t oj.2)) w

/-- A status word delivered to a block or to a scalar under U = 1: register 0 takes the low word, register 1 the high
word; further registers take zero, DESIGN CHOICE (log 13): R140 and R145 state nothing for them. -/
def Wave.writeStatus (w : Wave) (u : Bool) (d : Dst) (act : Word) (v : DWord) : Wave :=
  if u then { w with st := w.st.setS d.idx.toNat v }
  else w.writeBlockWords d act fun _ j =>
    match j with
    | 0 => v.truncate 32
    | 1 => (v >>> 32).truncate 32
    | _ => 0

end Sys2Proof.Machine
end

