-- ==== Sys2Proof/Machine/Flags.lean ====
section
/-! DEFINITION. The FP status of a wave and the atomic status of a context (spec/11 R238 to R240, spec/13 R302). -/
namespace Sys2Proof.Machine

/-- A queued SWR of FPSTAT also takes the flags of the instructions issued after it (R239). -/
def QEntry.later (fl : FFlags) (q : QEntry) : QEntry :=
  match q.op with
  | .swr n a b => if n = 0x20 then { q with op := .swr n (a ||| fl.zeroExtend 64) b } else q
  | _ => q

/-- Flags merged into FPSTAT by OR, when an instruction writes its result (R239). -/
def Wave.raise (w : Wave) (fl : FFlags) : Wave :=
  { w with st := { w.st with fpstat := w.st.fpstat ||| fl }, queue := w.queue.map (QEntry.later fl) }

/-- A write of ASTAT: each 1 clears its bit (R7, R302). -/
def State.clearAstat (s : State) (ctx : Nat) (v : DWord) : State :=
  s.modCtx ctx fun c => { c with astat := c.astat &&& ~~~(v.truncate 5) }

/-- A number modulo 2^bits. -/
def wrap (bits : Nat) (v : Int) : Nat := (v % (2 ^ bits : Nat)).toNat

/-- A number clamped to the signed range of a width, or to the unsigned range (R195). -/
def clampTo (uns : Bool) (bits : Nat) (v : Int) : Nat :=
  let lo : Int := if uns then 0 else -(2 ^ (bits - 1) : Nat)
  let hi : Int := if uns then (2 ^ bits : Nat) - 1 else (2 ^ (bits - 1) : Nat) - 1
  wrap bits (max lo (min hi v))

end Sys2Proof.Machine
end

