-- ==== Sys2Proof/Machine/Atomic.lean ====
section
/-! DEFINITION. The operations of the atomics on one word (spec/13 R297, R298). -/
namespace Sys2Proof.Machine

/-- A register read as unsigned or as two's complement (R231). -/
def sgn (bits v : Nat) : Int := if v ≥ 2 ^ (bits - 1) then (v : Int) - 2 ^ bits else v

/-- Bytes of an atomic word (R297, R298). -/
def atomBytes (op : Nat) (pk w64 : Bool) : Nat := if w64 && !(op ≥ 11 && op ≤ 13 && pk) then 8 else 4

/-- One operation of R298 on an atomic word: the new word and its flags. -/
def atomOp (op : Nat) (pk w64 : Bool) (rnd old v cmp : Nat) : Nat × FFlags :=
  let bits := 8 * atomBytes op pk w64
  let fmt := if pk then (if w64 then 3 else 2) else if w64 then 1 else 0
  let halves (f : Nat → Nat → Nat × FFlags) : Nat × FFlags :=
    if pk then
      let lo := f (old % 2 ^ 16) (v % 2 ^ 16)
      let hi := f (old / 2 ^ 16 % 2 ^ 16) (v / 2 ^ 16 % 2 ^ 16)
      (lo.1 + hi.1 * 2 ^ 16, lo.2 ||| hi.2)
    else f old v
  match op with
  | 0 => ((old + v) % 2 ^ bits, 0)
  | 1 => (old &&& v, 0)
  | 2 => (old ||| v, 0)
  | 3 => (old ^^^ v, 0)
  | 4 => (if sgn bits v < sgn bits old then v else old, 0)
  | 5 => (if sgn bits v > sgn bits old then v else old, 0)
  | 6 => (min old v, 0)
  | 7 => (max old v, 0)
  | 8 => (v, 0)
  | 9 => (if old = cmp then v else old, 0)
  | 10 => (if old ≥ v then 0 else old + 1, 0)
  | 11 => halves fun a b =>
      if (decodeF fmt a).isNaN || (decodeF fmt b).isNaN then (defaultNaN fmt, flNV) else fAdd fmt rnd a b
  | 12 => halves fun a b => fMinMax false fmt a b
  | 13 => halves fun a b => fMinMax true fmt a b
  | 14 =>
    let f := if pk then 3 else if w64 then 0 else 2
    let h := bits / 2
    let r := fMaxI true f (old % 2 ^ h) (old / 2 ^ h) (v % 2 ^ h) (v / 2 ^ h)
    (r.1 + r.2.1 * 2 ^ h, r.2.2)
  | _ => (old, 0)

end Sys2Proof.Machine
end

