-- ==== Sys2Proof/Machine/Memory.lean ====
section
/-! DEFINITION. Memory at the home slices: physical bytes (spec/04 R69 to R75), translation and permissions (R76 to R89),
soft errors (spec/23 R440), seals and range locks (spec/05 R102 to R118), vigil entries evaluated after every write
(spec/13 R276 to R284), tiles (spec/05 R106 to R109) and barrier objects (spec/13 R292, R293). -/
namespace Sys2Proof.Machine

/-- A failed check of an access: cause and sub-cause (R364), the thread, the faulting address where there is one (R366). -/
structure Fail where
  cause : Nat
  sub : Nat
  thr : Option Nat
  addr : Option DWord
  deriving DecidableEq, Repr

/-- A translation that failed with a sub-cause of R84; sub-cause 0 stands for an uncorrectable error in a table (R70, R440). -/
def pageFail (sub va : Nat) : Fail :=
  if sub = 0 then ⟨26, 3, none, some (BitVec.ofNat 64 va)⟩ else ⟨3, sub, none, some (BitVec.ofNat 64 va)⟩
def Fail.at (f : Fail) (t : Nat) : Fail := { f with thr := some t }

/-- Where tier 2 begins in the model's one range of physical addresses; tier 1 begins at 0 (R69). A multiple of a page. -/
def tier2Base : Nat := 3 * 2 ^ 40

def physBase (tier2 : Bool) : Nat := if tier2 then tier2Base else 0

/-- What an unlisted byte of memory reads as: 0, DESIGN CHOICE (log 4). -/
def emptyByte : Byte := 0

/-- One byte of physical memory. -/
def memByte (m : Tab Byte) (pa : Nat) : Byte := (tget m pa).getD emptyByte

/-- Memory with one byte written; a byte equal to `emptyByte` is not listed, so equal memories are equal lists. -/
def memSet (m : Tab Byte) (pa : Nat) (b : Byte) : Tab Byte := if b = emptyByte then terase m pa else tset m pa b

/-- The canonical form of memory: keys strictly rising and no entry that an unlisted byte would read as. -/
def Memory.wf (m : Tab Byte) : Bool := tsorted m && m.all fun e => e.2 ≠ emptyByte

def memRead (m : Tab Byte) (pa n : Nat) : List Byte := (List.range n).map fun i => memByte m (pa + i)

def memWrite : Tab Byte → Nat → List Byte → Tab Byte
  | m, _, [] => m
  | m, pa, b :: bs => memWrite (memSet m pa b) (pa + 1) bs

/-- The first address that is not canonical (R76). -/
def vlim : Nat := 0x01FFFFFFFFFF8000

def canonical (va : Nat) : Bool := va < vlim

/-- Page number and offset (R78). -/
def pageNo (va : Nat) : Nat := (va >>> 14) / 3
def pageOff (va : Nat) : Nat := ((va >>> 14) % 3) * 16384 + va % 16384

def pageBytes : Nat := 49152

/-- Fields of a page-table entry (R81). -/
def pteV (e : Nat) : Bool := bitsOf e 0 0 = 1
def pteLeaf (e : Nat) : Bool := bitsOf e 1 1 = 1
def pteR (e : Nat) : Bool := bitsOf e 2 2 = 1
def pteW (e : Nat) : Bool := bitsOf e 3 3 = 1
def pteX (e : Nat) : Bool := bitsOf e 4 4 = 1
def pteOrd (e : Nat) : Nat := bitsOf e 6 5
def pteTier (e : Nat) : Bool := bitsOf e 7 7 = 1
def pteSeal (e : Nat) : Bool := bitsOf e 8 8 = 1
def ptePriv (e : Nat) : Bool := bitsOf e 9 9 = 1
def pteCmp (e : Nat) : Bool := bitsOf e 10 10 = 1
def pteRsh (e : Nat) : Bool := bitsOf e 11 11 = 1
def ptePpn (e : Nat) : Nat := bitsOf e 39 16
def pteNext (e : Nat) : Nat := bitsOf e 44 16 * 2048

/-- 48 KiB pages that a leaf of a level maps (R77, R80). -/
def leafPages (level : Nat) : Nat := 256 ^ (level - 1)

/-- A malformed entry with V = 1 (R82). -/
def pteMalformed (level pn e : Nat) : Bool :=
  bitsOf e 55 45 ≠ 0 || bitsOf e 15 12 ≠ 0 ||
  if pteLeaf e then
    level ≥ 4 || bitsOf e 44 40 ≠ 0 || pteOrd e = 3 || (pteX e && !pteSeal e) ||
    (!pteTier e && ptePpn e ≥ 4194304) || ptePpn e % leafPages level ≠ 0 ||
    (pn / leafPages level + 1) * leafPages level * pageBytes > vlim
  else level = 1 || bitsOf e 11 8 ≠ 0 || bitsOf e 6 2 ≠ 0

/-- The index of a page number at a level (R80). -/
def levelIndex (level pn : Nat) : Nat := if level = 5 then bitsOf pn 41 32 else bitsOf pn (8 * level - 1) (8 * level - 8)

/-- An access cut at every sector boundary (R71, R127): starts and lengths. -/
def sectorParts : Nat → Nat → Nat → List (Nat × Nat)
  | 0, _, _ => []
  | fuel + 1, va, n =>
    if n = 0 then []
    else
      let len := min n (48 - va % 48)
      (va, len) :: sectorParts fuel (va + len) (n - len)

def partsOf (va n : Nat) : List (Nat × Nat) := sectorParts (n / 48 + 2) va n

/-- The compute die of the home slice of a physical address (R73, R74). -/
def homeDie (pa : Nat) : Nat :=
  if pa < tier2Base then pa / pageBytes / 1048576 % 4 else (pa - tier2Base) / 192 % 4

/-- The home slice, 0 to 191 (R73, R74): of tier 1 by the line's number on its die, of tier 2 by its number in the tier. -/
def homeSlice (pa : Nat) : Nat :=
  if pa < tier2Base then homeDie pa * 48 + (pa / 192 % 2 ^ 28) % 48
  else homeDie pa * 48 + ((pa - tier2Base) / 192 / 4) % 48

/-! The L2 (R92 to R95). -/

/-- A sector's entry, if it is present in its slice. -/
def l2At (s : State) (sector : Nat) : Option L2Sector := (tget s.l2 (sector / 4)).bind fun l => tget l.sects (sector % 4)

/-- Whether a read of a sector meets an uncorrectable error (R440): in the slice's copy, or in the tier where the slice has none. -/
def uncorrectable (s : State) (pa : Nat) : Bool :=
  match l2At s (pa / 48) with
  | some _ => s.errs.contains (.l2 (pa / 48))
  | none => s.errs.contains (.tier (pa / 48)) || (s.die (homeDie pa)).poison.contains (pa / 48)

/-- Whether each of some words lies within a signed delta of `bits` bits of a base, modulo the width (R94). -/
def deltaOk (width bits base w : Nat) : Bool := (w + 2 ^ width - base % 2 ^ width + 2 ^ (bits - 1)) % 2 ^ width < 2 ^ bits

/-- The words of a sector. -/
def sectorWords (n : Nat) (bs : List Byte) : List Nat := (List.range (48 / n)).map fun i => leNat ((bs.drop (n * i)).take n)

/-- The encoding of a sector (R94): the lowest code whose condition holds, where plain, which has none, is the code of a sector that meets no
condition (DEDUCED, log 3). -/
def encodeSector (bs : List Byte) : Nat :=
  let w8 := sectorWords 8 bs
  let w4 := sectorWords 4 bs
  let b8 := w8.headD 0
  let b4 := w4.headD 0
  if bs.all fun b => b = 0 then 1
  else if w8.all fun w => w = b8 then 2
  else if w8.all (deltaOk 64 8 b8) then 3
  else if w4.all (deltaOk 32 8 b4) then 4
  else if w4.all fun w => deltaOk 32 8 b4 w || deltaOk 32 8 0 w then 5
  else if w8.all (deltaOk 64 16 b8) then 6
  else 0

/-- The chunks of 24 bytes that a sector of an encoding takes (R92). -/
def chunksOf (code : Nat) : Nat := if code = 0 then 2 else 1

/-- The lines of a slice that carry an overflow list and so stay in it (R280). -/
def pinnedLines (s : State) (slice : Nat) : List Nat :=
  let pin (loc : WLoc) (spill : Option Nat) : Option Nat := match loc, spill with
    | .mem a, some _ => if homeSlice a = slice then some (a / 192) else none
    | _, _ => none
  (((tvals s.vigils).filterMap fun v => pin v.loc v.spill) ++ (tvals s.helds).filterMap fun h => pin h.loc h.spill).eraseDups

/-- The chunks in use in a slice, a sector apart. -/
def chunksUsed (s : State) (slice but : Nat) : Nat :=
  s.l2.foldl (fun n l => if homeSlice (192 * l.1) = slice then
    l.2.sects.foldl (fun n x => if 4 * l.1 + x.1 = but then n else n + chunksOf x.2.code) n else n) 0

/-- A sector taken out of its slice. -/
def l2Drop (s : State) (sector : Nat) : State :=
  match tget s.l2 (sector / 4) with
  | none => s
  | some l =>
    let rest := terase l.sects (sector % 4)
    { s with l2 := if rest = [] then terase s.l2 (sector / 4) else tset s.l2 (sector / 4) { l with sects := rest } }

/-- One sector leaves its slice (R93): a dirty one is written to its tier, which overwrites an error there; an uncorrectable dirty one
enters its die's poison list (R440). None when that list is full. -/
def evictSector (s : State) (sector : Nat) : Option State :=
  match l2At s sector with
  | none => some s
  | some x =>
    let bad := s.errs.contains (.l2 sector)
    let s1 := l2Drop s sector
    let s2 := { s1 with errs := s1.errs.filter fun l => l ≠ .l2 sector && !(x.dirty && l = .tier sector) }
    let d := s.die (homeDie (48 * sector))
    if !x.dirty then some s2
    else if !bad then
      some (if d.poison.contains sector then s2.setDie (homeDie (48 * sector)) { d with poison := d.poison.filter (· ≠ sector) } else s2)
    else if d.poison.contains sector then some s2
    else if d.poison.length < 256 then some (s2.setDie (homeDie (48 * sector)) { d with poison := d.poison ++ [sector] })
    else none

/-- The sectors that a slice may evict to make room, those of its pinned lines and one line apart. -/
def evictable (s : State) (slice keep : Nat) : List Nat :=
  (s.l2.filter fun l => homeSlice (192 * l.1) = slice && l.1 ≠ keep && !(pinnedLines s slice).contains l.1).flatMap fun l =>
    l.2.sects.map fun x => 4 * l.1 + x.1

/-- Sectors evicted until one more of `need` chunks has room (R92, R95); which ones is not defined: a free choice among those whose
error, if any, the poison list can take (log 3). -/
def makeChunks (keep but need : Nat) : Nat → State → State
  | 0, s => s
  | fuel + 1, s =>
    if s.l2.length * 8 ≤ 87381 then s
    else
      let slice := homeSlice (192 * keep)
      if chunksUsed s slice but + need ≤ 87381 then s
      else
        let out := (evictable s slice keep).filterMap (evictSector s)
        match out[(s.fv (fkey 25 fuel)).toNat % out.length]? with
        | none => s
        | some s1 => makeChunks keep but need fuel s1

/-- All sectors of a line evicted, if the poison list can take their errors. -/
def evictLine (s : State) (line : Nat) : Option State :=
  [0, 1, 2, 3].foldl (fun o k => o.bind fun s => evictSector s (4 * line + k)) (some s)

/-- Room for a line in its set of 11 tags (R92): which line of a full set goes is not defined, a free choice. Where overflow lists pin
all 11 (R280) nothing gives way and the set holds one more: DESIGN CHOICE (log 3). -/
def makeTag (s : State) (line : Nat) : State :=
  if (tget s.l2 line).isSome || s.l2.length < 11 then s
  else
    let slice := homeSlice (192 * line)
    let set := Config.l2Set line % 2048
    let mine := s.l2.filter fun l => homeSlice (192 * l.1) = slice && Config.l2Set l.1 % 2048 = set
    if mine.length < 11 then s
    else
      let out := (mine.filter fun l => !(pinnedLines s slice).contains l.1).filterMap fun l => evictLine s l.1
      (out[(s.fv (fkey 26 line)).toNat % out.length]?).getD s

/-- A sector present in its slice after a fill or a write, encoded anew (R93, R94); `cmp` is its page's CMP where the line is
allocated now. -/
def l2Put (s : State) (cmp : Bool) (sector : Nat) (f : Option L2Sector → L2Sector) : State :=
  let s1 := makeTag s (sector / 4)
  let l := (tget s1.l2 (sector / 4)).getD ⟨cmp, []⟩
  let code := if l.cmp then encodeSector (memRead s1.mem (48 * sector) 48) else 0
  let s2 := makeChunks (sector / 4) sector (chunksOf code) (s1.l2.length * 4) s1
  let x := { f (l2At s2 sector) with code := code }
  { s2 with l2 := tset s2.l2 (sector / 4) { l with sects := tset l.sects (sector % 4) x } }

/-- A read at a home slice allocates its sector (R93); the copy of an uncorrectable sector is uncorrectable (R440). -/
def homeFill (s : State) (cmp : Bool) (pa : Nat) : State :=
  if (l2At s (pa / 48)).isSome then s
  else
    let s1 := l2Put s cmp (pa / 48) fun _ => ⟨false, 0, 0⟩
    if uncorrectable s pa && !s1.errs.contains (.l2 (pa / 48)) then { s1 with errs := s1.errs ++ [.l2 (pa / 48)] } else s1

/-! Translation. -/

/-- The walk from a table downward (R82, R87); a failure is the sub-cause of R84, or 0 where an entry lies in an uncorrectable sector
(R70, R440). A table that lies past the end of its tier reads as bytes that nothing has written: DESIGN CHOICE (log 21). -/
def walkFrom (s : State) (pn : Nat) : Nat → Nat → Except Nat Xlat
  | 0, _ => .error 3
  | level + 1, table =>
    let a := table + 8 * levelIndex (level + 1) pn
    let e := leNat (memRead s.mem a 8)
    if uncorrectable s a then .error 0
    else if !pteV e then .error 2
    else if pteMalformed (level + 1) pn e then .error 3
    else if pteLeaf e then .ok ⟨e, level + 1⟩
    else walkFrom s pn level (physBase (pteTier e) + pteNext e)

/-- A walk for a context (R79, R80). -/
def walk (s : State) (ctx pn : Nat) : Except Nat Xlat :=
  let x := (s.ctxReg ctx 0x41).toNat
  if x % 2 = 0 then .error 2
  else walkFrom s pn 5 (physBase (bitsOf x 40 40 = 1) + bitsOf x 39 13 * 8192)

/-- The places of the entries that a walk reads. -/
def walkPath (s : State) (pn : Nat) : Nat → Nat → List Nat
  | 0, _ => []
  | level + 1, table =>
    let a := table + 8 * levelIndex (level + 1) pn
    let e := leNat (memRead s.mem a 8)
    a :: if pteV e && !pteMalformed (level + 1) pn e && !pteLeaf e then walkPath s pn level (physBase (pteTier e) + pteNext e) else []

/-- Who asks for a translation (R83, R86): a core's load-store unit, another unit of a core, or the hub die. -/
inductive Agent where
  | lsu (c : Nat)
  | core (c : Nat)
  | hub
  deriving DecidableEq, Repr

/-- The caches that serve an agent, the nearest first, and their entries (R86). -/
def agentCaches : Agent → List TCache
  | .lsu c | .core c => [.core c, .die (dieOfCore c)]
  | .hub => [.hub]

def cacheSize : TCache → Nat
  | .core _ => 96
  | .die _ => 3072
  | .hub => 1024

/-- The first page that a leaf maps. -/
def leafBase (level pn : Nat) : Nat := pn / leafPages level * leafPages level

/-- Whether a cached leaf maps a page of a context. -/
def TEntry.maps (e : TEntry) (ctx pn : Nat) : Bool := e.ctx = ctx && e.base ≤ pn && pn < e.base + leafPages e.x.level

/-- The leaves for a page that an agent's caches hold (R86). -/
def cachedLeaves (s : State) (a : Agent) (ctx pn : Nat) : List Xlat :=
  s.tlb.filterMap fun e => if (agentCaches a).contains e.cache && e.maps ctx pn then some e.x else none

/-- Kinds of access (R83). -/
inductive Acc where
  | load
  | store
  | atomic
  | reg
  | fetch
  deriving DecidableEq, Repr

/-- Which translation a free choice speaks of: the accesses of one step differ by agent and kind (R88). -/
def xlatKey (a : Agent) (acc : Acc) (pn : Nat) : Nat :=
  let unit := match a with
    | .lsu _ => 0
    | .core _ => 1
    | .hub => 2
  let kind := match acc with
    | .load => 0
    | .store => 1
    | .atomic => 2
    | .reg => 3
    | .fetch => 4
  fkey 2 (pn * 16 + unit * 5 + kind)

/-- The leaf that an access uses: one of the cached ones or the walk's, and which is not defined where they differ (R88). -/
def leafOf (s : State) (a : Agent) (ctx pn : Nat) (acc : Acc) : Except Nat Xlat :=
  let home := walk s ctx pn
  let old := cachedLeaves s a ctx pn
  let same (x : Xlat) : Bool := match home with
    | .ok y => x = y
    | .error _ => false
  if old.all same then home
  else match old[(s.fv (xlatKey a acc pn)).toNat % (old.length + 1)]? with
    | some x => .ok x
    | none => home

/-- A translation entered in a cache (R86); which entry of a full cache goes is not defined, a free choice. -/
def tlbAdd (s : State) (e : TEntry) : State :=
  if s.tlb.contains e then s
  else
    let mine := s.tlb.filter fun y => y.cache = e.cache
    let kept := if mine.length < cacheSize e.cache then s.tlb
      else match mine[(s.fv (fkey 27 e.base)).toNat % mine.length]? with
        | none => s.tlb
        | some y => s.tlb.erase y
    { s with tlb := kept ++ [e] }

/-- A translation used: its leaf stands in the caches that served it (R86), and where none held it the walk read its entries at their
home slices (R87). -/
def useXlat (s : State) (a : Agent) (ctx va : Nat) (x : Xlat) : State :=
  let pn := pageNo va
  let root := (s.ctxReg ctx 0x41).toNat
  let s1 := if (cachedLeaves s a ctx pn).contains x then s
    else (walkPath s pn 5 (physBase (bitsOf root 40 40 = 1) + bitsOf root 39 13 * 8192)).foldl (fun s pa => homeFill s false pa) s
  (agentCaches a).foldl (fun s c => tlbAdd s ⟨c, ctx, leafBase x.level pn, x⟩) s1

/-- After a failed translation or check of a page its leaves leave the caches that served the agent, so that the access walks again when
it is made again (R86). -/
def dropLeaves (s : State) (a : Agent) (ctx pn : Nat) : State :=
  { s with tlb := s.tlb.filter fun e => !((agentCaches a).contains e.cache && e.maps ctx pn) }

/-- The physical address that a leaf gives (R72, R78). -/
def physOf (x : Xlat) (va : Nat) : Nat :=
  physBase (pteTier x.pte) + (ptePpn x.pte + pageNo va % leafPages x.level) * pageBytes + pageOff va

/-- The private frame that holds an address, if any (R100, R339). -/
def frameOf (s : State) (ctx va : Nat) : Option Nat :=
  let base := (s.ctxReg ctx 0x43).toNat
  let size := (s.ctxReg ctx 0x44).toNat % 2 ^ 32 * pageBytes
  let count := (s.ctxReg ctx 0x45).toNat % 2 ^ 32
  if size = 0 || va < base || (va - base) / size ≥ count then none else some ((va - base) / size)

/-- The wave that holds a frame and is resident, with its core: the owner of its pages (R100). -/
def frameOwner (s : State) (ctx va : Nat) : Option (Nat × Nat) :=
  (frameOf s ctx va).bind fun k =>
    (s.waves.find? fun e => e.2.ctx = ctx && e.2.frameNo = some k && s.residentBlock e.2.block).map fun e => (e.1, e.2.core)

/-- The permission checks of R83 in the order of R84. -/
def permFail (s : State) (ctx va : Nat) (acc : Acc) (a : Agent) (e : Nat) : Option Nat :=
  let rd := acc = .load || acc = .atomic || acc = .reg
  let wr := acc = .store || acc = .atomic
  if rd && !pteR e then some 4
  else if wr && !pteW e then some 5
  else if acc = .fetch && !pteX e then some 6
  else if ptePriv e && (match a, frameOwner s ctx va with
      | .lsu c, some (_, c') => c ≠ c'
      | _, _ => true) then some 7
  else if wr && pteSeal e then some 8
  else none

/-- A translated place: its physical address and its leaf. -/
structure Place where
  pa : Nat
  pte : Nat
  x : Xlat
  deriving DecidableEq, Repr

/-- Translation and permission of one byte's page for an agent (R84): the lowest sub-cause is reported. -/
def xlate (s : State) (a : Agent) (ctx va : Nat) (acc : Acc) : Except Nat Place :=
  if !canonical va then .error 1
  else match leafOf s a ctx (pageNo va) acc with
    | .error n => .error n
    | .ok x =>
      match permFail s ctx va acc a x.pte with
      | some n => .error n
      | none => .ok ⟨physOf x va, x.pte, x⟩

/-- A read through a translation at a home slice: the translation's caches and the slice fill (R86, R93). -/
def useRead (s : State) (a : Agent) (ctx va : Nat) (p : Place) : State := homeFill (useXlat s a ctx va p.x) (pteCmp p.pte) p.pa

/-- A full rewrite of a sector removes its marks (R440). -/
def clearErrs (s : State) (sector : Nat) : State :=
  let d := s.die (homeDie (48 * sector))
  let s1 := if d.poison.contains sector then s.setDie (homeDie (48 * sector)) { d with poison := d.poison.filter (· ≠ sector) } else s
  { s1 with errs := s1.errs.filter fun l => l ≠ .l2 sector && l ≠ .tier sector }

/-- A range in the context's part of the seal table (R102). -/
def sealedBy (s : State) (ctx va n : Nat) : Bool :=
  s.seals.any fun e => e.ctx = ctx && va < e.base + 192 * e.lines && e.base < va + n

/-- A range lock met by a thread of the context on a die (R118): sub-cause 1 for a write, 2 for a read. -/
def lockFail (s : State) (ctx die va n : Nat) (write : Bool) : Option Nat :=
  if s.locks.any fun l => l.ctx = ctx && l.dies.contains die && (write || l.dst) && l.lo ≤ (va + n - 1) / 48 && va / 48 ≤ l.hi
  then some (if write then 1 else 2) else none

/-- A byte of a tile; one that nothing has written is a free value of its own in each reading `o` of a step (R9, R140). -/
def tileByte (s : State) (id : Nat) (t : Tile) (off : Nat) (o : Nat := 0) : Byte :=
  match tget t.data off with
  | some b => b
  | none => if t.cleared then 0 else (s.fv (fkey 3 ((id * 2 ^ 32 + off) * 64 + o))).truncate 8

def tileRead (s : State) (id off n : Nat) (o : Nat := 0) : List Byte :=
  match tget s.tiles id with
  | none => (List.range n).map fun i => (s.fv (fkey 3 ((id * 2 ^ 32 + off + i) * 64 + o))).truncate 8
  | some t => (List.range n).map fun i => tileByte s id t (off + i) o

/-- Bytes set in a table, none removed. -/
def tabWrite : Tab Byte → Nat → List Byte → Tab Byte
  | m, _, [] => m
  | m, a, b :: bs => tabWrite (tset m a b) (a + 1) bs

def readLoc (s : State) (loc : WLoc) (n : Nat) : Nat :=
  match loc with
  | .mem pa => leNat (memRead s.mem pa n)
  | .tile t off => leNat (tileRead s t off n)

/-- A compare code of R276 at a width. -/
def cmpHolds (cmp bits w v m : Nat) : Bool :=
  let s (x : Nat) : Int := if x ≥ 2 ^ (bits - 1) then (x : Int) - 2 ^ bits else x
  let w := w % 2 ^ bits
  let v := v % 2 ^ bits
  let m := m % 2 ^ bits
  match cmp with
  | 0 => w = v
  | 1 => w ≠ v
  | 2 => w < v
  | 3 => w ≥ v
  | 4 => s w < s v
  | 5 => s w ≥ s v
  | 6 => w &&& m = v &&& m
  | _ => w &&& m ≠ v &&& m

/-- A barrier object (R292). -/
structure Bar where
  phase : Nat
  arrive : Nat
  reload : Nat
  wreg : Nat
  bytes : Nat
  wobs : Nat
  eflt : Bool
  drn : Bool
  rest : Nat
  deriving DecidableEq, Repr

def Bar.ofNat (n : Nat) : Bar :=
  ⟨bitsOf n 15 0, bitsOf n 31 16, bitsOf n 47 32, bitsOf n 63 48, bitsOf n 95 64, bitsOf n 111 96, bitsOf n 112 112 = 1,
    bitsOf n 113 113 = 1, bitsOf n 127 114⟩

def Bar.toNat (b : Bar) : Nat :=
  b.phase % 2 ^ 16 + b.arrive % 2 ^ 16 * 2 ^ 16 + b.reload % 2 ^ 16 * 2 ^ 32 + b.wreg % 2 ^ 16 * 2 ^ 48 +
  b.bytes % 2 ^ 32 * 2 ^ 64 + b.wobs % 2 ^ 16 * 2 ^ 96 + (if b.eflt then 2 ^ 112 else 0) + (if b.drn then 2 ^ 113 else 0) +
  b.rest * 2 ^ 114

/-- FLAGS, bits [127:112] (R292). -/
def Bar.flags (b : Bar) : Nat := b.toNat / 2 ^ 112

/-- What a barrier wait delivers (R287). -/
def Bar.delivered (b : Bar) : DWord := BitVec.ofNat 64 (b.phase % 2 ^ 16 + b.flags * 2 ^ 16)

/-- Whether an entry's condition holds now (R276, R287), and the value it would deliver. -/
def Vigil.holds (s : State) (v : Vigil) : Bool :=
  match v.kind with
  | .plain | .queue => cmpHolds v.cmp (if v.w64 then 64 else 32) (readLoc s v.loc (if v.w64 then 8 else 4)) v.operand.toNat v.mask.toNat
  | .phase | .deferred => (Bar.ofNat (readLoc s v.loc 16)).phase ≠ v.operand.toNat % 2 ^ 16
  | .drain => !(Bar.ofNat (readLoc s v.loc 16)).drn

def Vigil.value (s : State) (v : Vigil) : DWord :=
  match v.kind with
  | .plain | .queue => BitVec.ofNat 64 (readLoc s v.loc (if v.w64 then 8 else 4))
  | _ => (Bar.ofNat (readLoc s v.loc 16)).delivered

/-- The bytes that an entry watches. -/
def Vigil.width (v : Vigil) : Nat :=
  match v.kind with
  | .plain | .queue => if v.w64 then 8 else 4
  | _ => 16

/-- Whether a write of `n` bytes at a place reaches the entry's word. -/
def Vigil.reached (v : Vigil) (loc : WLoc) (n : Nat) : Bool :=
  match v.loc, loc with
  | .mem a, .mem b => a < b + n && b < a + v.width
  | .tile t a, .tile u b => t = u && a < b + n && b < a + v.width
  | _, _ => false

/-- Whether a write or wake at a place reaches an entry that holds an uncorrectable error (R440). -/
def vigilErr (s : State) (loc : WLoc) (n : Nat) : Bool :=
  s.errs.any fun l => match l with
    | .vigil id => ((tget s.vigils id).map fun (v : Vigil) => v.reached loc n).getD false
    | _ => false

/-- An entry taken out of the table or its overflow list, with its error; a spilled one frees its pool sector (R280). -/
def dropVigil (s : State) (v : Vigil) : State :=
  let s1 := { s with vigils := terase s.vigils v.id, errs := s.errs.filter fun l => l ≠ .vigil v.id }
  match v.spill with
  | none => s1
  | some k => s1.modCtx v.ctx fun c => { c with spill := c.spill.filter (· ≠ k) }

/-- An entry removed and its waiter woken with a value (R278). A phase entry's wake carries the observation (R288). -/
def wakeVigil (s : State) (v : Vigil) (flag : Bool) (value : DWord) : State :=
  let obs := if v.kind = .phase && flag then some v.loc else none
  let s1 := dropVigil s v
  { s1 with wakes := s1.wakes ++ [⟨v.waiter, v.va, value, flag, obs, false, none⟩] }

/-- The evaluation after one write (R278): every entry but queue entries whose word the write reached. -/
def evalVigils (s : State) (loc : WLoc) (n : Nat) : State :=
  (tvals s.vigils).foldl (fun s v =>
    if v.kind ≠ .queue && v.reached loc n && v.holds s then wakeVigil s v true (v.value s) else s) s

/-- The sectors of a write become dirty in their slice and are encoded anew (R93, R94); a sector wholly written loses its error marks,
one that is partly written while the tier's copy is uncorrectable keeps the error (R440). -/
def dirtyParts (s : State) (ctx : Nat) (cmp : Bool) : List (Nat × Nat) → State
  | [] => s
  | (a, n) :: rest =>
    let bad := n < 48 && (l2At s (a / 48)).isNone && uncorrectable s a
    let s1 := l2Put s cmp (a / 48) fun _ => ⟨true, ctx, 0⟩
    let s2 := if 48 ≤ n then clearErrs s1 (a / 48)
      else if bad then { s1 with errs := s1.errs.filter (· ≠ .l2 (a / 48)) ++ [.l2 (a / 48)] } else s1
    dirtyParts s2 ctx cmp rest

/-- A write performed at a home slice: the bytes, the sectors, the vigils (R93, R278). One call is one write; `cmp` is the CMP of its
page. -/
def homeWrite (s : State) (ctx pa : Nat) (bytes : List Byte) (cmp : Bool := false) : State :=
  if bytes = [] then s
  else
    let s1 := { s with mem := memWrite s.mem pa bytes }
    evalVigils (dirtyParts s1 ctx cmp (partsOf pa bytes.length)) (.mem pa) bytes.length

/-- Flags raised by an atomic, merged into the context's ASTAT (R240, R302). -/
def State.raiseAstat (s : State) (ctx : Nat) (fl : FFlags) : State :=
  s.modCtx ctx fun c => { c with astat := c.astat ||| fl }

/-- One operation applied to a word at its home slice: the new state and the old word (R298, R302). -/
def atomAt (s : State) (ctx pa op : Nat) (pk w64 : Bool) (rnd : Nat) (v cmp : DWord) (pageCmp : Bool) : State × Nat :=
  let n := atomBytes op pk w64
  let old := leNat (memRead s.mem pa n)
  let m := 2 ^ (8 * n)
  let r := atomOp op pk w64 rnd old (v.toNat % m) (cmp.toNat % m)
  ((homeWrite s ctx pa (leBytes n r.1) pageCmp).raiseAstat ctx r.2, old)

/-! Writes that have been sent (R312 to R315). -/

/-- Whether the instance of a scope that contains a wave of one core contains another wave, of another or the same core (R19): that of
`.thr` and of `.wave` contains no other wave. -/
def inScope (scope a b : Nat) : Bool :=
  match scope with
  | 0 | 1 => false
  | 2 => a = b
  | 3 => quadOfCore a = quadOfCore b
  | 4 => dieOfCore a = dieOfCore b
  | _ => true

/-- Whether two runs of bytes meet. -/
def bytesMeet (a n b m : Nat) : Bool := a < b + m && b < a + n

/-- The sent writes of a list performed in their order. -/
def performSent (s : State) (l : List Sent) : State := l.foldl (fun s x => match x.red with
  | none => homeWrite s x.ctx x.pa x.bytes x.cmp
  | some (op, pk, w64, rnd) => (atomAt s x.ctx x.pa op pk w64 rnd (BitVec.ofNat 64 (leNat x.bytes)) 0 x.cmp).1) s

/-- Sent writes performed: those that a test names, and before each the earlier ones of its wave that share a byte with it (R314). -/
def flushSent (s : State) (p : Sent → Bool) : State :=
  let mark := s.sent.foldr (fun x (acc : List (Bool × Sent)) =>
    (p x || acc.any (fun y => y.1 && y.2.wave = x.wave && bytesMeet x.pa x.bytes.length y.2.pa y.2.bytes.length), x) :: acc) []
  performSent { s with sent := (mark.filter fun y => !y.1).map Prod.snd } ((mark.filter Prod.fst).map Prod.snd)

/-- Every sent write of a wave performed. -/
def flushWave (s : State) (k : Nat) : State := flushSent s fun x => x.wave = k

/-- Whether a sent write is ordered before a release at a scope whose instance contains the waves of a core (R131, R317). -/
def Sent.releasedTo (s : State) (core : Nat) (x : Sent) : Bool :=
  x.rel ≠ 0 && (match s.wave x.wave with
    | none => true
    | some w => inScope x.rel w.core core)

/-- What an access on a core to bytes of a sector must find performed (R131, R314, R317): the writes to the sector that a release has
ordered at a scope that contains the core. -/
def flushReleased (s : State) (core pa : Nat) : State :=
  flushSent s fun x => bytesMeet x.pa x.bytes.length (pa / 48 * 48) 48 && x.releasedTo s core

/-- What a wave's access to some bytes must find performed: its own sent writes to them (R314, R315), and the released ones. -/
def flushOwn (s : State) (k pa n : Nat) : State :=
  let core := ((s.wave k).map Wave.core).getD 0
  flushSent s fun x => (x.wave = k && bytesMeet x.pa x.bytes.length pa n) ||
    (bytesMeet x.pa x.bytes.length (pa / 48 * 48) 48 && x.releasedTo s core)

/-- What an access from another node must find performed: the writes to its bytes that a release at `.pod` or `.sys` has ordered, scopes
whose instances contain other modules and hosts (R19, R131). -/
def flushOutside (s : State) (pa n : Nat) : State := flushSent s fun x => bytesMeet x.pa x.bytes.length pa n && x.rel ≥ 6

/-- A release of a wave at a scope: its sent writes are ordered before it, those to UO pages apart (R315, R317). -/
def releaseSent (s : State) (k scope : Nat) : State :=
  { s with sent := s.sent.map fun x => if x.wave = k && !x.uo then { x with rel := max x.rel scope } else x }

/-- An acquire on a core at a scope: the writes ordered before a release whose instance holds both are performed first (R317). -/
def acquireSent (s : State) (core scope : Nat) : State :=
  flushSent s fun x => x.releasedTo s core && (match s.wave x.wave with
    | none => true
    | some w => inScope scope core w.core)

/-- Whether a run of a tile's bytes meets an uncorrectable 8-byte word (R440). -/
def tileWordsBad (s : State) (id off n : Nat) : Bool :=
  s.errs.any fun l => match l with
    | .tile t w => t = id && bytesMeet (8 * w) 8 off n
    | _ => false

/-- The words that a run of a tile's bytes covers whole lose their error marks (R440). -/
def clearTileWords (s : State) (id off n : Nat) : State :=
  { s with errs := s.errs.filter fun l => match l with
      | .tile t w => !(t = id && off ≤ 8 * w && 8 * w + 8 ≤ off + n)
      | _ => true }

/-- A write to a tile's bytes, with the vigils of the tile (R287). -/
def tileWrite (s : State) (id off : Nat) (bytes : List Byte) : State :=
  evalVigils (clearTileWords (s.modTile id fun t => { t with data := tabWrite t.data off bytes }) id off bytes.length)
    (.tile id off) bytes.length

/-- The CMP of the page of a context that holds a physical address, by the leaves that the caches hold (R94, log 3). -/
def knownCmp (s : State) (ctx pa : Nat) : Bool :=
  s.tlb.any fun e => e.ctx = ctx && pteCmp e.x.pte && (
    let lo := physBase (pteTier e.x.pte) + ptePpn e.x.pte * pageBytes
    lo ≤ pa && pa < lo + leafPages e.x.level * pageBytes)

/-- A write at a word's place. -/
def writeLoc (s : State) (ctx : Nat) (loc : WLoc) (bytes : List Byte) : State :=
  match loc with
  | .mem pa => homeWrite s ctx pa bytes (knownCmp s ctx pa)
  | .tile t off => tileWrite s t off bytes

def barAt (s : State) (loc : WLoc) : Bar := Bar.ofNat (readLoc s loc 16)
def setBar (s : State) (ctx : Nat) (loc : WLoc) (b : Bar) : State := writeLoc s ctx loc (leBytes 16 b.toNat)

/-- A tile of a block or of its cluster (R106). Where the block's own handle and its cluster's have one number, the block's own is meant:
DESIGN CHOICE (log 19). -/
def findTile (s : State) (blk handle : Nat) : Option (Nat × Tile) :=
  match s.tiles.find? fun e => e.2.handle = handle && e.2.owner = .block blk with
  | some e => some e
  | none => (tget s.blocks blk).bind fun b => s.tiles.find? fun e => e.2.handle = handle && e.2.owner = .cluster b.launch b.cluster

/-- A tile's word (R106). CORES names the cores that hold rows: row r lives on the (r mod n)-th core (R107), so that of fewer rows than cores
the first cores hold one each. -/
def tileWord (t : Tile) : Nat :=
  2 ^ 63 + t.lvl % 4 * 2 ^ 61 + t.ew % 8 * 2 ^ 58 + (t.rows - 1) % 1024 * 2 ^ 48 + (t.cols - 1) % 1024 * 2 ^ 38 +
    ((t.cores.take t.rows).foldl (fun m c => m ||| 2 ^ (c % 4)) 0) * 2 ^ 34 + (if t.bd ≠ 0 then 2 ^ 33 else 0) +
    (if t.bs ≠ 0 then 2 ^ 32 else 0) + t.bytes % 2 ^ 32

/-- %wid of a wave as a key counts it: a wave formed from a bin waits only with spawned threads, which read 0xFFFF_FFFE (R356). -/
def Wave.keyWid (w : Wave) : Nat := if w.isBin then 0xFFFFFFFE else w.wid

/-- The wave index and cluster of a waiting wave, for releases and held arrivals (R404, R406): launch, curve, index. -/
def waveKey (s : State) (k : Nat) : Nat × Nat × Nat :=
  match s.wave k with
  | none => (0, 0, 0)
  | some w =>
    match tget s.blocks w.block with
    | none => (0, 0, 0)
    | some b => (b.launch, b.curve, b.inCluster * (match tget s.launches b.launch with
        | none => 0
        | some l => l.bdim) + w.keyWid)

/-- A phase completion that wakes waves of more than one cluster is a grid-wide release (R406), with the slew allowance of its
moment (R422). -/
def noteRelease (s : State) (woken : List Nat) : State :=
  let ks := woken.map fun k => (k, waveKey s k)
  let clusters := (ks.map fun e => (e.2.1, e.2.2.1)).eraseDups
  match ks, clusters with
  | (_, (l, _)) :: _, _ :: _ :: _ =>
    let q := (tget s.launches l).map Launch.queue
    let held := (s.quads.filter fun e => e.2.grant.isSome && e.2.grant = q).length
    { s with releases := tset s.releases (tfresh s.releases) ⟨ks, [], max 1 (held / 4), 0⟩ }
  | _, _ => s

/-- A held arrival taken out of its table or overflow list; a spilled one frees its pool sector (R280, R404). -/
def dropHeld (s : State) (key : Nat) : State :=
  match tget s.helds key with
  | none => s
  | some h =>
    let s1 := { s with helds := terase s.helds key }
    match h.spill, s.wave h.wave with
    | some n, some w => s1.modCtx w.ctx fun c => { c with spill := c.spill.filter (· ≠ n) }
    | _, _ => s1

/-- A held arrival released with LAST (R404): its result word is delivered as a wake (R279). -/
def releaseHeld (s : State) (key : Nat) (last : Bool) : State :=
  match tget s.helds key with
  | none => s
  | some h =>
    let v := h.result ||| (if last then 0x20000 else 0)
    let s1 := dropHeld s key
    { s1 with wakes := s1.wakes ++ [⟨.wave h.wave, 0, v, true, none, true, none⟩] }

/-- The held arrival of a barrier, if any (R404). -/
def heldAt (s : State) (loc : WLoc) : Option (Nat × Held) := s.helds.find? fun e => e.2.loc = loc

/-- A phase completes, in the same step as the write that brought ARRIVE and BYTES to zero (R293). -/
def barComplete (s : State) (ctx : Nat) (loc : WLoc) (b : Bar) : State :=
  let b' := { b with phase := (b.phase + 1) % 2 ^ 16, arrive := b.reload, bytes := 0, wobs := 0, drn := b.drn || b.wreg > 0 }
  let woken := (tvals s.vigils).filterMap fun v =>
    if v.kind = .phase && v.reached loc 16 && b'.phase ≠ v.operand.toNat % 2 ^ 16 then
      (match v.waiter with
       | .wave k => some k
       | .dispatcher _ => none) else none
  noteRelease (setBar s ctx loc b') woken

/-- Landed bytes subtracted (R152), with EFLT for a failed engine (R153); the completing subtraction releases the held
arrival with LAST (R404). -/
def barSubtract (s : State) (ctx : Nat) (loc : WLoc) (n : Nat) (eflt : Bool) : State :=
  let b := barAt s loc
  let b := { b with bytes := (b.bytes + (2 ^ 32 - n % 2 ^ 32)) % 2 ^ 32, eflt := b.eflt || eflt }
  if b.arrive = 0 && b.bytes = 0 then
    let s1 := barComplete s ctx loc b
    match heldAt s1 loc with
    | none => s1
    | some (k, _) => releaseHeld s1 k true
  else setBar s ctx loc b

/-- The completed phase settles once every registered waiter has observed it (R293); other barriers are written as they
stand. -/
def barSettle (s : State) (ctx : Nat) (loc : WLoc) (b : Bar) : State :=
  if b.drn && b.wobs = b.wreg then
    let deferred := (tvals s.vigils).filter fun v => v.kind = .deferred && v.loc = loc
    let s1 := deferred.foldl (fun s v => { s with vigils := tset s.vigils v.id { v with kind := .phase } }) s
    setBar s1 ctx loc { b with drn := false, wreg := deferred.length, wobs := 0 }
  else setBar s ctx loc b

/-- An observation of a completed phase (R288, R293). -/
def barObserve (s : State) (ctx : Nat) (loc : WLoc) : State :=
  let b := barAt s loc
  barSettle s ctx loc { b with wobs := (b.wobs + 1) % 2 ^ 16 }

/-- A phase entry withdrawn takes 1 from WREG in the same step (R288). -/
def withdrawVigil (s : State) (v : Vigil) : State :=
  let s1 := dropVigil s v
  if v.kind = .phase then
    let b := barAt s1 v.loc
    barSettle s1 v.ctx v.loc { b with wreg := b.wreg - 1 }
  else s1

/-- Insertion into a list that rises by a key. -/
def insertBy {α : Type} (le : α → α → Bool) (x : α) : List α → List α
  | [] => [x]
  | y :: ys => if le x y then x :: y :: ys else y :: insertBy le x ys

/-- A list sorted by a key, equal ones in their order. -/
def sortBy {α : Type} (le : α → α → Bool) (l : List α) : List α := l.foldr (insertBy le) []

/-- Queue entries released at most `n` in ticket order (R284). -/
def wakeQueue (s : State) (loc : WLoc) (n : Nat) : State :=
  let vs := sortBy (fun a b => decide (a.ticket ≤ b.ticket)) ((tvals s.vigils).filter fun v => v.kind = .queue && v.loc = loc)
  (vs.foldl (fun (acc : State × Nat) v =>
    if acc.2 > 0 && v.holds acc.1 then (wakeVigil acc.1 v true (v.value acc.1), acc.2 - 1) else acc) (s, n)).1

/-- A barrier reference that is well formed, resolved for a block (R149, R158 sub-cause 1); `none` when malformed. -/
def parseBar (s : State) (blk : Nat) (r : DWord) : Option BarRef :=
  let n := r.toNat
  let a := bitsOf n 56 0
  if bitsOf n 61 57 ≠ 0 then none
  else match bitsOf n 63 62 with
    | 0 => if a = 0 then some .none else none
    | 1 => if a % 16 = 0 && canonical (a + 15) then some (.mem a) else none
    | 2 =>
      if bitsOf n 56 24 ≠ 0 then none
      else match findTile s blk (bitsOf n 23 16) with
        | none => none
        | some (_, t) =>
          if t.lvl ≤ 1 && t.ew = 4 && bitsOf n 15 0 < t.rows * t.cols then some (.tile (bitsOf n 23 16) (bitsOf n 15 0))
          else none
    | _ => none

/-- The place of a barrier object, with the checks of R152 and R294 on a memory object: R, W, not private, not sealed. -/
def barPlace (s : State) (a : Agent) (ctx blk : Nat) (r : BarRef) : Except Fail (Option WLoc) :=
  match r with
  | .none => .ok none
  | .tile h e =>
    match findTile s blk h with
    | none => .error ⟨7, 1, none, none⟩
    | some (id, _) => .ok (some (.tile id (16 * e)))
  | .mem va =>
    match xlate s a ctx va .atomic with
    | .error n => .error (pageFail n va)
    | .ok p =>
      if sealedBy s ctx va 16 then .error ⟨6, 1, none, some (BitVec.ofNat 64 va)⟩
      else .ok (some (.mem p.pa))

end Sys2Proof.Machine
end

