-- ==== Sys2Proof/Machine/MatArith.lean ====
section
/-! DEFINITION. The matrix engine's arithmetic and the execution of one queued step (spec/12 R250 to R263, spec/11 R248). -/
namespace Sys2Proof.Machine

/-- The FP format code of FA and of FC (R53). -/
def faFmt (fa : Nat) : Nat := match fa with | 0 => 2 | 1 => 3 | 2 => 0 | _ => 1
def fcFmt (fc : Nat) : Nat := match fc with | 0 => 0 | 1 => 1 | _ => 2

/-- Bytes of an element: of a format FA (R252) and of an accumulator (R252). -/
def faBytes (fa : Nat) : Nat := match fa with | 0 | 1 => 2 | 2 => 4 | 3 => 8 | _ => 16
def fcBytes (fc : Nat) : Nat := match fc with | 0 => 4 | 1 => 8 | _ => 2

/-- Terms of a step (R250). -/
def faDepth (fa : Nat) : Nat := match fa with | 0 | 1 => 16 | 2 => 8 | 3 => 4 | _ => 2

/-- Tile element width in bytes from the EW code (R106). -/
def ewBytes (ew : Nat) : Nat := 2 ^ ew

/-- Element `k` of a thread's row or column from registers (R251): its bits. -/
def regElem (fa : Nat) (regs : List Word) (k : Nat) : Nat :=
  let r (i : Nat) : Nat := ((regs[i]?).getD 0).toNat
  match fa with
  | 0 | 1 => r (k / 2) / 2 ^ (16 * (k % 2)) % 2 ^ 16
  | 2 => r k
  | 3 => r (2 * k) + r (2 * k + 1) * 2 ^ 32
  | _ => r (4 * k) + r (4 * k + 1) * 2 ^ 32 + r (4 * k + 2) * 2 ^ 64 + r (4 * k + 3) * 2 ^ 96

/-- The exponent of block `b` from a scale register (R243, R253). -/
def scaleOf (sc : List Word) (b : Nat) : Nat := ((sc[b / 4]?).getD 0).toNat / 2 ^ (8 * (b % 4)) % 256

/-- One product of two FP elements: exact, or the default NaN with invalid (R268). -/
def fpTerm (fmt a b : Nat) : FVal × FFlags :=
  let x := decodeF fmt a
  let y := decodeF fmt b
  if x.isSNaN || y.isSNaN then (.nan false, flNV)
  else match mulExact x y with
    | none => (.nan false, flNV)
    | some v => (v, 0)

/-- One level of the pairwise tree (R248). -/
def treeLevel (fc mode : Nat) : List FVal → List FVal × FFlags
  | x :: y :: rest =>
    let r := addVal fc mode x y
    let (vs, fl) := treeLevel fc mode rest
    (decodeF fc r.1 :: vs, r.2 ||| fl)
  | l => (l, 0)

/-- The whole tree over `2^n` terms (R248). -/
def sumTree (fc mode : Nat) : Nat → List FVal → FVal × FFlags
  | 0, l => (l.headD (.fin false 0 0), 0)
  | n + 1, l =>
    let (l1, f1) := treeLevel fc mode l
    let (v, f2) := sumTree fc mode n l1
    (v, f1 ||| f2)

/-- C + t, or t, in the accumulator format (R248, R263). -/
def accumulate (fc mode : Nat) (acc : Bool) (c : Nat) (t : FVal) : Nat × FFlags :=
  if acc then
    let x := decodeF fc c
    (nanCase fc [x, t]).getD (addVal fc mode x t)
  else roundVal fc mode t

/-- A step's operands for one (row, column): the elements' bits and exponents. -/
structure StepView where
  aElem : Nat → Nat → Nat
  bElem : Nat → Nat → Nat
  aScale : Nat → Nat → Nat
  bScale : Nat → Nat → Nat

/-- The operands of a step: registers of each member, or tiles; B from position 0 (R251 to R255). -/
def stepView (s : State) (aT bT : Option Nat) (rows : List MmaOp) (fa : Nat) : StepView :=
  let first := rows.head?
  let k := faDepth fa
  let es := faBytes fa
  { aElem := fun i k' => match aT with
      | some t => leNat (tileRead s t ((i * k + k') * es) es)
      | none => regElem fa (((rows[i / 32]?).bind fun o => o.aRegs[i % 32]?).getD []) k'
    bElem := fun k' j => match bT with
      | some t => leNat (tileRead s t ((k' * 32 + j) * es) es 1)
      | none => regElem fa ((first.bind fun o => o.bRegs[j]?).getD []) k'
    aScale := fun i k' => scaleOf ((rows[i / 32]?).map MmaOp.aSc |>.getD []) (2 * (i % 32) + k')
    bScale := fun k' j => scaleOf ((first.map MmaOp.bSc).getD []) (2 * j + k') }

/-- Element (i, j) of a step with its flags (R248, R268). -/
def stepElem (v : StepView) (fa fc mode : Nat) (acc : Bool) (c i j : Nat) : Nat × FFlags :=
  let ks := List.range (faDepth fa)
  if fa ≥ 9 then
    let ts := ks.map fun k => bfpDot (fa - 7) (v.aElem i k) (v.aScale i k) (v.bElem k j) (v.bScale k j)
    let (t, f1) := sumTree fc mode 1 ts
    let r := accumulate fc mode acc c t
    (r.1, f1 ||| r.2)
  else
    let ps := ks.map fun k => fpTerm (faFmt fa) (v.aElem i k) (v.bElem k j)
    let f0 := ps.foldl (fun f p => f ||| p.2) (0 : FFlags)
    let (t, f1) := sumTree fc mode (Nat.log2 (faDepth fa)) (ps.map Prod.fst)
    let r := accumulate fc mode acc c t
    (r.1, f0 ||| f1 ||| r.2)

/-- Whether a step reads a poisoned block: an exponent of 0xFF, or a spare bit in a tile (R244, R245, R263). -/
def stepPoison (v : StepView) (aTile bTile : Bool) (fa m : Nat) : Bool :=
  fa ≥ 9 &&
  ((List.range m).any fun i => (List.range 2).any fun k =>
      v.aScale i k = 255 || (aTile && bfpSpare (fa - 7) (v.aElem i k))) ||
  (fa ≥ 9 && (List.range 32).any fun j => (List.range 2).any fun k =>
      v.bScale k j = 255 || (bTile && bfpSpare (fa - 7) (v.bElem k j)))

/-- Bytes of a row block of a tile: 32 rows (R264). -/
def rowBlockLen (t : Tile) (es : Nat) : Nat := 32 * t.cols * es

/-- A soft error counted for source 6 of R438: a corrected one, which changes no value (R440), a parity rollback, a poisoned tile. -/
def correctError (s : State) (d : Nat) : State :=
  if d < 4 then s.setDie d { s.die d with corrected := (s.die d).corrected + 1 } else s

/-- Whether a tile holds an uncorrectable word (R263, R440): a step reads its operands and an MMA its accumulator whole (R252). -/
def tileBad (s : State) (id : Nat) : Bool := tileWordsBad s id 0 ((tget s.tiles id).map Tile.bytes |>.getD 0)

/-- A tile wholly rewritten loses its error marks. -/
def clearTileErrs (s : State) (id : Nat) : State :=
  { s with errs := s.errs.filter fun l => match l with
      | .tile t _ => t ≠ id
      | _ => true }

/-- Execution of an MMA step on the tile `c` (R248, R263, R268). A step that reads a poisoned operand, or accumulates on
a poisoned tile, leaves its flags open: a free value (log 1). -/
def runMma (s : State) (c : Nat) (aT bT : Option Nat) (o : MmaOp) (rows : List MmaOp) : State × FFlags :=
  match tget s.tiles c with
  | none => (s, 0)
  | some t =>
    let v := stepView s aT bT rows o.fa
    let m := 32 * rows.length
    let es := fcBytes o.fc
    let cells := (List.range m).flatMap fun i => (List.range 32).map fun j =>
      let old := leNat ((List.range es).map fun b => tileByte s c t ((i * 32 + j) * es + b) 2)
      let r := stepElem v o.fa (fcFmt o.fc) o.rnd o.acc old i j
      ((i * 32 + j) * es, r)
    let data := cells.foldl (fun d cell => tabWrite d cell.1 (leBytes es cell.2.1)) t.data
    let fl := cells.foldl (fun f cell => f ||| cell.2.2) (0 : FFlags)
    let poison := stepPoison v o.aT o.bT o.fa m || (o.acc && (t.poison || tileBad s c))
    (clearTileErrs (s.modTile c fun t => { t with data := data, poison := poison }) c, if poison then fl ||| (s.fv (fkey 4 c)).truncate 5 else fl)

/-- The bytes of a thread's registers, low word first (R270, R271). -/
def rowBlockBytes (regs : List Word) : List Byte := regs.flatMap fun r => leBytes 4 r.toNat

/-- Execution of an MWR step (R271): each thread's registers hold eight elements of its row, low first. -/
def runMwr (s : State) (c rc cq fc : Nat) (regs : List (List Word)) : State :=
  let es := fcBytes fc
  let cols := ((tget s.tiles c).map Tile.cols).getD 0
  (regs.zipIdx).foldl (fun s ri => tileWrite s c (((32 * rc + ri.2) * cols + 8 * cq) * es) (rowBlockBytes ri.1)) s

/-- Execution of an MSCL step (R272), as FMUL (R205). -/
def runMscl (s : State) (c rc fc mode : Nat) (alpha : List DWord) : State × FFlags :=
  match tget s.tiles c with
  | none => (s, 0)
  | some t =>
    let es := fcBytes fc
    let cells := (alpha.zipIdx).flatMap fun ai => (List.range t.cols).map fun j =>
      let off := ((32 * rc + ai.2) * t.cols + j) * es
      let old := leNat ((List.range es).map fun b => tileByte s c t (off + b) 2)
      (off, fMul (fcFmt fc) mode old (ai.1.toNat % 2 ^ (8 * es)))
    let data := cells.foldl (fun d cell => tabWrite d cell.1 (leBytes es cell.2.1)) t.data
    let fl := cells.foldl (fun f cell => f ||| cell.2.2) (0 : FFlags)
    let off := rc * rowBlockLen t es
    let poison := t.poison || tileWordsBad s c off (rowBlockLen t es)
    (clearTileWords (s.modTile c fun t => { t with data := data, poison := poison }) c off (rowBlockLen t es),
      if poison then fl ||| (s.fv (fkey 4 c)).truncate 5 else fl)

/-- The tile that a queued entry or step names as its accumulator (R257). -/
def matTile (op : QOp) : Option Nat :=
  match op with
  | .mma o .. => some o.tc
  | .mzero tc _ => some tc
  | .mwr tc .. => some tc
  | .mscl tc .. => some tc
  | _ => none

/-- The effect of one step on its tiles, and its flags. The handles resolve in the step's block (R106); an A or B tile freed, or struck by
an uncorrectable error, after the check at performance supplies free values (logs 1 and 23). -/
def runStep (s : State) (st : MStep) : State × FFlags :=
  let tile (h : Nat) := (findTile s st.block h).map Prod.fst
  let operand (h : Nat) : Nat := ((tile h).filter fun t => !tileBad s t).getD (tfresh s.tiles)
  match st.op, (matTile st.op).bind tile with
  | .mma o .., some c => runMma s c (if o.aT then some (operand o.aTile) else none) (if o.bT then some (operand o.bTile) else none) o st.rows
  | .mzero .., some c => (clearTileErrs (s.modTile c fun t => { t with data := [], cleared := true, poison := false }) c, 0)
  | .mwr _ rc cq fc regs _, some c => (runMwr s c rc cq fc regs, 0)
  | .mscl _ rc fc mode alpha _, some c => runMscl s c rc fc mode alpha
  | _, _ => (s, 0)

/-- The flags of a chain's step kept for the MEND of that chain, which may be the one that a handler interrupts (R239, R259); a chain that
its handler left open has none. -/
def Wave.chainFlags (w : Wave) (handler : Bool) (fl : FFlags) : Wave :=
  if handler = w.st.pl1 then { w with mflags := w.mflags ||| fl }
  else if handler then w
  else { w with fmflags := w.fmflags ||| fl }

/-- Flags of a completed step: into FPSTAT outside a chain, kept for the MEND inside one (R259). Where the member's handler now runs, the
FPSTAT of the interrupted strand is FRAME's (R368). -/
def mergeStep (s : State) (st : MStep) (fl : FFlags) : State :=
  st.members.foldl (fun s k => s.modWave k fun w =>
    if st.inChain then w.chainFlags (st.handler.contains k) fl
    else if w.st.pl1 && !st.handler.contains k then { w with frame := w.frame.map fun f => { f with fpstat := f.fpstat ||| fl } }
    else { w with st := { w.st with fpstat := w.st.fpstat ||| fl }, head := { w.head with fpstat := w.head.fpstat ||| fl } }) s

/-- Whether a step reads an uncorrectable accumulator: an MMA with ACC = 1 all of it, MSCL its row block (R263). -/
def accBad (s : State) (st : MStep) : Bool :=
  match (matTile st.op).bind (findTile s st.block) with
  | none => false
  | some (c, t) =>
    match st.op with
    | .mma o .. => o.acc && tileBad s c
    | .mscl _ rc fc .. => tileWordsBad s c (rc * rowBlockLen t (fcBytes fc)) (rowBlockLen t (fcBytes fc))
    | _ => false

/-- A step of a core's queue executed and taken out (R257); the monitors count an uncorrectable accumulator (R263). -/
def completeStep (s : State) (c : Nat) (st : MStep) : State :=
  let (s1, fl) := runStep s st
  let s2 := mergeStep (if accBad s st then correctError s1 (dieOfCore c) else s1) st fl
  let x := s2.core c
  s2.setCore c { x with steps := x.steps.filter fun y => y.id ≠ st.id }

/-- Every queued step of a block executed, in queue order, before its swap-out (R262). -/
def completeBlockSteps (s : State) (c b : Nat) : State :=
  ((s.core c).steps.filter fun st => st.block = b).foldl (fun s st => completeStep s c st) s

end Sys2Proof.Machine
end

