-- ==== Sys2Proof/Machine/Fields.lean ====
section
/-! DEFINITION. The decode checks of R65: for every instruction, which fields its entry uses, and the lowest
illegal-instruction sub-cause that applies (spec/03 R42, R45 to R54, R57, R63 to R65, and each entry's own fields). -/
namespace Sys2Proof.Machine

/-- Conditions that raise illegal-instruction, each with its sub-cause (R65). -/
abbrev Checks := List (Nat × Bool)

/-- The lowest sub-cause whose condition holds (R65). -/
def lowestSub : Checks → Option Nat
  | [] => none
  | (n, bad) :: cs =>
    match bad, lowestSub cs with
    | false, r => r
    | true, none => some n
    | true, some m => some (min n m)

/-- The conditions of one entry's own fields. -/
def cks (l : Checks) : Checks := l

/-- A reserved field or bit that is not zero is sub-cause 2 (R64, R65). -/
def resv (nonzero : Bool) : Checks := cks [(2, nonzero)]

/-- The bits of a source field, as one number (R43). -/
def Src.toNat (f : Src) : Nat := (f.lvl ++ f.idx ++ f.pat ++ f.par).toNat

/-- The bits of a destination field, as one number (R43). -/
def Dst.toNat (f : Dst) : Nat := (f.lvl ++ f.idx ++ f.rows ++ f.cols).toNat

/-- An unused source field is reserved (R48). -/
def noSrc (f : Src) : Checks := resv (Src.toNat f ≠ 0)

/-- An unused destination field is reserved (R48). -/
def noDst (f : Dst) : Checks := resv (Dst.toNat f ≠ 0)

/-- U where the entry lists no `.uni` form (R42). -/
def noUni (h : Hdr) : Checks := resv h.u

/-- A guard that the entry reserves must be `(p0)` (R174, R221, R264). -/
def noGuard (h : Hdr) : Checks := resv (h.gn || h.gp != 0)

/-- How many indices a vector level or the scalar file has (R45); `far` is the wave's far count. -/
def levelSize (far : Nat) (lvl : BitVec 2) : Nat :=
  match lvl.toNat with
  | 0 => 8
  | 1 => 32
  | 2 => far
  | _ => 64

/-- Pattern code and parameter (R46). A level 0b11 source carries neither. -/
def patBad (f : Src) : Bool :=
  if f.lvl = 3 then f.pat ≠ 0 || f.par ≠ 0
  else match f.pat.toNat with
    | 0 => f.par ≠ 0
    | 1 | 2 | 3 => f.par.toNat ≥ 32
    | 4 => f.par.toNat = 0 || f.par.toNat > 5
    | 5 => false
    | _ => true

/-- A source operand at any level. `fp` says that the constants of R56 above 191 may be named (R57); `span` is the
largest offset that a block, a pair or an implied block adds to the index (R46). -/
def srcAny (far : Nat) (fp : Bool) (span : Nat) (f : Src) : Checks :=
  let i := f.idx.toNat
  if f.lvl = 3 then
    cks [(3, patBad f), (4, (86 < i && i < 128) || i > 236 || (!fp && i > 191))]
  else
    cks [(3, patBad f), (4, i ≥ levelSize far f.lvl), (5, i + span ≥ levelSize far f.lvl)]

/-- A source that must be at level 0b11: a scalar, a special register or a constant 128 to 191 (R122, R187). -/
def srcL3 (f : Src) : Checks := (4, f.lvl ≠ 3) :: srcAny 240 false 0 f

/-- A source that must be a scalar or an integer constant 128 to 191 (R294). -/
def srcScalarInt (f : Src) : Checks := (4, f.lvl ≠ 3 || (64 ≤ f.idx.toNat && f.idx.toNat < 128) || 191 < f.idx.toNat) :: srcAny 240 false 0 f

/-- A source that must be the scalar s(idx), with `span` more scalars after it (R122, R156). -/
def srcScalar (span : Nat) (f : Src) : Checks :=
  cks [(3, patBad f), (4, f.lvl ≠ 3 || f.idx.toNat > 63), (5, f.idx.toNat + span > 63)]

/-- A source that must be a vector register. -/
def srcVec (far : Nat) (span : Nat) (f : Src) : Checks := (4, f.lvl = 3) :: srcAny far true span f

/-- A 64-bit base: a scalar, or a pair of vector registers (R122, R123). -/
def srcBase (far : Nat) (u : Bool) (f : Src) : Checks :=
  if f.lvl = 3 then srcScalar 0 f else (4, u) :: srcAny far false 1 f

/-- A destination or data block at a vector level (R45, R46); `extra` is the offset of the last register that the
entry implies beyond the block. -/
def dstVec (far : Nat) (extra : Nat) (f : Dst) : Checks :=
  let span := 4 * f.rows.toNat + f.cols.toNat + extra
  cks [(4, f.lvl = 3 || f.idx.toNat ≥ levelSize far f.lvl), (5, f.idx.toNat + span ≥ levelSize far f.lvl)]

/-- A scalar destination, with `span` more scalars after it; its extent must be 1 x 1 (R46). -/
def dstScalar (span : Nat) (f : Dst) : Checks :=
  cks [(4, f.lvl ≠ 3 || f.idx.toNat > 63), (5, f.rows ≠ 0 || f.cols ≠ 0 || f.idx.toNat + span > 63)]

/-- LAYSET's data field (R122, R65): the first of six scalars, whose index is 0 to 58 by its role. -/
def dstSix (f : Dst) : Checks := cks [(4, f.lvl ≠ 3 || f.idx.toNat > 58), (5, f.rows ≠ 0 || f.cols ≠ 0)]

/-- A destination under U: a scalar when U = 1, a vector block otherwise (R187). -/
def dstU (far : Nat) (u : Bool) (f : Dst) : Checks := if u then dstScalar 0 f else dstVec far 0 f

/-- A data field that is read and may name a scalar without U (R121). -/
def dstData (far : Nat) (u : Bool) (f : Dst) : Checks :=
  if u || f.lvl = 3 then dstScalar 0 f else dstVec far 0 f

/-- A predicate field read as a source (R54). -/
def srcPred (f : Src) : Checks :=
  cks [(2, f.pat ≠ 0 || f.par ≠ 0), (3, f.lvl ≠ 0), (4, f.idx.toNat > 7)]

/-- A predicate field written as a destination: p0 is not one (R54). -/
def dstPred (f : Dst) : Checks :=
  cks [(2, f.rows ≠ 0 || f.cols ≠ 0), (3, f.lvl ≠ 0), (4, f.idx.toNat > 7 || f.idx = 0)]

/-- The registers that a block steps over beyond its base (R32). -/
def Dst.span (f : Dst) : Nat := 4 * f.rows.toNat + f.cols.toNat

/-- FMT code 0b01 is the 64-bit format of either family (R47). -/
def isWide (fmt : BitVec 2) : Bool := fmt = 1

/-- A 64-bit element takes two columns, so a vector block has 2 or 4 of them (R190). -/
def oddCols (fmt : BitVec 2) (d : Dst) : Checks := cks [(3, isWide fmt && d.lvl ≠ 3 && d.cols.toNat % 2 = 0)]

/-- Largest offset of a source that steps with the destination block (R46, R190). -/
def stepSpan (fmt : BitVec 2) (d : Dst) : Nat :=
  if d.lvl = 3 then (if isWide fmt then 1 else 0) else Dst.span d

/-- Largest offset of a source of an instruction with a predicate destination (R190). -/
def pairSpan (fmt : BitVec 2) : Nat := if isWide fmt then 1 else 0

/-- One source of a vector instruction with a stepping block. Under U = 1 it must be at level 0b11 (R187). -/
def srcStep (far : Nat) (fp u : Bool) (span : Nat) (f : Src) : Checks := (4, u && f.lvl ≠ 3) :: srcAny far fp span f

/-- The entry of a register-to-register instruction of groups 001 and 010. -/
structure VEntry where
  uni : Bool
  fp : Bool
  nsrc : Nat
  fmts : List Nat
  subop : Nat
  rnd : Bool
  deriving DecidableEq, Repr

/-- Format codes that the entry does not list (R47) and sub-operation bits that it does not use (R194, R204). -/
def entryBits (e : VEntry) (subop : BitVec 3) (rnd fmt : BitVec 2) : Checks :=
  cks [(3, !(e.fmts.contains fmt.toNat)), (2, subop.toNat &&& (7 - e.subop) ≠ 0), (2, !e.rnd && rnd ≠ 0)]

/-- Checks of a format V instruction that writes a block or a scalar (R44 to R47). -/
def chkV (far : Nat) (e : VEntry) (f : FmtV) : Checks :=
  let sp := stepSpan f.fmt f.d
  resv (f.h.u && !e.uni) ++ dstU far f.h.u f.d ++ oddCols f.fmt f.d ++ entryBits e f.subop f.rnd f.fmt ++
  srcStep far e.fp f.h.u sp f.a ++
  (if e.nsrc ≥ 2 then srcStep far e.fp f.h.u sp f.b else noSrc f.b) ++
  (if e.nsrc ≥ 3 then srcStep far e.fp f.h.u sp f.c else noSrc f.c)

/-- IMM[31:16] is reserved in a 16-bit FP format (R49). -/
def immResv (fp : Bool) (fmt : BitVec 2) (imm : BitVec 32) : Checks :=
  resv (fp && fmt.toNat ≥ 2 && imm.toNat ≥ 65536)

/-- Checks of a format I instruction that writes a block or a scalar (R48, R49). `xmask` is the part of XSUB that
the entry uses. -/
def chkI (far : Nat) (e : VEntry) (xmask : Nat) (f : FmtI) : Checks :=
  resv (f.h.u && !e.uni) ++ dstU far f.h.u f.d ++ oddCols f.fmt f.d ++ entryBits e f.subop f.rnd f.fmt ++
  resv (f.xsub.toNat &&& (255 - xmask) ≠ 0) ++ immResv e.fp f.fmt f.imm ++
  srcStep far e.fp f.h.u (stepSpan f.fmt f.d) f.a

/-- ISET and FSET write a predicate field (R200, R208). -/
def chkSetV (far : Nat) (e : VEntry) (f : FmtV) : Checks :=
  noUni f.h ++ dstPred f.d ++ entryBits e f.subop f.rnd f.fmt ++ noSrc f.c ++
  srcAny far e.fp (pairSpan f.fmt) f.a ++ srcAny far e.fp (pairSpan f.fmt) f.b

/-- ISET and FSET in format I, with XSUB[0] (R200). -/
def chkSetI (far : Nat) (e : VEntry) (f : FmtI) : Checks :=
  noUni f.h ++ dstPred f.d ++ entryBits e f.subop f.rnd f.fmt ++ resv (f.xsub.toNat ≥ 2) ++ immResv e.fp f.fmt f.imm ++
  srcAny far e.fp (pairSpan f.fmt) f.a

def allFmts : List Nat := [0, 1, 2, 3]

/-- An integer instruction of R194 with `n` sources; `so` is the mask of SUBOP bits that it uses. -/
def intEntry (n so : Nat) : VEntry := ⟨true, false, n, allFmts, so, false⟩

/-- A rounded FP instruction of R204 with `n` sources. -/
def fpEntry (n : Nat) (uni : Bool) : VEntry := ⟨uni, true, n, allFmts, 0, true⟩

/-- An FP instruction of R204 that does not round. -/
def fpPlain (n : Nat) (uni : Bool) (fmts : List Nat) : VEntry := ⟨uni, true, n, fmts, 0, false⟩

/-- UNS without SAT is reserved in IADD and ISUB (R195). -/
def unsAlone (so : BitVec 3) : Checks := resv (so.toNat % 4 = 2)

/-- SGN together with INS is reserved in BFX (R197). -/
def sgnIns (so : BitVec 3) : Checks := resv (so.toNat % 4 = 3)

/-- Predicate instructions: FMT, RND, field C, the extents and the other SUBOP bits are reserved (R203). -/
def chkPred (n : Nat) (f : FmtV) : Checks :=
  noUni f.h ++ dstPred f.d ++ srcPred f.a ++ (if n ≥ 2 then srcPred f.b else noSrc f.b) ++ noSrc f.c ++
  resv (f.subop ≠ 0 || f.rnd ≠ 0 || f.fmt ≠ 0)

/-- CVT's source format code, word bits [26:23] (R210). -/
def cvtS (f : FmtV) : Nat := (f.c.lvl ++ f.c.idx).toNat / 64

/-- CVT's destination format code, word bits [22:19] (R210). -/
def cvtD (f : FmtV) : Nat := (f.c.lvl ++ f.c.idx).toNat / 4 % 16

/-- Width of a CVT format code in bits (R210). -/
def cvtWidth (c : Nat) : Nat :=
  match c with
  | 0 | 6 | 10 => 32
  | 1 | 7 | 11 => 64
  | 2 | 3 | 5 | 9 => 16
  | 4 | 8 => 8
  | _ => 0

def chkCvt (far : Nat) (f : FmtV) : Checks :=
  let s := cvtS f
  let d := cvtD f
  let so := f.subop.toNat
  dstU far f.h.u f.d ++ cks [(3, f.d.rows ≠ 0 || f.d.cols ≠ 0)] ++
  (if f.d.lvl ≠ 3 && cvtWidth d = 64 then dstVec far 1 f.d else []) ++
  srcStep far (s < 4) f.h.u (if cvtWidth s = 64 then 1 else 0) f.a ++ noSrc f.b ++
  cks [(3, s > 11 || d > 11)] ++ resv (f.c.idx.toNat % 4 ≠ 0 || f.c.pat ≠ 0 || f.c.par ≠ 0 || f.fmt ≠ 0) ++
  resv ((so % 2 = 1 && cvtWidth s ≠ 16) || (so / 2 % 2 = 1 && cvtWidth d ≠ 16) || (so ≥ 4 && (s < 4 || d < 4)) ||
    (s ≥ 4 && d ≥ 4 && f.rnd ≠ 0))

/-- Mantissas of a BFPw block (R241). -/
def bfpCount (w : Nat) : Nat := 128 / w

/-- Registers that n bytes take (R213). -/
def regsOfBytes (n : Nat) : Nat := (n + 3) / 4

/-- BPK, BUPK, SBPK and SBUPK (R212 to R214): `pack` says that the block is the destination, `fpSide` that the other
side is FP elements under FMT. -/
def chkPack (far : Nat) (pack fpSide : Bool) (f : FmtV) : Checks :=
  let ne := bfpCount (f.subop.toNat + 2)
  let side := if fpSide then (if f.fmt = 0 then ne else (ne + 1) / 2) else regsOfBytes ne
  noUni f.h ++ cks [(3, f.subop = 7)] ++ noSrc f.c ++
  (if fpSide then cks [(3, f.fmt = 1)] ++ srcAny far false 0 f.b else noSrc f.b ++ resv (f.rnd ≠ 0 || f.fmt ≠ 0)) ++
  (if pack then dstVec far 0 f.d ++ cks [(3, f.d.rows ≠ 0 || f.d.cols ≠ 3)] ++ srcAny far fpSide (side - 1) f.a
   else dstVec far (side - 1) f.d ++ cks [(3, f.d.rows ≠ 0 || f.d.cols ≠ 0)] ++ srcAny far false 3 f.a)

def chkXlane (far : Nat) (f : FmtV) : Checks :=
  let fp := f.subop.toNat ≥ 5
  dstU far f.h.u f.d ++ oddCols f.fmt f.d ++ resv (f.subop ≠ 5 && f.rnd ≠ 0) ++ noSrc f.b ++ noSrc f.c ++
  srcAny far fp (stepSpan f.fmt f.d) f.a

/-- Control instructions of format C (R221). -/
def chkC (h : Hdr) (guard : Bool) (resvBits : Bool) : Checks := noUni h ++ (if guard then [] else noGuard h) ++ resv resvBits

/-- LD and ST size and ordering fields (R129). -/
def chkLdSt (st : Bool) (f : FmtM) : Checks :=
  let sz := f.sub.toNat / 16
  let ord := f.sub.toNat / 2 % 4
  cks [(3, sz > 5), (3, ord > 1), (2, f.sub.toNat % 2 = 1),
   (2, f.byp && (ord = 1 || st)), (2, f.scope ≠ 0 && ord = 0),
   (3, sz < 4 && (f.d.rows ≠ 0 || f.d.cols ≠ 0)),
   (3, sz = 5 && f.d.lvl ≠ 3 && f.d.cols.toNat % 2 = 0)]

def chkIndex (far : Nat) (f : FmtM) (ix : Bool) : Checks :=
  if ix then (4, f.h.u && f.b.lvl ≠ 3) :: srcAny far false 0 f.b else noSrc f.b

/-- Number of coordinates that LDP and STP write (R135). -/
def layoutCoords (sub : BitVec 7) : Nat := sub.toNat / 16 + 1

def chkLayoutAccess (far : Nat) (f : FmtM) : Checks :=
  let n := layoutCoords f.sub
  noUni f.h ++ cks [(3, n > 5)] ++ resv (f.sub.toNat % 16 ≠ 0 || f.scope ≠ 0) ++ srcAny far false 0 f.a ++
  (if f.b.lvl = 3 then srcScalar (n - 1) f.b else srcAny far false (n - 1) f.b)

/-- A tile level field that admits CS and QS only (R122), or also MA (R140). -/
def chkLvl (ma : Bool) (l : BitVec 2) : Checks := cks [(3, l = 3 || (l = 2 && !ma))]

/-- Atomic word width in bytes and whether the format is legal (R298). -/
def atomFmtOk (op : Nat) (pk w64 : Bool) : Bool :=
  if op ≤ 10 then !pk
  else if op ≤ 13 then true
  else op = 14 && !(pk && w64)

/-- The fields of ATOM, RED and REDD (R297): 0 ATOM, 1 RED, 2 REDD. -/
def chkAtomic (far : Nat) (which : Nat) (f : FmtM) : Checks :=
  let op := f.sub.toNat / 8
  let w64 := f.sub.toNat / 4 % 2 = 1
  let ord := f.sub.toNat % 4
  let nb := atomBytes op f.byp w64
  let regs := nb / 4 * (if op = 9 then 2 else 1)
  (if which = 0 then
     (if f.h.u then dstScalar 0 f.d
      else dstVec far 0 f.d ++ cks [(3, f.d.rows ≠ 0 || f.d.cols.toNat + 1 ≠ nb / 4)])
   else noDst f.d) ++
  srcBase far f.h.u f.a ++
  (if f.b.lvl = 3 then
     (if op = 9 then srcScalar 1 f.b else if op ≤ 10 then srcAny far false 0 f.b else srcAny far true 0 f.b)
   else (4, f.h.u) :: srcAny far true (regs - 1) f.b) ++
  cks [(3, !atomFmtOk op f.byp w64), (3, which ≠ 0 && (op = 8 || op = 9)),
   (2, op ≠ 11 && f.ofs.toNat % 4 ≠ 0),
   (2, (which ≠ 0 && ord % 2 = 1) || (which = 2 && ord ≠ 0)), (2, f.scope ≠ 0 && ord = 0)]

/-- Whether FA is a BFP code (R53). -/
def isBfp (fa : BitVec 4) : Bool := fa.toNat ≥ 9

/-- MMA formats allowed together (R250, R53). -/
def mmaFmtOk (fa fb : BitVec 4) (fc : BitVec 2) : Bool :=
  fa = fb &&
  (match fa.toNat with
   | 0 | 1 => fc = 0 || fc = 2
   | 2 => fc = 0 || fc = 1
   | 3 => fc = 1
   | n => n ≥ 9 && (fc = 0 || fc = 2))

/-- A or B of MMA: a register block of 8, or a tile handle (R53, R251). -/
def chkMmaOperand (far : Nat) (tile : Bool) (f : Src) : Checks :=
  if tile then resv (f.lvl ≠ 0 || f.pat ≠ 0 || f.par ≠ 0) else srcVec far 7 f

/-- Registers that MRD and MWR move for each element format FC (R270). -/
def mrdRegs (fc : BitVec 2) : Nat := match fc.toNat with | 0 => 8 | 1 => 16 | _ => 4

def chkMrd (far : Nat) (f : FmtX) : Checks :=
  noUni f.h ++ noGuard f.h ++ noSrc f.b ++ cks [(3, f.fc = 3), (3, f.sub.toNat / 4 ≥ 6)] ++
  resv (f.aT || f.bT || f.acc || f.scs ≠ 0 || f.fa ≠ 0 || f.fb ≠ 0 || f.rnd ≠ 0 || f.low ≠ 0) ++
  cks [(4, f.a.lvl = 3 || f.a.idx.toNat ≥ levelSize far f.a.lvl), (3, f.a.pat ≠ 0 || f.a.par ≠ 0),
   (5, f.a.lvl ≠ 3 && f.a.idx.toNat + mrdRegs f.fc > levelSize far f.a.lvl)]

/-- A matrix instruction that uses no field but those named (R264). -/
def chkMatrix (f : FmtX) (tc a ordBit : Bool) : Checks :=
  noUni f.h ++ noGuard f.h ++ (if tc then [] else resv (f.tc ≠ 0)) ++ (if a then srcL3 f.a else noSrc f.a) ++ noSrc f.b ++
  resv (f.aT || f.bT || f.acc || f.scs ≠ 0 || f.fa ≠ 0 || f.fb ≠ 0 || f.fc ≠ 0 || f.rnd ≠ 0 || f.low ≠ 0) ++
  resv (if ordBit then f.sub.toNat ≥ 2 else f.sub ≠ 0)

/-- Format M fields that a wave-level instruction leaves unused (R122). -/
def mUnused (f : FmtM) (ofs scope : Bool) : Checks :=
  noUni f.h ++ resv ((!ofs && f.ofs ≠ 0) || (!scope && f.scope ≠ 0) || f.byp || f.sub ≠ 0)

/-- Format E fields left unused (R156, R357). -/
def eUnused (f : FmtE) (t scope lvl imm : Bool) (submask : Nat) : Checks :=
  resv ((!t && f.t ≠ 0) || (!scope && f.scope ≠ 0) || (!lvl && f.lvl ≠ 0) || (!imm && f.imm ≠ 0) ||
    f.sub.toNat &&& (127 - submask) ≠ 0)

def chkFormatY (f : FmtY) (sysn scope : Bool) (submask : Nat) : Checks :=
  noUni f.h ++ resv ((!sysn && f.sysn ≠ 0) || (!scope && f.scope ≠ 0) || f.sub.toNat &&& (255 - submask) ≠ 0)

/-- The conditions of R65 for one instruction, under the wave's far count and privilege level (R362). The rows that
are not instruction words have none. That an FMAXI or FMINI block of 1 or 3 columns is sub-cause 3 is DESIGN CHOICE (log 13), as R207 names
none. -/
def checksOf (far : Nat) (pl1 : Bool) : Instr → Checks
  | .nop f | .ret f | .rcv f | .yield f =>
    chkC f.h false (f.offs ≠ 0 || f.imm ≠ 0 || f.sub ≠ 0) ++ noSrc f.a
  | .exit f => chkC f.h true (f.offs ≠ 0 || f.imm ≠ 0 || f.sub ≠ 0) ++ noSrc f.a
  | .bra f => chkC f.h false (f.imm ≠ 0 || f.sub ≠ 0) ++ noSrc f.a
  | .brc f => chkC f.h true (f.imm.toNat ≥ 2 ^ 24 || f.sub ≠ 0) ++ noSrc f.a
  | .bri f => chkC f.h false (f.offs ≠ 0 || f.imm ≠ 0 || f.sub ≠ 0) ++ srcScalar 0 f.a
  | .call f =>
    chkC f.h false (f.imm ≠ 0 || f.sub.toNat ≥ 2 || (f.sub = 1 && f.offs ≠ 0)) ++
    (if f.sub = 1 then srcScalar 0 f.a else noSrc f.a)
  | .strand f => chkC f.h false (f.offs ≠ 0 || f.sub ≠ 0 || (pl1 && f.imm ≠ 0)) ++ noSrc f.a
  | .trap f | .bkpt f => chkFormatY f true false 0 ++ noDst f.d ++ noSrc f.a ++ noSrc f.b
  | .halt f => chkFormatY f false false 0 ++ noDst f.d ++ noSrc f.a ++ noSrc f.b
  | .eret f =>
    chkFormatY f false false 7 ++ noGuard f.h ++ noDst f.d ++ noSrc f.a ++ noSrc f.b ++
    cks [(3, [3, 5, 6, 7].contains (f.sub.toNat % 8))]
  | .srd f => chkFormatY f true false 0 ++ dstScalar 0 f.d ++ noSrc f.a ++ noSrc f.b
  | .swr f =>
    chkFormatY f true false 0 ++ noDst f.d ++ srcScalar 0 f.a ++ (if f.sysn = 0x42 then srcScalar 0 f.b else noSrc f.b)
  | .patch f =>
    chkFormatY f false true 0 ++ noDst f.d ++ srcScalar 0 f.a ++ srcScalar 1 f.b ++
    cks [(3, f.scope.toNat < 2 || f.scope.toNat > 5)]
  | .mov f =>
    resv (f.h.u && false) ++ dstU far f.h.u f.d ++ oddCols f.fmt f.d ++ entryBits (intEntry 1 0) f.subop f.rnd f.fmt ++
    cks [(4, f.h.u && f.a.lvl ≠ 3 && f.a.pat ≠ 1)] ++ srcAny far false (stepSpan f.fmt f.d) f.a ++ noSrc f.b ++ noSrc f.c
  | .movI f =>
    dstU far f.h.u f.d ++ oddCols f.fmt f.d ++ entryBits (intEntry 1 0) f.subop f.rnd f.fmt ++ resv (f.xsub ≠ 0) ++
    noSrc f.a
  | .sel f =>
    noUni f.h ++ dstVec far 0 f.d ++ oddCols f.fmt f.d ++ entryBits (intEntry 2 1) f.subop f.rnd f.fmt ++
    srcAny far false (stepSpan f.fmt f.d) f.a ++ srcAny far false (stepSpan f.fmt f.d) f.b ++ srcPred f.c
  | .selI f => noUni f.h ++ chkI far (intEntry 2 1) 7 { f with h := { f.h with u := false } }
  | .iadd f | .isub f => chkV far (intEntry 2 3) f ++ unsAlone f.subop
  | .iaddI f | .isubI f => chkI far (intEntry 2 3) 0 f ++ unsAlone f.subop
  | .imul f => chkV far (intEntry 2 0) f
  | .imulI f => chkI far (intEntry 2 0) 0 f
  | .imulh f | .imin f | .imax f => chkV far (intEntry 2 2) f
  | .imulhI f | .iminI f | .imaxI f => chkI far (intEntry 2 2) 0 f
  | .imad f => chkV far (intEntry 3 0) f
  | .imadI f => chkI far (intEntry 3 0) 0 f
  | .iabs f => chkV far (intEntry 1 1) f
  | .iset f => chkSetV far ⟨false, false, 2, [0, 1], 7, false⟩ f
  | .isetI f => chkSetI far ⟨false, false, 2, [0, 1], 7, false⟩ f
  | .lea f => chkV far ⟨true, false, 2, [1], 7, false⟩ f
  | .leaI f => chkI far ⟨true, false, 2, [1], 7, false⟩ 0 f
  | .iand f | .ior f | .ixor f | .shl f | .shr f | .sar f => chkV far (intEntry 2 0) f
  | .iandI f | .iorI f | .ixorI f | .shlI f | .shrI f | .sarI f => chkI far (intEntry 2 0) 0 f
  | .inot f | .popc f | .clz f | .brev f => chkV far (intEntry 1 0) f
  | .lop3 _ f =>
    let sp := if f.d.lvl = 3 then 0 else Dst.span f.d
    dstU far f.h.u f.d ++ srcStep far false f.h.u sp f.a ++ srcStep far false f.h.u sp f.b ++ srcStep far false f.h.u sp f.c
  | .rot f => chkV far (intEntry 2 1) f
  | .rotI f => chkI far (intEntry 2 1) 0 f
  | .bfx f =>
    chkV far ⟨true, false, 3, [0, 1], 3, false⟩ f ++ sgnIns f.subop
  | .bfxI f =>
    chkI far ⟨true, false, 2, [0, 1], 3, false⟩ 0 f ++ sgnIns f.subop ++ resv (f.imm.toNat ≥ 65536)
  | .pand f | .por f | .pxor f => chkPred 2 f
  | .pnot f => chkPred 1 f
  | .pmov f =>
    noUni f.h ++ noSrc f.b ++ noSrc f.c ++ resv (f.rnd ≠ 0 || f.fmt ≠ 0) ++ cks [(3, f.subop.toNat > 3)] ++
    (match f.subop.toNat with
     | 0 => dstPred f.d ++ srcPred f.a
     | 3 => dstVec far 0 f.d ++ resv (f.d.rows ≠ 0 || f.d.cols ≠ 0) ++ srcPred f.a
     | _ => dstPred f.d ++ srcAny far false 0 f.a)
  | .fadd f | .fsub f | .fmul f => chkV far (fpEntry 2 true) f
  | .faddI f | .fsubI f | .fmulI f => chkI far (fpEntry 2 true) 0 f
  | .ffma f => chkV far (fpEntry 3 true) f
  | .ffmaI f => chkI far (fpEntry 3 true) 0 f
  | .fmin f | .fmax f => chkV far (fpPlain 2 true allFmts) f
  | .fminI f | .fmaxI f => chkI far (fpPlain 2 true allFmts) 0 f
  -- a block of 1 or 3 columns (R207) is sub-cause 3, as R190's of 64-bit elements: DESIGN CHOICE (log 13)
  | .fmaxi f | .fmini f => chkV far (fpPlain 2 false [0, 2, 3]) f ++ cks [(3, f.d.cols.toNat % 2 = 0)]
  | .fset f => chkSetV far ⟨false, true, 2, [0, 1], 7, false⟩ f
  | .fsetI f => chkSetI far ⟨false, true, 2, [0, 1], 7, false⟩ f
  | .fcls f => chkV far (fpPlain 1 false allFmts) f
  | .frcp f | .frsq f | .fsqrt f | .fexp2 f | .flog2 f | .fsin f | .fcos f => chkV far (fpEntry 1 true) f
  | .fdivs f => chkV far (fpEntry 2 true) f
  | .cvt f => chkCvt far f
  | .bpk f => chkPack far true false f
  | .bupk f => chkPack far false false f
  | .sbpk f => chkPack far true true f
  | .sbupk f => chkPack far false true f
  | .xsel f =>
    noUni f.h ++ dstVec far 0 f.d ++ oddCols f.fmt f.d ++ entryBits ⟨false, false, 2, [0, 1], 0, false⟩ f.subop f.rnd f.fmt ++
    cks [(3, f.a.pat ≠ 0)] ++ srcAny far false (stepSpan f.fmt f.d) f.a ++ srcAny far false (stepSpan f.fmt f.d) f.b ++ noSrc f.c
  | .vote f =>
    noUni f.h ++ dstPred f.d ++ srcPred f.a ++ noSrc f.b ++ noSrc f.c ++ cks [(3, f.subop.toNat > 2)] ++
    resv (f.rnd ≠ 0 || f.fmt ≠ 0)
  | .ball f =>
    dstU far f.h.u f.d ++ cks [(3, f.d.rows ≠ 0 || f.d.cols ≠ 0)] ++ srcPred f.a ++ noSrc f.b ++ noSrc f.c ++
    resv (f.subop ≠ 0 || f.rnd ≠ 0 || f.fmt ≠ 0)
  | .scan f => noUni f.h ++ chkXlane far f
  | .redx f => chkXlane far f
  | .matchX f =>
    noUni f.h ++ dstVec far 0 f.d ++ oddCols f.fmt f.d ++ entryBits ⟨false, false, 1, [0, 1], 0, false⟩ f.subop f.rnd f.fmt ++
    srcAny far false (stepSpan f.fmt f.d) f.a ++ noSrc f.b ++ noSrc f.c
  | .rand f =>
    noUni f.h ++ dstVec far 0 f.d ++ oddCols f.fmt f.d ++ entryBits ⟨false, false, 0, [0, 1], 1, false⟩ f.subop f.rnd f.fmt ++
    noSrc f.a ++ noSrc f.b ++ noSrc f.c
  | .rseed f =>
    noUni f.h ++ noDst f.d ++ srcL3 f.a ++ noSrc f.b ++ noSrc f.c ++ resv (f.subop ≠ 0 || f.rnd ≠ 0 || f.fmt ≠ 0)
  | .ld f =>
    chkLdSt false f ++ dstU far f.h.u f.d ++ srcBase far f.h.u f.a ++ chkIndex far f (f.sub.toNat / 8 % 2 = 1)
  | .st f =>
    chkLdSt true f ++ dstData far f.h.u f.d ++ srcBase far f.h.u f.a ++ chkIndex far f (f.sub.toNat / 8 % 2 = 1)
  | .ldp f => chkLayoutAccess far f ++ dstVec far 0 f.d
  | .stp f => chkLayoutAccess far f ++ resv f.byp ++ dstData far false f.d
  | .ldl f => mUnused f true false ++ dstVec far 0 f.d ++ srcAny far false 0 f.a ++ noSrc f.b
  | .stl f => mUnused f true false ++ dstData far false f.d ++ srcAny far false 0 f.a ++ noSrc f.b
  | .ldc f =>
    chkLdSt false { f with byp := false, scope := 0, sub := f.sub &&& 0x78 } ++
    resv (f.byp || f.scope ≠ 0 || f.sub.toNat % 8 ≠ 0) ++ dstU far f.h.u f.d ++ srcScalar 0 f.a ++
    (if f.sub.toNat / 8 % 2 = 1 then srcL3 f.b else noSrc f.b)
  | .prf f =>
    noUni f.h ++ noDst f.d ++ srcBase far false f.a ++ chkIndex far f (f.sub.toNat / 8 % 2 = 1) ++
    cks [(3, f.sub.toNat / 32 > 1)] ++ resv (f.sub.toNat / 16 % 2 = 1 || f.sub.toNat % 8 ≠ 0 || f.scope ≠ 0 || f.byp)
  | .tld f =>
    chkLvl false f.lvl ++ dstU far f.h.u f.d ++ srcStep far false f.h.u 0 f.a ++ srcStep far false f.h.u 0 f.b ++
    eUnused f true false true true 0
  | .tst f =>
    chkLvl false f.lvl ++ dstData far f.h.u f.d ++ srcStep far false f.h.u 0 f.a ++ srcStep far false f.h.u 0 f.b ++
    eUnused f true false true true 0
  | .talc f => chkLvl true f.lvl ++ dstU far f.h.u f.d ++ srcL3 f.a ++ noSrc f.b ++ eUnused f true false true false 0
  | .tfree f =>
    noUni f.h ++ chkLvl true f.lvl ++ noDst f.d ++ noSrc f.a ++ noSrc f.b ++ eUnused f true false true false 0
  | .tinfo f => dstU far f.h.u f.d ++ noSrc f.a ++ noSrc f.b ++ eUnused f true false false false 0
  | .layset f => mUnused f false false ++ dstSix f.d ++ srcL3 f.a ++ noSrc f.b
  | .layinv f => mUnused f false false ++ noDst f.d ++ srcL3 f.a ++ noSrc f.b
  | .seal f | .unseal f =>
    mUnused { f with h := { f.h with u := false } } false false ++ dstU far f.h.u f.d ++ srcScalar 0 f.a ++ srcL3 f.b
  | .invl1 f => mUnused f false false ++ noDst f.d ++ noSrc f.a ++ noSrc f.b
  | .wbl2 f => mUnused f false false ++ noDst f.d ++ srcScalar 0 f.a ++ srcL3 f.b
  | .bulk f =>
    noUni f.h ++ dstScalar 5 f.d ++ srcL3 f.a ++ srcScalar 1 f.b ++ cks [(3, f.scope.toNat < 2)] ++
    eUnused f false true false false 0
  | .bcopy f =>
    noUni f.h ++ dstScalar 0 f.d ++ srcL3 f.a ++ srcScalar 2 f.b ++ cks [(3, f.scope.toNat < 2)] ++ chkLvl false f.lvl ++
    eUnused f true true true false 1
  | .kick f => noUni f.h ++ noDst f.d ++ srcL3 f.a ++ srcL3 f.b ++ chkLvl false f.lvl ++ eUnused f true false true false 0
  | .tend f => noUni f.h ++ noDst f.d ++ noSrc f.a ++ noSrc f.b ++ eUnused f false false false false 0
  | .echk f => dstU far f.h.u f.d ++ noSrc f.a ++ noSrc f.b ++ eUnused f false false false false 3
  | .spawn f =>
    noUni f.h ++ noDst f.d ++ srcScalar 0 f.a ++ srcVec far (f.imm.toNat - 1) f.b ++ cks [(3, f.imm.toNat > 12)] ++
    eUnused f false false false true 0
  | .bincfg f => noUni f.h ++ noDst f.d ++ srcScalar 0 f.a ++ srcL3 f.b ++ eUnused f false false false false 3
  | .launch f => mUnused f false true ++ dstScalar 0 f.d ++ srcScalar 0 f.a ++ srcL3 f.b ++ cks [(3, f.scope.toNat < 2)]
  | .mbeg f => chkMatrix f false false true
  | .mend f => chkMatrix f false false false
  | .mma f =>
    noUni f.h ++ noGuard f.h ++ cks [(3, !mmaFmtOk f.fa f.fb f.fc)] ++ chkMmaOperand far f.aT f.a ++
    chkMmaOperand far f.bT f.b ++ resv ((!isBfp f.fa && f.scs ≠ 0) || f.sub ≠ 0 || f.low ≠ 0)
  | .gang f => chkMatrix f false true false
  | .mrd f | .mwr f => chkMrd far f
  | .mzero f => chkMatrix f true false false
  | .mscl f =>
    noUni f.h ++ noGuard f.h ++ noSrc f.b ++ cks [(3, f.fc = 3), (3, f.sub.toNat / 4 ≥ 6)] ++
    resv (f.sub.toNat % 4 ≠ 0 || f.aT || f.bT || f.acc || f.scs ≠ 0 || f.fa ≠ 0 || f.fb ≠ 0 || f.low ≠ 0) ++
    srcAny far true (if f.fc = 1 then 1 else 0) f.a
  | .vigil f =>
    noUni f.h ++ dstScalar 0 f.d ++ srcScalar 0 f.a ++ srcScalar 2 f.b ++ resv (f.ofs.toNat ≥ 2) ++
    resv (f.ofs = 1 && (f.byp || f.sub.toNat ≥ 8))
  | .wake f => mUnused f true true ++ noDst f.d ++ srcScalar 0 f.a ++ srcL3 f.b
  | .wakeq f =>
    noUni f.h ++ noDst f.d ++ srcScalar 0 f.a ++ srcScalar 1 f.b ++ resv (f.byp || f.sub.toNat &&& 0x77 ≠ 0)
  | .arv f =>
    noUni f.h ++ dstScalar 0 f.d ++ srcScalar 0 f.a ++ srcScalarInt f.b ++ resv (f.ofs ≠ 0 || f.byp || f.sub.toNat ≥ 8)
  | .binit f => mUnused f false false ++ noDst f.d ++ srcScalar 0 f.a ++ srcScalarInt f.b
  | .atom f => chkAtomic far 0 f
  | .red f => chkAtomic far 1 f
  | .redd f => chkAtomic far 2 f
  | .dtok f => mUnused f false false ++ noDst f.d ++ noSrc f.a ++ noSrc f.b
  | .fence f =>
    noUni f.h ++ noDst f.d ++ noSrc f.a ++ noSrc f.b ++ resv (f.ofs ≠ 0 || f.byp || f.sub.toNat ≥ 4) ++
    cks [(3, f.sub.toNat % 4 = 3)]
  | .opcls f => chkFormatY f false false 0 ++ dstScalar 0 f.d ++ srcScalar 0 f.a ++ srcScalar 0 f.b
  | .lumq f =>
    chkFormatY f false false 7 ++ dstScalar 0 f.d ++ noSrc f.a ++ noSrc f.b ++ cks [(3, f.sub.toNat % 8 > 4)]
  | .monrd f =>
    chkFormatY f false false 1 ++ dstScalar 0 f.d ++ noSrc f.b ++
    (if f.sub.toNat % 2 = 1 then srcScalar 0 f.a else noSrc f.a)
  | .unassignedOpcode _ => cks [(1, true)]
  | .strandBoundaryResume .. | .translationInvalidation .. | .engineReadStart .. | .engineReadsComplete .. => []
  | .engineBytesLanded .. | .engineFault .. | .bulkPieceReturn .. | .binTimerExpiry .. | .matrixStepExecute .. => []
  | .patchEngineCopy .. | .wakeDelivery .. | .vigilBudgetExpiry .. | .vigilWithdrawal .. | .quiescenceLimit .. => []
  | .launchQuiescent .. | .swapThreshold .. | .blockRestore .. | .lazyFill .. | .parityRollback .. => []
  | .launchRecordStart .. | .launchCompletion .. | .dispatcherGrant .. | .quantumExpiry .. | .clusterAdmission .. => []
  | .coreResplit .. | .blockRetire .. | .waveLighting .. | .victimTimeout .. | .gridReleaseBatch .. => []
  | .lumenRotation .. | .sideReservation .. | .waveStarvation .. | .dieTick .. | .budgetUnitExpiry .. => []
  | .powerLimitAdjust .. | .quadClassChange .. | .stallWindowEnd .. | .monitorSample .. | .bankRefresh .. => []
  | .scrubSector .. | .retentionLoss .. | .fabricRead .. | .fabricWrite .. | .info .. | .createctx .. => []
  | .killctx .. | .haltctx .. | .runctx .. | .resume .. | .resumedrop .. | .fabricXlinv .. | .fabricQctl .. => []
  | .moncfg .. | .attest .. | .fwload .. | .resetCmd .. | .fabricUnknownCommand .. | .startUp .. => []
  | .retentionEntry .. | .selfRefresh .. => []

/-- The illegal-instruction sub-cause of an instruction, if any (R65). -/
def illegalSub (far : Nat) (pl1 : Bool) (i : Instr) : Option Nat := lowestSub (checksOf far pl1 i)

end Sys2Proof.Machine
end

