-- ==== Sys2Proof/Machine/Strand.lean ====
section
/-! DEFINITION. What the strand checks need of each instruction: its commit class (spec/03 R58, R62), the registers that it
reads and those that it writes at issue or when it is performed (spec/08 R178, R179), and its lumen price (R60, R62). -/
namespace Sys2Proof.Machine

/-- Commit classes (R58). -/
inductive Cls where
  | p
  | q
  | b
  deriving DecidableEq, Repr

/-- The commit class of each row of R62. A device step has none and counts as performed. -/
def clsOf : Instr → Cls
  | .exit .. | .strand .. | .yield .. | .trap .. | .eret .. | .bkpt .. | .halt .. | .tend .. | .vigil .. => .b
  | .swr .. | .patch .. | .st .. | .stp .. | .stl .. | .tst .. | .tfree .. | .layset .. | .seal .. | .unseal .. => .q
  | .bulk .. | .bcopy .. | .kick .. | .spawn .. | .launch .. | .mbeg .. | .mend .. | .mma .. | .mwr .. => .q
  | .mzero .. | .mscl .. | .wake .. | .wakeq .. | .arv .. | .binit .. | .atom .. | .red .. | .redd .. => .q
  | .dtok .. | .fence .. | .opcls .. => .q
  | _ => .p

/-- The registers of a source at some offsets (R178); special registers and constants are none. -/
def refs (f : Src) (offs : List Nat) : List RegRef :=
  if f.lvl = 3 then (if f.idx.toNat < 64 then [(3, f.idx.toNat)] else [])
  else offs.map fun o => (f.lvl.toNat, f.idx.toNat + o)

/-- A run of scalars. -/
def scalarRefs (i n : Nat) : List RegRef := (List.range n).map fun k => (3, i + k)

/-- The registers of a block or a scalar. -/
def dstRefs (d : Dst) : List RegRef :=
  if d.lvl = 3 then [(3, d.idx.toNat)] else (blockOffs d).map fun o => (d.lvl.toNat, d.idx.toNat + o)

/-- The registers that a source steps over with a block (R32, R190). -/
def stepOffs (fmt : BitVec 2) (d : Dst) : List Nat :=
  if d.lvl = 3 then (if isWide fmt then [0, 1] else [0]) else blockOffs d

/-- The registers of a source of an instruction without a block. -/
def pairOffs (fmt : BitVec 2) : List Nat := if isWide fmt then [0, 1] else [0]

/-- A predicate field. -/
def predRef (f : Src) : List RegRef := [(4, f.idx.toNat)]

def Instr.hdr : Instr → Option Hdr
  | .nop f | .bra f | .brc f | .bri f | .call f | .ret f | .rcv f | .exit f | .strand f | .yield f => some f.h
  | .trap f | .eret f | .srd f | .swr f | .patch f | .bkpt f | .halt f | .opcls f | .lumq f | .monrd f => some f.h
  | .mov f | .sel f | .iadd f | .isub f | .imul f | .imulh f | .imad f | .imin f | .imax f | .iabs f => some f.h
  | .iset f | .lea f | .iand f | .ior f | .ixor f | .inot f | .lop3 _ f | .shl f | .shr f | .sar f => some f.h
  | .rot f | .popc f | .clz f | .brev f | .bfx f | .pand f | .por f | .pxor f | .pnot f | .pmov f => some f.h
  | .fadd f | .fsub f | .fmul f | .ffma f | .fmin f | .fmax f | .fmaxi f | .fmini f | .fset f | .fcls f => some f.h
  | .frcp f | .frsq f | .fsqrt f | .fexp2 f | .flog2 f | .fsin f | .fcos f | .fdivs f | .cvt f | .bpk f => some f.h
  | .bupk f | .sbpk f | .sbupk f | .xsel f | .vote f | .ball f | .scan f | .redx f | .matchX f => some f.h
  | .rand f | .rseed f => some f.h
  | .movI f | .selI f | .iaddI f | .isubI f | .imulI f | .imulhI f | .imadI f | .iminI f | .imaxI f => some f.h
  | .isetI f | .leaI f | .iandI f | .iorI f | .ixorI f | .shlI f | .shrI f | .sarI f | .rotI f | .bfxI f => some f.h
  | .faddI f | .fsubI f | .fmulI f | .ffmaI f | .fminI f | .fmaxI f | .fsetI f => some f.h
  | .ld f | .st f | .ldp f | .stp f | .ldl f | .stl f | .ldc f | .prf f | .layset f | .layinv f => some f.h
  | .seal f | .unseal f | .invl1 f | .wbl2 f | .launch f | .vigil f | .wake f | .wakeq f | .arv f => some f.h
  | .binit f | .atom f | .red f | .redd f | .dtok f | .fence f => some f.h
  | .tld f | .tst f | .talc f | .tfree f | .tinfo f | .bulk f | .bcopy f | .kick f | .tend f | .echk f => some f.h
  | .spawn f | .bincfg f => some f.h
  | .mbeg f | .mend f | .mma f | .gang f | .mrd f | .mwr f | .mzero f | .mscl f => some f.h
  | _ => none

/-- Sources that step with the destination block. -/
def stepV (n : Nat) (f : FmtV) : List RegRef :=
  let o := stepOffs f.fmt f.d
  refs f.a o ++ (if n ≥ 2 then refs f.b o else []) ++ (if n ≥ 3 then refs f.c o else [])

/-- The base of a memory instruction, a scalar or a pair (R123). -/
def baseRefs (f : Src) : List RegRef := if f.lvl = 3 then refs f [0] else refs f [0, 1]

/-- Registers that a format of a BFP block's other side takes (R213, R214). -/
def packRegs (f : FmtV) (fpSide : Bool) : Nat :=
  let ne := bfpCount (f.subop.toNat + 2)
  if fpSide then (if f.fmt = 0 then ne else (ne + 1) / 2) else regsOfBytes ne

/-- Data registers of an atomic (R297). -/
def atomRefs (f : FmtM) : List RegRef :=
  let op := f.sub.toNat / 8
  let nb := atomBytes op f.byp (f.sub.toNat / 4 % 2 = 1)
  let n := nb / 4 * (if op = 9 then 2 else 1)
  (if f.a.lvl = 3 then refs f.a [0] else refs f.a [0, 1]) ++
  (if f.b.lvl = 3 then (if op = 9 then scalarRefs f.b.idx.toNat 2 else refs f.b [0]) else refs f.b (List.range n))

/-- The registers that an instruction reads as sources, element by element (R178, R179), its guard included. -/
def readsOf (i : Instr) : List RegRef :=
  (match Instr.hdr i with
   | some h => if h.gp = 0 then [] else [(4, h.gp.toNat)]
   | none => []) ++
  match i with
  | .bri f => refs f.a [0]
  | .call f => if f.sub = 1 then refs f.a [0] else []
  | .swr f => refs f.a [0] ++ (if f.sysn = 0x42 then refs f.b [0] else [])
  | .patch f => refs f.a [0] ++ scalarRefs f.b.idx.toNat 2
  | .opcls f => refs f.a [0] ++ refs f.b [0]
  | .monrd f => if f.sub = 1 then refs f.a [0] else []
  | .mov f | .iabs f | .inot f | .popc f | .clz f | .brev f => stepV 1 f
  | .iadd f | .isub f | .imul f | .imulh f | .imin f | .imax f | .iand f | .ior f | .ixor f => stepV 2 f
  | .shl f | .shr f | .sar f | .rot f => stepV 2 f
  | .sel f => stepV 2 f ++ predRef f.c
  | .imad f | .lop3 _ f => stepV 3 f
  | .bfx f => stepV 2 f ++ (if f.subop.toNat / 2 % 2 = 1 then refs f.c (stepOffs f.fmt f.d) else [])
  | .lea f => refs f.a (stepOffs f.fmt f.d) ++ refs f.b (if f.d.lvl = 3 then [0] else unitOffs 1 f.d)
  | .iset f | .fset f => refs f.a (pairOffs f.fmt) ++ refs f.b (pairOffs f.fmt)
  | .pand f | .por f | .pxor f => predRef f.a ++ predRef f.b
  | .pnot f => predRef f.a
  | .pmov f => if f.subop = 0 || f.subop = 3 then predRef f.a else refs f.a [0]
  | .fadd f | .fsub f | .fmul f | .fmin f | .fmax f | .fmaxi f | .fmini f | .fdivs f => stepV 2 f
  | .ffma f => stepV 3 f
  | .fcls f | .frcp f | .frsq f | .fsqrt f | .fexp2 f | .flog2 f | .fsin f | .fcos f => stepV 1 f
  | .cvt f => refs f.a (if cvtWidth (cvtS f) = 64 then [0, 1] else [0]) ++
      (if f.subop.toNat / 2 % 2 = 1 then dstRefs f.d else [])
  | .bpk f => refs f.a (List.range (packRegs f false))
  | .bupk f => refs f.a [0, 1, 2, 3]
  | .sbpk f => refs f.a (List.range (packRegs f true)) ++ refs f.b [0]
  | .sbupk f => refs f.a [0, 1, 2, 3] ++ refs f.b [0]
  | .xsel f => refs f.a (stepOffs f.fmt f.d) ++ refs f.b (if f.d.lvl = 3 then [0] else unitOffs f.fmt.toNat f.d)
  | .vote f | .ball f => predRef f.a
  | .scan f | .redx f | .matchX f => stepV 1 f
  | .rseed f => refs f.a [0]
  | .selI f => refs f.a (stepOffs f.fmt f.d) ++ [(4, f.xsub.toNat % 8)]
  | .iaddI f | .isubI f | .imulI f | .imulhI f | .iminI f | .imaxI f | .leaI f | .iandI f | .iorI f | .ixorI f =>
    refs f.a (stepOffs f.fmt f.d)
  | .shlI f | .shrI f | .sarI f | .rotI f | .faddI f | .fsubI f | .fmulI f | .fminI f | .fmaxI f =>
    refs f.a (stepOffs f.fmt f.d)
  | .imadI f | .ffmaI f => refs f.a (stepOffs f.fmt f.d) ++ dstRefs f.d
  | .bfxI f => refs f.a (stepOffs f.fmt f.d) ++ (if f.subop.toNat / 2 % 2 = 1 then dstRefs f.d else [])
  | .isetI f | .fsetI f => refs f.a (pairOffs f.fmt)
  | .ld f => baseRefs f.a ++ (if f.sub.toNat / 8 % 2 = 1 then refs f.b [0] else [])
  | .st f => dstRefs f.d ++ baseRefs f.a ++ (if f.sub.toNat / 8 % 2 = 1 then refs f.b [0] else [])
  | .ldp f => refs f.a [0] ++ (if f.b.lvl = 3 then scalarRefs f.b.idx.toNat (layoutCoords f.sub)
      else refs f.b (List.range (layoutCoords f.sub)))
  | .stp f => dstRefs f.d ++ refs f.a [0] ++ (if f.b.lvl = 3 then scalarRefs f.b.idx.toNat (layoutCoords f.sub)
      else refs f.b (List.range (layoutCoords f.sub)))
  | .ldl f => refs f.a [0]
  | .stl f => dstRefs f.d ++ refs f.a [0]
  | .ldc f => refs f.a [0] ++ (if f.sub.toNat / 8 % 2 = 1 then refs f.b [0] else [])
  | .prf f => baseRefs f.a ++ (if f.sub.toNat / 8 % 2 = 1 then refs f.b [0] else [])
  | .tld f => refs f.a [0] ++ refs f.b [0]
  | .tst f => dstRefs f.d ++ refs f.a [0] ++ refs f.b [0]
  | .talc f => refs f.a [0]
  | .layset f => scalarRefs f.d.idx.toNat 6 ++ refs f.a [0]
  | .layinv f => refs f.a [0]
  | .seal f | .unseal f | .wbl2 f => refs f.a [0] ++ refs f.b [0]
  | .bulk f => scalarRefs f.d.idx.toNat 6 ++ refs f.a [0] ++ scalarRefs f.b.idx.toNat 2
  | .bcopy f => scalarRefs f.d.idx.toNat 1 ++ refs f.a [0] ++ scalarRefs f.b.idx.toNat 3
  | .kick f => refs f.a [0] ++ refs f.b [0]
  | .spawn f => refs f.a [0] ++ refs f.b (List.range f.imm.toNat)
  | .bincfg f => refs f.a [0] ++ refs f.b [0]
  | .launch f => refs f.a [0] ++ refs f.b [0]
  | .mma f => (if f.aT then [] else refs f.a (List.range 8)) ++ (if f.bT then [] else refs f.b (List.range 8)) ++
      (if isBfp f.fa then [(1, 24 + f.scs.toNat / 8), (1, 24 + f.scs.toNat % 8)] else [])
  | .gang f => refs f.a [0]
  | .mwr f => refs f.a (List.range (mrdRegs f.fc))
  | .mscl f => refs f.a (if f.fc = 1 then [0, 1] else [0])
  | .vigil f => refs f.a [0] ++ scalarRefs f.b.idx.toNat 1 ++ (if f.sub.toNat / 16 ≥ 6 then scalarRefs (f.b.idx.toNat + 1) 1 else []) ++
      (if f.sub.toNat % 8 ≠ 0 then scalarRefs (f.b.idx.toNat + 2) 1 else [])
  | .wake f => refs f.a [0] ++ refs f.b [0]
  | .wakeq f => refs f.a [0] ++ scalarRefs f.b.idx.toNat 2
  | .arv f => refs f.a [0] ++ refs f.b [0]
  | .binit f => refs f.a [0] ++ refs f.b [0]
  | .atom f | .red f | .redd f => atomRefs f
  | _ => []

/-- A predicate destination. -/
def predDst (d : Dst) : List RegRef := [(4, d.idx.toNat)]

/-- The registers that an instruction writes, at issue for class P and B, when it is performed for class Q. -/
def writesOf : Instr → List RegRef
  | .srd f | .lumq f | .monrd f | .opcls f => dstRefs f.d
  | .mov f | .sel f | .iadd f | .isub f | .imul f | .imulh f | .imad f | .imin f | .imax f | .iabs f | .lea f => dstRefs f.d
  | .iand f | .ior f | .ixor f | .inot f | .lop3 _ f | .shl f | .shr f | .sar f | .rot f | .popc f | .clz f => dstRefs f.d
  | .brev f | .bfx f | .fadd f | .fsub f | .fmul f | .ffma f | .fmin f | .fmax f | .fmaxi f | .fmini f => dstRefs f.d
  | .fcls f | .frcp f | .frsq f | .fsqrt f | .fexp2 f | .flog2 f | .fsin f | .fcos f | .fdivs f => dstRefs f.d
  | .cvt f => if f.d.lvl ≠ 3 && cvtWidth (cvtD f) = 64 then [(f.d.lvl.toNat, f.d.idx.toNat), (f.d.lvl.toNat, f.d.idx.toNat + 1)]
      else dstRefs f.d
  | .xsel f | .scan f | .redx f | .matchX f | .ball f | .rand f | .bpk f | .sbpk f => dstRefs f.d
  | .bupk f => (List.range (packRegs f false)).map fun k => (f.d.lvl.toNat, f.d.idx.toNat + k)
  | .sbupk f => (List.range (packRegs f true)).map fun k => (f.d.lvl.toNat, f.d.idx.toNat + k)
  | .iset f | .fset f | .pand f | .por f | .pxor f | .pnot f | .vote f => predDst f.d
  | .pmov f => if f.subop = 3 then dstRefs f.d else predDst f.d
  | .isetI f | .fsetI f => predDst f.d
  | .movI f | .selI f | .iaddI f | .isubI f | .imulI f | .imulhI f | .imadI f | .iminI f | .imaxI f | .leaI f => dstRefs f.d
  | .iandI f | .iorI f | .ixorI f | .shlI f | .shrI f | .sarI f | .rotI f | .bfxI f => dstRefs f.d
  | .faddI f | .fsubI f | .fmulI f | .ffmaI f | .fminI f | .fmaxI f => dstRefs f.d
  | .ld f | .ldp f | .ldl f | .ldc f => dstRefs f.d
  | .tld f | .talc f | .tinfo f | .echk f => dstRefs f.d
  | .seal f | .unseal f | .launch f => dstRefs f.d
  | .mrd f => (List.range (mrdRegs f.fc)).map fun k => (f.a.lvl.toNat, f.a.idx.toNat + k)
  | .arv f => dstRefs f.d ++ (if f.sub = 0 then [] else [(4, f.sub.toNat)])
  | .atom f => dstRefs f.d
  | .vigil f => dstRefs f.d ++ (if f.sub.toNat % 8 = 0 then [] else [(4, f.sub.toNat % 8)])
  | _ => []

/-- The registers that wait for the strand boundary (R179). -/
def Wave.pending (w : Wave) : List RegRef := w.queue.flatMap QEntry.dsts

/-- The second price of R62 applies to `.f64` and `.i64` (R60). -/
def priced (fmt : BitVec 2) (a b : Nat) : Nat := if isWide fmt then b else a

/-- The lumen price of an instruction (R60, R62); zero under U = 1 (R42). -/
def priceOf (i : Instr) : Nat :=
  let u := match Instr.hdr i with
    | some h => h.u
    | none => false
  if u then 0 else
  match i with
  | .imul f | .imulh f | .imad f | .fadd f | .fsub f | .fmul f | .ffma f | .fmin f | .fmax f => priced f.fmt 1 2
  | .fmaxi f | .fmini f | .fset f => priced f.fmt 1 2
  | .imulI f | .imulhI f | .imadI f | .faddI f | .fsubI f | .fmulI f | .ffmaI f | .fminI f | .fmaxI f | .fsetI f =>
    priced f.fmt 1 2
  | .frcp f | .frsq f | .fsqrt f | .fexp2 f | .flog2 f | .fsin f | .fcos f | .fdivs f => priced f.fmt 2 4
  | .cvt .. | .bpk .. | .bupk .. | .sbpk .. | .sbupk .. | .scan .. | .redx .. | .matchX .. | .rand .. | .mscl .. => 1
  | .mma f => match f.fa.toNat with
    | 0 | 1 => 16
    | 2 => 32
    | 3 => 64
    | n => n - 7
  | _ => 0

end Sys2Proof.Machine
end

