-- ==== Sys2Proof/Machine/Ops.lean ====
section
/-! DEFINITION. The named operations over waves and blocks: rollback, lighting, the strand head, the save area, swap-out,
taking a trap and returning from it (spec/08 R172 to R185, spec/16 R343 to R345, spec/17 R362 to R381, R442, R443). -/
namespace Sys2Proof.Machine

/-- Waves taken off every lighting queue. -/
def State.unqueue (s : State) (ks : List Nat) : State :=
  { s with sides := tmap s.sides fun x => { x with lighting := x.lighting.filter fun k => !ks.contains k } }

/-- A wave taken out of the machine, with what stood in its registers and what was on its way to it. -/
def State.eraseWave (s : State) (k : Nat) : State :=
  { s.unqueue [k] with
    waves := terase s.waves k
    early := s.early.filter fun x => x.wave ≠ k
    wakes := s.wakes.filter fun x => x.waiter ≠ .wave k
    releases := tmap s.releases fun r => { r with waves := r.waves.filter fun x => x.1 ≠ k, batch := r.batch.filter (· ≠ k) }
    errs := s.errs.filter fun l => match l with
      | .far x _ => x ≠ k
      | _ => true }

/-- A tile freed, with the errors that stood in it. -/
def State.eraseTile (s : State) (id : Nat) : State :=
  { s with tiles := terase s.tiles id, errs := s.errs.filter fun l => match l with
      | .tile x _ => x ≠ id
      | _ => true }

/-- The survivors that SVM names, reloaded from the bank (R173); a wave at PL 1 has none (R362). -/
def Wave.reload (w : Wave) : Wave :=
  { w with near := w.bank.filter (fun e => bit w.st.svm e.1), wick := [] }

/-- Mid-strand rollback to the strand head (R181). Far registers keep their values; only rollbacks for parity count together (R184). -/
def Wave.rollback (w : Wave) : Wave :=
  ({ w with st := w.head, queue := [], farRead := [], parity := 0 } : Wave).reload

/-- A wave leaves its lit slot at its strand head (R173). -/
def Wave.darken (w : Wave) : Wave :=
  { w with lit := false, victim := false, near := [], wick := [], queue := [], farRead := [], starve := 0, starved := false }

/-- Steps 1 and 2 of a boundary (R175): the survivors banked, the head recorded. At PL 1 the mask is 0 (R362). -/
def Wave.newHead (w : Wave) (m : Word) (pc : DWord) : Wave :=
  let m := if w.st.pl1 then 0 else m
  let bank := (List.range 32).foldl (fun b i => if bit m i then tset b i ((tget w.near i).getD []) else b) w.bank
  let st := { w.st with svm := m, pc := pc }
  { w with st := st, head := st, bank := bank }

/-- The head record taken again after a boundary instruction's own effect (R290, R375). -/
def Wave.recordHead (w : Wave) : Wave := { w with head := w.st }

/-- After a boundary every near register outside SVM and every wick register is undefined (R176). -/
def Wave.afterBoundary (w : Wave) : Wave :=
  { w with queue := [], farRead := [], wick := [], near := w.near.filter (fun e => bit w.st.svm e.1) }

/-- A result that an entry writes while the boundary performs it (R175): scalars and predicates also go to the head
record, surviving near registers also to the bank. -/
def Wave.setScalBoth (w : Wave) (i : Nat) (v : DWord) : Wave :=
  { w with st := w.st.setS i v, head := w.head.setS i v }

def Wave.setPredBoth (w : Wave) (i : Nat) (v : Word) : Wave :=
  { w with st := w.st.setP i v, head := w.head.setP i v }

/-- A flag written to a predicate of every live thread (R290, R294). -/
def Wave.setFlagBoth (w : Wave) (i : Nat) (v : Bool) : Wave :=
  w.setPredBoth i ((w.st.p i &&& ~~~w.st.live) ||| (if v then w.st.live else 0))

def Wave.setRegBoth (w : Wave) (lvl i : Nat) (act : Word) (val : Nat → Word) : Wave :=
  let w1 := w.setReg lvl i act val
  if lvl = 1 && bit w.st.svm i then { w1 with bank := tset w1.bank i (mergeLanes (tget w1.bank i) act val) } else w1

/-- A status word of a performed entry delivered to its destination (R145, R175). -/
def Wave.statusBoth (w : Wave) (u : Bool) (d : Dst) (act : Word) (v : DWord) : Wave :=
  if u || d.lvl = 3 then w.setScalBoth d.idx.toNat v
  else ((blockOffs d).zipIdx).foldl (fun w oj =>
    w.setRegBoth d.lvl.toNat (d.idx.toNat + oj.1) act fun _ => if oj.2 = 0 then v.truncate 32 else 0) w

/-! The save area (R376 to R380). -/

/-- Byte offset of section `k` for BSLOTS slots (R378). -/
def sectOffset (bslots k : Nat) : Nat :=
  match k with
  | 0 => 192
  | 1 => 960
  | 2 => 960 + 983040 * bslots
  | 3 => 960 + 3477504 * bslots
  | 4 => 960 + 3600576 * bslots
  | 5 => 960 + 5274048 * bslots
  | 6 => 960 + 5335680 * bslots
  | _ => 960 + 5337216 * bslots

def sectStride (k : Nat) : Nat :=
  match k with
  | 0 => 768
  | 1 => 983040
  | 2 => 2494464
  | 3 => 123072
  | 4 => 1673472
  | 5 => 61632
  | 6 => 1536
  | _ => 24768

/-- The virtual address of byte `off` of a slot's record in section `k`. -/
def saAddr (c : Ctx) (k slot off : Nat) : Nat := c.sabase + sectOffset c.bslots k + sectStride k * slot + off

/-- A failed save-area access: the sub-cause of R84, or 0 for an uncorrectable error, and its address (R442). -/
abbrev SaFail := Nat × Nat

/-- Bytes written to the save area through the context's translation, sector by sector (R442); the device's translations of the save
area are the hub's (log 3). -/
def saWriteParts (s : State) (ctx : Nat) : List (Nat × List Byte) → Except SaFail State
  | [] => .ok s
  | (va, bs) :: rest =>
    match xlate s .hub ctx va .store with
    | .error n => .error (n, va)
    | .ok p => saWriteParts (homeWrite (useXlat s .hub ctx va p.x) ctx p.pa bs (pteCmp p.pte)) ctx rest

def saWrite (s : State) (ctx va : Nat) (bs : List Byte) : Except SaFail State :=
  saWriteParts s ctx ((partsOf va bs.length).map fun p => (p.1, (bs.drop (p.1 - va)).take p.2))

/-- Bytes read from the save area (R442). -/
def saReadParts (s : State) (ctx : Nat) : List (Nat × Nat) → Except SaFail (List Byte)
  | [] => .ok []
  | (va, n) :: rest =>
    match xlate s .hub ctx va .load with
    | .error e => .error (e, va)
    | .ok p =>
      if uncorrectable s p.pa then .error (0, va)
      else match saReadParts s ctx rest with
        | .error e => .error e
        | .ok bs => .ok (memRead s.mem p.pa n ++ bs)

def saRead (s : State) (ctx va n : Nat) : Except SaFail (List Byte) := saReadParts s ctx (partsOf va n)

/-- What a read of the save area leaves in the hub's cache and in the slices. -/
def saTouch (s : State) (ctx va n : Nat) : State :=
  (partsOf va n).foldl (fun s q => match xlate s .hub ctx q.1 .load with
    | .error _ => s
    | .ok p => useRead s .hub ctx q.1 p) s

/-- Lists of writes, stopping at the first failure. -/
def saWrites (s : State) (ctx : Nat) : List (Nat × List Byte) → Except SaFail State
  | [] => .ok s
  | (va, bs) :: rest =>
    match saWrite s ctx va bs with
    | .error e => .error e
    | .ok s' => saWrites s' ctx rest

/-- A wave state record (R379): 1,920 bytes; the order of the stacks' entries, the oldest first, is DESIGN CHOICE (log 10). EPC, EADDR and
ECAUSE stand in a FRAME record only. -/
def waveRecord (st : WState) (be : Option (Instr × DWord)) (regs : Option (DWord × DWord × DWord)) : List Byte :=
  let r := regs.getD (0, 0, 0)
  let n8 (v : DWord) := leBytes 8 v.toNat
  let n4 (v : Nat) := leBytes 4 v
  let dent (i : Nat) : List Byte := match st.dstack.reverse[i]? with
    | none => List.replicate 24 0
    | some e => n8 e.jpc ++ n8 e.ppc ++ n4 e.saved.toNat ++ n4 e.pmask.toNat
  let rent (i : Nat) : List Byte := match st.rstack.reverse[i]? with
    | none => List.replicate 16 0
    | some e => n8 e.rpc ++ n4 e.depth ++ n4 0
  (List.range 64).flatMap (fun i => n8 (st.s i)) ++
  (List.range 7).flatMap (fun i => n4 (st.p (i + 1)).toNat) ++ n4 0 ++
  n8 (st.fpstat.zeroExtend 64) ++ n8 st.seed ++
  n8 ((st.gseq.zeroExtend 64 <<< 48) ||| st.gmask.zeroExtend 64) ++ n8 st.pc ++
  n8 r.1 ++ n8 r.2.1 ++ n8 r.2.2 ++
  n4 st.live.toNat ++ n4 st.exec.toNat ++ n4 st.svm.toNat ++ n4 st.aiv.toNat ++
  n4 ((if st.pl1 then 1 else 0) + (if st.chain then 2 else 0) + (if st.chainOrd then 4 else 0) +
      (if be.isSome then 8 else 0) + 256 * st.dstack.length + 65536 * st.rstack.length) ++ n4 0 ++
  n8 ((be.map Prod.snd).getD 0) ++ List.replicate 8 0 ++
  (List.range 32).flatMap (fun t => n4 ((tget st.ctr t).getD 0).toNat) ++
  (List.range 32).flatMap dent ++ (List.range 16).flatMap rent ++ List.replicate 128 0

/-- A number of `n` bytes at offset `o` of a record. -/
def recNat (bs : List Byte) (o n : Nat) : Nat := leNat ((bs.drop o).take n)

/-- A PC that a wave can hold (R443); that of a pending boundary instruction is one too. -/
def pcOk (n : Nat) : Bool := n % 12 = 0 && n < 2 ^ 57

/-- A record read back, or none when it is malformed (R443); ECAUSE has reserved bits in a FRAME record (R366). -/
def parseRecord (isFrame : Bool) (bs : List Byte) : Option (WState × Option DWord) :=
  let bits := recNat bs 616 4
  let dd := bits / 256 % 256
  let rd := bits / 65536 % 32
  let ds : List DEntry := (List.range (min dd 32)).map fun i =>
    { jpc := BitVec.ofNat 64 (recNat bs (768 + 24 * i) 8), ppc := BitVec.ofNat 64 (recNat bs (776 + 24 * i) 8),
      saved := BitVec.ofNat 32 (recNat bs (784 + 24 * i) 4), pmask := BitVec.ofNat 32 (recNat bs (788 + 24 * i) 4) }
  let rs : List REntry := (List.range (min rd 16)).map fun i =>
    { rpc := BitVec.ofNat 64 (recNat bs (1536 + 16 * i) 8), depth := recNat bs (1544 + 16 * i) 4 }
  let live := recNat bs 600 4
  let exec := recNat bs 604 4
  let pc := recNat bs 568 8
  let bad := recNat bs 540 4 ≠ 0 || recNat bs 544 8 ≥ 32 || recNat bs 564 2 % 65536 ≠ 0 || !pcOk pc || !pcOk (recNat bs 624 8) ||
    recNat bs 612 4 ≥ 2 ^ 24 || bits % 256 ≥ 16 || bits ≥ 2 ^ 21 || dd > 32 || rd > 16 || recNat bs 620 4 ≠ 0 ||
    recNat bs 632 8 ≠ 0 || recNat bs 1792 64 ≠ 0 || recNat bs 1856 64 ≠ 0 || exec &&& live ≠ exec ||
    ds.any (fun e => !pcOk e.jpc.toNat || !pcOk e.ppc.toNat) || rs.any (fun e => !pcOk e.rpc.toNat) ||
    (List.range 16).any (fun i => recNat bs (1548 + 16 * i) 4 ≠ 0) ||
    (isFrame && (recNat bs 596 4 ≠ 0 || recNat bs 592 4 % 1024 ≠ 0))
  if bad then none
  else
    let st : WState :=
      { pc := BitVec.ofNat 64 pc
        scal := (List.range 64).map fun i => (i, BitVec.ofNat 64 (recNat bs (8 * i) 8))
        pred := (List.range 7).map fun i => (i + 1, BitVec.ofNat 32 (recNat bs (512 + 4 * i) 4))
        fpstat := BitVec.ofNat 5 (recNat bs 544 8), seed := BitVec.ofNat 64 (recNat bs 552 8)
        ctr := (List.range 32).map fun t => (t, BitVec.ofNat 32 (recNat bs (640 + 4 * t) 4))
        gmask := BitVec.ofNat 32 (recNat bs 560 4), gseq := BitVec.ofNat 16 (recNat bs 566 2)
        chain := bits / 2 % 2 = 1, chainOrd := bits / 4 % 2 = 1, aiv := BitVec.ofNat 24 (recNat bs 612 4)
        live := BitVec.ofNat 32 live, exec := BitVec.ofNat 32 exec, dstack := ds.reverse, rstack := rs.reverse
        svm := BitVec.ofNat 32 (recNat bs 608 4), pl1 := bits % 2 = 1 }
    some (st, if bits / 8 % 2 = 1 then some (BitVec.ofNat 64 (recNat bs 624 8)) else none)

/-- The 48 bytes of a pending-vigil record (R380). -/
def vigilRecord (v : Vigil) : List Byte :=
  let kind := match v.kind with
    | .plain => 0
    | .queue => 1
    | .phase => 2
    | .deferred => 3
    | .drain => 4
  leBytes 8 v.va ++ leBytes 8 v.operand.toNat ++ leBytes 8 v.mask.toNat ++ leBytes 4 v.budget ++ leBytes 4 v.ticket ++
  leBytes 8 0 ++ leBytes 8 (1 + kind * 8 + v.cmp * 64 + (if v.w64 then 512 else 0) + v.pt * 1024 + v.scope * 8192)

/-- The vigil in which a wave waits. -/
def vigilOf (s : State) (k : Nat) : Option Vigil := (tvals s.vigils).find? fun v => v.waiter = .wave k

/-- The registers of the context in the order of section 0 (R378), ASTAT and CSYNC last. -/
def ctxStateRegs : List Nat :=
  [0x41, 0x43, 0x44, 0x45, 0x46, 0x47, 0x48, 0x49, 0x4A, 0x4B, 0x4C, 0x4D, 0x4E, 0x4F, 0x40]

/-- Section 0 of a context (R378). The form of a seal entry, base then lines, is DESIGN CHOICE (log 10). -/
def ctxRecord (s : State) (ctx : Nat) (c : Ctx) : List Byte :=
  let seals := s.seals.filter fun e => e.ctx = ctx
  ctxStateRegs.flatMap (fun n => leBytes 8 (c.reg n).toNat) ++ leBytes 8 c.astat.toNat ++ leBytes 8 c.csync.toNat ++
  List.replicate 56 0 ++ ((seals.flatMap fun (e : Seal) => leBytes 8 e.base ++ leBytes 8 e.lines) ++ List.replicate 256 0).take 256

/-- The block header (R379). -/
def blockHeader (b : Block) (bdim : Nat) : List Byte :=
  let st := match b.status with
    | .resident | .stranded | .finished => 1
    | .swapped => 2
    | .escalated => 3
    | .retired => 0
  leBytes 8 (st + (if b.pwake then 4 else 0) + (if b.parked ≠ [] then 8 else 0)) ++ leBytes 4 b.bx ++ leBytes 4 b.byy ++ leBytes 4 b.bz ++
  leBytes 4 (b.queue + bdim * 65536) ++ leBytes 8 b.escWave ++
  leBytes 8 b.hcause.toNat ++ leBytes 8 b.hpc.toNat ++ leBytes 8 b.haddr.toNat ++ List.replicate 136 0

/-- The residual queue that a wave's slot holds (R182, R378): the wave's own, else the one that FRAME's handler is to give back. -/
def Wave.savedQueue (w : Wave) : List QEntry := if w.residual = [] then w.fresidual else w.residual

/-- The writes of a launch wave's records (R378): HEAD, FRAME, whose PC is ERES (R368), the bank, the far granules that are not absent,
and its pending vigil. A wave formed from a bin is the device's own part (log 10). -/
def waveWrites (s : State) (c : Ctx) (slot k : Nat) (w : Wave) : List (Nat × List Byte) :=
  if w.isBin then []
  else
    [(saAddr c 3 slot (192 + 3840 * w.wid), waveRecord w.head w.be none)] ++
    (match w.frame with
     | none => []
     | some f => [(saAddr c 3 slot (2112 + 3840 * w.wid),
         waveRecord { f with pc := w.eres } w.fbe (some (w.epc, w.eaddr, w.ecause)))]) ++
    (w.bank.map fun e => (saAddr c 2 slot (77952 * w.wid + 128 * e.1),
      (List.range 32).flatMap fun t => leBytes 4 (((e.2[t]?).join.getD ((s.fv (fkey 5 (e.1 * 32 + t))).truncate 32)).toNat))) ++
    (((List.range (w.farRegs / 16)).filter fun g => !w.absent.contains g).map fun g =>
      (saAddr c 1 slot (30720 * w.wid + 2048 * g),
        (List.range 16).flatMap fun r => (List.range 32).flatMap fun t =>
          leBytes 4 ((((tget w.far (16 * g + r)).bind fun l => (l[t]?).join).getD 0).toNat))) ++
    [(saAddr c 6 slot (48 * w.wid), match vigilOf s k with
      | some v => vigilRecord v
      | none => List.replicate 48 0)]

/-! The parts of a slot that belong to the device (R378, R443). What they hold stays in the device's own records as well; where the manual
leaves their form to the device it is free (log 10), and a restore must find them again. -/

/-- Bytes of a form that is the device's own. -/
def ownBytes (s : State) (va n : Nat) : List Byte := (List.range n).map fun i => (s.fv (fkey 28 (va + i))).truncate 8

def ownPart (s : State) (va n : Nat) : Nat × List Byte := (va, ownBytes s va n)

/-- A wave's residual queue in section 2: its count, a check value, its entries of 2,304 bytes. -/
def queueWrites (s : State) (c : Ctx) (slot : Nat) (w : Wave) : List (Nat × List Byte) :=
  if w.isBin then []
  else
    let a := saAddr c 2 slot (77952 * w.wid + 4096)
    (a, leBytes 4 w.savedQueue.length) :: ownPart s (a + 8) 8 ::
      (List.range (min 32 w.savedQueue.length)).map fun i => ownPart s (a + 128 + 2304 * i) 2304

/-- The contents of some tiles one after another from an offset of section 4, as far as the section's part goes. -/
def tileWrites (s : State) (c : Ctx) (slot : Nat) : Nat → Nat → List (Nat × Tile) → List (Nat × List Byte)
  | _, _, [] => []
  | off, limit, (id, t) :: rest =>
    let n := t.rows * t.cols * ewBytes t.ew
    if limit < off + n then [] else (saAddr c 4 slot off, tileRead s id 0 n) :: tileWrites s c slot (off + n) limit rest

/-- Section 4 of a block: 9 bytes a tile, its word (R106) and its handle; the tiles' contents; the latches; a check value. -/
def tileSection (s : State) (c : Ctx) (slot : Nat) (tiles : List (Nat × Tile)) (latches : Nat) : List (Nat × List Byte) :=
  (saAddr c 4 slot 0, (tiles.take 256).flatMap fun e => leBytes 8 (tileWord e.2) ++ leBytes 1 e.2.handle) ::
  tileWrites s c slot 2304 1427712 (tiles.filter fun e => e.2.lvl ≠ 2) ++
  tileWrites s c slot 1427712 1624320 (tiles.filter fun e => e.2.lvl = 2) ++
  ((List.range (min 8 latches)).map fun i => ownPart s (saAddr c 4 slot (1624320 + 6144 * i)) 6136) ++
  [ownPart s (saAddr c 4 slot 1673464) 8]

/-- Section 5 of a block: 64 bytes for each bin thread, piece and engine operation; a check value. -/
def engineSection (s : State) (c : Ctx) (slot n : Nat) : List (Nat × List Byte) :=
  ((List.range (min 962 n)).map fun i => ownPart s (saAddr c 5 slot (64 * i)) 64) ++ [ownPart s (saAddr c 5 slot 61624) 8]

/-- Section 7 of a block: the waves' REDD sequence numbers and DTOK marks, whether the block holds the token, a check value, and the
contributions that wait in the core. -/
def orderSection (s : State) (c : Ctx) (slot : Nat) (ws : List Wave) (token : Bool) (redd : List Contrib) : List (Nat × List Byte) :=
  let named (wid : Nat) : Option Wave := ws.find? fun w => !w.isBin && w.wid = wid
  let seqs := (List.range 32).flatMap fun i => leBytes 4 (((named i).map Wave.redd).getD 0)
  let marks := (List.range 32).foldl (fun n i => if ((named i).map Wave.dtok).getD false then n + 2 ^ i else n) 0
  (saAddr c 7 slot 0, seqs ++ leBytes 4 marks ++ leBytes 4 (if token then 1 else 0)) :: ownPart s (saAddr c 7 slot 136) 8 ::
    ((redd.filter fun r => r.spilled.isNone).take 1024).zipIdx.map fun r =>
      (saAddr c 7 slot (192 + 24 * r.2), leBytes 8 r.1.va ++ leBytes 8 r.1.v.toNat ++ ownBytes s (saAddr c 7 slot (208 + 24 * r.2)) 8)

/-- Whether no other block of a block's cluster is resident (R107). -/
def lastOfCluster (s : State) (b : Nat) (x : Block) : Bool :=
  !(s.blocks.any fun e => e.1 ≠ b && e.2.launch = x.launch && e.2.cluster = x.cluster && s.residentBlock e.1)

/-- The slot in which a cluster's QS tiles are saved (R378): that of its block 0, or of the lowest that has not retired (log 10). -/
def clusterSlot (s : State) (x : Block) : Nat :=
  let mine := (tvals s.blocks).filter fun y => y.launch = x.launch && y.cluster = x.cluster && y.status ≠ .retired
  match mine with
  | [] => x.slot
  | y :: rest => (rest.foldl (fun a z => if z.inCluster < a.inCluster then z else a) y).slot

/-- The device's parts of a block as a swap-out writes them (R107, R154, R182, R256, R378). A cluster's QS tiles go with its last
resident block, behind the CS tiles that stand in that slot. -/
def deviceWrites (s : State) (c : Ctx) (b : Nat) (x : Block) : List (Nat × List Byte) :=
  let y := s.core x.core
  let ws := (s.wavesOf b).map Prod.snd
  let own := s.tiles.filter fun e => e.2.owner = .block b
  let qs := if lastOfCluster s b x then s.tiles.filter fun e => e.2.owner = .cluster x.launch x.cluster else []
  let slot0 := clusterSlot s x
  let before := (s.tiles.filter fun e => e.2.lvl ≠ 2 && (match e.2.owner with
    | .block z => ((tget s.blocks z).map fun (v : Block) => decide (v.ctx = x.ctx ∧ v.slot = slot0)).getD false
    | _ => false)).foldl (fun n e => n + e.2.bytes) 2304
  let works := ((tvals y.bins).filter fun n => n.block = b).foldl (fun n z => n + z.threads.length) 0 +
    (y.retbuf.filter fun p => p.block = b).length + ((tvals s.engops).filter fun o => o.block = b).length
  let token := ((tget s.launches x.launch).map fun l => decide (l.token = x.linear)).getD false
  ws.flatMap (queueWrites s c x.slot) ++
  tileSection s c x.slot own (y.latches.filter fun l => l.block = b).length ++ tileWrites s c slot0 before 1427712 qs ++
  engineSection s c x.slot works ++ orderSection s c x.slot ws token x.redd

/-- The device's parts of a slot as they read now. -/
def imageRead (s : State) (ctx : Nat) : List (Nat × List Byte) → Except SaFail Bool
  | [] => .ok true
  | (va, bs) :: rest =>
    match saRead s ctx va bs.length with
    | .error e => .error e
    | .ok r => match imageRead s ctx rest with
      | .error e => .error e
      | .ok more => .ok (r = bs && more)

/-- Private sectors of a wave written back and dropped (R101 swap-out). -/
def writeBackPrivate (s : State) (k : Nat) (w : Wave) : State :=
  let c := s.core w.core
  let mine := c.priv.filter fun e => e.2.wave = k
  let s1 := s.setCore w.core { c with priv := c.priv.filter fun e => e.2.wave ≠ k }
  (mine.filter fun e => e.2.dirty).foldl (fun s e => homeWrite s w.ctx (48 * e.1) e.2.bytes e.2.cmp) s1

/-- Private sectors of a wave dropped without write-back (R101 retirement). -/
def dropPrivate (s : State) (k : Nat) (w : Wave) : State :=
  let c := s.core w.core
  s.setCore w.core { c with priv := c.priv.filter fun e => e.2.wave ≠ k }

/-- A wave made ready to be written out: rolled back if it is mid-strand, dark (R182, R185, R343). A wave that waits at a
latch or for a step keeps its entry in its residual queue. -/
def Wave.suspend (w : Wave) : Wave :=
  let w1 := if w.lit then w.rollback else w
  let w2 := w1.darken
  match w2.wait with
  | .latch | .steps => { w2 with wait := .boundary }
  | _ => w2

/-- A wave's sent writes performed and its early reads forgotten (R314). -/
def settleAccesses (s : State) (k : Nat) : State :=
  let s1 := flushWave s k
  { s1 with early := s1.early.filter fun x => x.wave ≠ k }

/-- The waves of a block suspended, their writes performed, their private lines written back. -/
def suspendWaves (s : State) (b : Nat) : State :=
  (s.wavesOf b).foldl (fun s kw =>
    let s1 := (settleAccesses s kw.1).modWave kw.1 Wave.suspend
    match s1.wave kw.1 with
    | none => s1
    | some w => writeBackPrivate s1 kw.1 w) s

/-! Parked waves (R383). -/

/-- Whether a fetch at a PC is held: its line lies in the destination range of a patch. -/
def Patch.holds (p : Patch) (pc : Nat) : Bool := p.lo < p.hi && p.lo / 192 ≤ pc / 192 && pc / 192 ≤ (p.hi - 1) / 192

/-- Whether a patch parks wave `k`: it parked it as it began, or its fetch is held, or its PC or strand head lies in the range. -/
def Patch.parks (p : Patch) (k : Nat) (w : Wave) : Bool :=
  p.parked.contains k ||
  (w.ctx = p.ctx && p.cores.contains w.core && (p.holds w.st.pc.toNat || (p.lo ≤ w.head.pc.toNat && w.head.pc.toNat < p.hi)))

/-- The patches that park a wave of a block, by key. -/
def parkedBy (s : State) (b : Nat) : List Nat :=
  (s.patches.filter fun e => (s.wavesOf b).any fun w => w.2.wait ≠ .ended && e.2.parks w.1 w.2).map Prod.fst

/-- The device-owned parts of a block taken off its core (R154, R256, R378): bins, pieces, latches; its engine operations
are suspended, its tiles leave the core. A cluster's QS tiles leave with its last resident block (R107). -/
def detachBlock (s : State) (b : Nat) (x : Block) : State :=
  let c := s.core x.core
  let mineBins := (tvals c.bins).filter fun y => y.block = b
  let s1 := s.setCore x.core { c with
    bins := c.bins.filter (fun e => e.2.block ≠ b)
    retbuf := c.retbuf.filter (fun p => p.block ≠ b)
    latches := c.latches.filter (fun l => l.block ≠ b) }
  let s2 := s1.setBlock b { x with
    bins := mineBins
    pieces := c.retbuf.filter (fun p => p.block = b)
    latches := c.latches.filter (fun l => l.block = b) }
  let last := lastOfCluster s b x
  { s2.unqueue ((s.wavesOf b).map Prod.fst) with
    engops := tmap s2.engops fun o => if o.block = b then { o with suspended := true } else o
    tiles := tmap s2.tiles fun t => match t.owner with
      | .block y => if y = b then { t with cores := [] } else t
      | .cluster l cl => if l = x.launch && cl = x.cluster && last then { t with cores := [] } else t }

/-- A block written to the save area and taken off its core (R343, R345, R378); on a failed write the failure, and the
block stays where it is (R442). -/
def swapOutRaw (s : State) (b : Nat) (status : BStatus) : State × Option SaFail :=
  match tget s.blocks b with
  | none => (s, none)
  | some x =>
    match tget s.ctxs x.ctx with
    | none => (s, none)
    | some c =>
      let s1 := suspendWaves (completeBlockSteps s x.core b) b
      let bdim := ((tget s.launches x.launch).map Launch.bdim).getD 0
      let image := deviceWrites s1 c b x
      let x' := { x with status := status, parked := parkedBy s1 b, image := image }
      let writes := ((s1.wavesOf b).flatMap fun kw => waveWrites s1 c x.slot kw.1 kw.2) ++ image ++
        [(saAddr c 3 x.slot 0, blockHeader x' bdim), (saAddr c 0 0 0, ctxRecord s1 x.ctx c)]
      match saWrites s1 x.ctx writes with
      | .error e => (s1.setBlock b { x with status := .stranded, strandAs := status }, some e)
      | .ok s2 =>
        let s3 := detachBlock s2 b x'
        ((s3.wavesOf b).foldl (fun s kw => s.modWave kw.1 fun w =>
          if w.isBin then w else { w with far := [], bank := [], absent := List.range (w.farRegs / 16) }) s3, none)

/-! Failed accesses of the save area (R442). -/

/-- The notify of a failed save-area access (R442): CMD 3 with the sub-cause, or 26 with 2. -/
def notifySa (s : State) (ctx slot : Nat) (e : SaFail) : State :=
  s.notify ctx (if e.1 = 0 then 26 else 3)
    (BitVec.ofNat 64 (slot + (if e.1 = 0 then 2 else e.1) * 2 ^ 52)) (leBytes 24 e.2)

/-- A failed access noted for RUNCTX's retry, and its owner told (R442). -/
def noteSaFail (s : State) (ctx slot : Nat) (e : SaFail) (redo : SaRedo) : State :=
  notifySa (s.modCtx ctx fun c => { c with failed := c.failed ++ [⟨slot, e.1, e.2, redo⟩] }) ctx slot e

/-- CFLAGS written to the header (R377): RLOSS and HALTED; a failed write is noted (R442). -/
def writeCflags (s : State) (ctx : Nat) : State :=
  match tget s.ctxs ctx with
  | none => s
  | some c =>
    match saWrite s ctx (c.sabase + 20) (leBytes 4 ((if c.halted then 1 else 0) + (if c.rloss then 2 else 0))) with
    | .error e => noteSaFail s ctx 0 e .flags
    | .ok s' => s'

/-- Every resident block of a context swapped out and CFLAGS.HALTED set (R370, R374, R442). -/
def haltCtx (s : State) (ctx : Nat) : State :=
  let bs := s.blocks.filter fun e => e.2.ctx = ctx && e.2.status = .resident
  let s1 := bs.foldl (fun s e =>
    match swapOutRaw s e.1 .swapped with
    | (s', none) => s'
    | (s', some f) => noteSaFail s' ctx e.2.slot f (.swap e.1)) s
  writeCflags (s1.modCtx ctx fun c => { c with halted := true }) ctx

/-- A failure while a save area is written or read: the context is halted and its owner told (R442). -/
def saFailed (s : State) (ctx slot : Nat) (e : SaFail) (redo : SaRedo) : State := haltCtx (noteSaFail s ctx slot e redo) ctx

/-- A block swapped out; a failed write strands it and halts the context (R442). -/
def swapOut (s : State) (b : Nat) (status : BStatus) : State :=
  match tget s.blocks b with
  | none => s
  | some x =>
    match swapOutRaw s b status with
    | (s', none) => s'
    | (s', some f) => saFailed s' x.ctx x.slot f (.swap b)

/-- The pending-wake summary of a context (R377). -/
def pwsum (s : State) (ctx : Nat) : Nat :=
  s.blocks.foldl (fun n e => if e.2.ctx = ctx && e.2.pwake then n ||| 2 ^ (e.2.slot / 64 % 256) else n) 0

/-- A block's header and its context's pending-wake summary (R377, R379), as two writes. -/
def headerWrites (s : State) (c : Ctx) (b : Block) : List (Nat × List Byte) :=
  [(saAddr c 3 b.slot 0, blockHeader b (((tget s.launches b.launch).map Launch.bdim).getD 0)), (c.sabase + 32, leBytes 32 (pwsum s b.ctx))]

/-- The header and the summary written where a step changes them. -/
def tryHeader (s : State) (b : Nat) : Except (Nat × Nat × SaFail) State :=
  match tget s.blocks b with
  | none => .ok s
  | some x =>
    match tget s.ctxs x.ctx with
    | none => .ok s
    | some c =>
      match saWrites s x.ctx (headerWrites s c x) with
      | .ok s1 => .ok s1
      | .error e => .error (x.ctx, x.slot, e)

/-- The same; a failed write halts the context (R442). -/
def writeHeader (s : State) (b : Nat) : State :=
  match tryHeader s b with
  | .ok s1 => s1
  | .error (ctx, slot, e) => saFailed s ctx slot e (.header b)

/-- How the fill of an absent granule ends (R188): filled, an uncorrectable error at an address, or a failure of the save area,
already handled (R442). -/
inductive Fill where
  | filled (s : State)
  | bad (s : State) (va : Nat)
  | failed (s : State)

/-- A granule's 16 registers from the save area's bytes, register by register, thread by thread. -/
def granuleRegs (far : Tab Lanes) (g : Nat) (bs : List Byte) : Tab Lanes :=
  (List.range 16).foldl (fun f r => tset f (16 * g + r)
    ((List.range 32).map fun t => some (BitVec.ofNat 32 (recNat bs (128 * r + 4 * t) 4)))) far

/-- An absent granule filled from the save area (R188). -/
def fillGranule (s : State) (k g : Nat) : Fill :=
  match s.wave k with
  | none => .failed s
  | some w =>
    match tget s.ctxs w.ctx, tget s.blocks w.block with
    | some c, some b =>
      let va := saAddr c 1 b.slot (30720 * w.wid + 2048 * g)
      (match saRead s w.ctx va 2048 with
       | .error (0, va) => .bad s va
       | .error e => .failed (saFailed s w.ctx b.slot e (.read 1))
       | .ok bs =>
         .filled ((saTouch s w.ctx va 2048).setWave k { w with far := granuleRegs w.far g bs, absent := w.absent.filter (· ≠ g) }))
    | _, _ => .failed s

/-- A trap: cause, sub-cause, WHEN, thread, EPC, ERES, EADDR (R364, R366). -/
structure Trap where
  cause : Nat
  sub : Nat
  whn : Nat
  thr : Option Nat
  epc : DWord
  eres : DWord
  eaddr : DWord
  deriving DecidableEq, Repr

/-- ECAUSE of R366. -/
def causeWord (t : Trap) (rq be : Bool) : DWord :=
  BitVec.ofNat 64 (t.cause % 256 * 2 ^ 24 + t.sub % 16 * 2 ^ 20 + (if rq then 2 ^ 19 else 0) + (if be then 2 ^ 18 else 0) +
    t.whn % 4 * 2 ^ 16 + (match t.thr with
      | none => 0
      | some x => 2 ^ 15 + x % 32 * 2 ^ 10))

/-- Whether a trap goes to the host (R367). -/
def trapToHost (s : State) (w : Wave) (cause : Nat) : Bool :=
  let tvec := s.ctxReg w.ctx 0x40
  w.st.pl1 || !tvec.getLsbD 63 || cause = 27 || cause = 28 || (cause = 25 && tvec.getLsbD 62)

/-- Escalation (R369, R345): the block is swapped out as escalated, and its owner is told once the save area has been written (R434). A
wave formed from a bin has no number of its own; its record holds 255 (log 10). -/
def escalate (s : State) (k : Nat) (w : Wave) (cause sub : Nat) (hcause hpc haddr : DWord) : State :=
  let s0 := s.setWave k w
  match tget s0.blocks w.block with
  | none => s0
  | some x =>
    let s1 := s0.setBlock w.block { x with escWave := if w.isBin then 255 else w.wid, escKey := k, hcause := hcause, hpc := hpc, haddr := haddr }
    let s2 := swapOut s1 w.block .escalated
    let arg := BitVec.ofNat 64 (x.slot + sub * 2 ^ 52)
    let s3 := if ((tget s2.blocks w.block).map fun (y : Block) => decide (y.status = .stranded)).getD false then
        s2.modBlock w.block fun y => { y with notice := some (cause, arg) }
      else s2.notify w.ctx cause arg []
    if cause = 28 then haltCtx s3 w.ctx else s3

/-- Delivery to the context's handler (R368). -/
def deliver (s : State) (k : Nat) (w : Wave) (t : Trap) : State :=
  let frame := { w.head with pc := t.eres }
  let entry := (s.ctxReg w.ctx 0x40).toNat % 2 ^ 57
  let st := { frame with
    pl1 := true, svm := 0, exec := frame.live, dstack := [], rstack := [], gmask := 0, gseq := 0, chain := false,
    chainOrd := false, pc := BitVec.ofNat 64 entry }
  s.setWave k { w with
    frame := some frame, st := st, head := st, near := [], wick := [], queue := [], farRead := [],
    ecause := causeWord t (w.residual ≠ []) w.be.isSome, epc := t.epc, eres := t.eres, eaddr := t.eaddr,
    fresidual := w.residual, fbe := w.be, residual := [], be := none, wait := .none, fmflags := w.mflags, mflags := 0, parity := 0 }

/-- Taking a trap, after the rollback that its kind asks for (R367 to R369): to the handler at PL 1, or to the host. After a page fault the
page's leaves leave the core's and the die's caches, which hold no failed translation (R86). -/
def takeTrap (s : State) (k : Nat) (w : Wave) (t : Trap) : State :=
  let s := if t.cause = 3 then dropLeaves s (.lsu w.core) w.ctx (pageNo t.eaddr.toNat) else s
  let w1 := { w with head := { w.head with pc := t.eres }, st := { w.st with pc := t.eres } }
  if trapToHost s w t.cause then
    escalate s k w1 t.cause t.sub (causeWord t (w.residual ≠ []) w.be.isSome) t.epc t.eaddr
  else deliver s k w1 t

/-- EADDR of a failure (R366): the faulting address; where there is none, no value is stated: a free value, which is the same whenever that
trap is raised (log 1, R395). -/
def eaddrOf (f : Fail) : DWord := f.addr.getD (Config.freeValue 0 (fkey 11 (16 * f.cause + f.sub)))

/-- A trap at issue (R181, R366): the strand is rolled back and resumes at its head. -/
def trapAtIssue (s : State) (k : Nat) (w : Wave) (f : Fail) : State :=
  takeTrap s k w.rollback ⟨f.cause, f.sub, 0, f.thr, w.st.pc, w.head.pc, eaddrOf f⟩

/-- A failure of a queued entry (R125, R182): the rest is already the residual queue; the head is that of step 2. -/
def trapAtPerform (s : State) (k : Nat) (w : Wave) (epc : DWord) (f : Fail) : State :=
  takeTrap s k w.rollback ⟨f.cause, f.sub, 1, f.thr, epc, w.head.pc, eaddrOf f⟩

/-- A failure at registration or a withdrawal at the quiescence limit (R291, R354): the wave resumes at its VIGIL. -/
def trapAtVigil (s : State) (k : Nat) (w : Wave) (f : Fail) (vpc : DWord) : State :=
  takeTrap s k { w.rollback with be := none, residual := [], wait := .none } ⟨f.cause, f.sub, 2, none, vpc, vpc, eaddrOf f⟩

/-- A trap with no instruction that caused it (R184). -/
def trapNoCause (s : State) (k : Nat) (w : Wave) (cause sub : Nat) : State :=
  takeTrap s k w.rollback ⟨cause, sub, 3, none, w.head.pc, w.head.pc, 0⟩

/-- The state that ERET restores from FRAME (R375), before the residual queue is performed; AIV is not among it, and the chain whose flags
are kept is again the interrupted one (R239). -/
def eretRestore (w : Wave) (skip drop : Bool) : Wave :=
  match w.frame with
  | none => w
  | some f =>
    let st := { f with pl1 := false, pc := w.eres, aiv := w.st.aiv }
    let rq := if drop then [] else if skip then w.fresidual.drop 1 else w.fresidual
    ({ w with
      frame := none, st := st, head := st, residual := rq, be := w.fbe, fresidual := [], fbe := none, queue := []
      mflags := w.fmflags, fmflags := 0, parity := 0, farRead := [], wait := if rq = [] && w.fbe.isNone then .none else .boundary } : Wave).reload

end Sys2Proof.Machine
end

