-- ==== Sys2Proof/Machine/Lsu.lean ====
section
/-! DEFINITION. The load-store unit: the checks at performance of one thread's access (spec/06 R125), the race detector
(spec/15 R325 to R328), the L1 and the private lines (spec/05 R96 to R101), loads and stores of a list of threads
(spec/06 R127, R130), L2 eviction (spec/23 R440) and layout records (spec/05 R112 to R115). -/
namespace Sys2Proof.Machine

/-- One thread's access: the thread, its address, its length in bytes. -/
structure Req where
  thr : Nat
  va : Nat
  n : Nat
  deriving DecidableEq, Repr

/-- The sectors, by virtual address, that an access reaches (R126). -/
def sectorsOf (va n : Nat) : List Nat := (partsOf va n).map fun p => p.1 / 48

/-- One part of an access: its address, its length, its place. -/
structure Part where
  va : Nat
  n : Nat
  p : Place
  deriving DecidableEq, Repr

/-- The places of an access's parts, translated in the state `tr` as it stands when the access begins (R85, R87). -/
def placeParts (tr : State) (a : Agent) (ctx : Nat) (acc : Acc) : List (Nat × Nat) → Except Fail (List Part)
  | [] => .ok []
  | (va, n) :: rest =>
    match xlate tr a ctx va acc with
    | .error e => .error (pageFail e va)
    | .ok p => match placeParts tr a ctx acc rest with
      | .error f => .error f
      | .ok more => .ok (⟨va, n, p⟩ :: more)

/-- A private sector that a part of a store fills from its home slice (R101) and that is uncorrectable there (R70). -/
def fillBad (s : State) (core : Nat) (x : Part) : Bool :=
  ptePriv x.p.pte && x.n < 48 && (tget (s.core core).priv (x.p.pa / 48)).isNone && uncorrectable s x.p.pa

/-- A part of a store that cannot be performed (R440): its private fill, or a vigil entry of its word, is uncorrectable. -/
def writeBad (s : State) (core : Nat) (x : Part) : Bool :=
  fillBad s core x || (!ptePriv x.p.pte && vigilErr s (.mem x.p.pa) x.n)

/-- One thread's access with the checks of R83, R105 and R118: the parts' places. `locks` says whether R118 names the instruction. Of
checks of different causes that one access fails the page fault comes first, then the seal, the range lock, the soft error and the race:
DEDUCED (log 13). -/
def accessParts (tr s : State) (w : Wave) (acc : Acc) (locks : Bool) (q : Req) : Except Fail (List Part) :=
  let write := acc = .store || acc = .atomic
  match placeParts tr (.lsu w.core) w.ctx acc (partsOf q.va q.n) with
  | .error f => .error (f.at q.thr)
  | .ok ps =>
    if write && sealedBy s w.ctx q.va q.n then .error ⟨6, 1, some q.thr, some (BitVec.ofNat 64 q.va)⟩
    else match (if locks then lockFail s w.ctx (dieOfCore w.core) q.va q.n write else none) with
      | some n => .error ⟨9, n, some q.thr, some (BitVec.ofNat 64 q.va)⟩
      | none => match (if write then ps.find? (writeBad s w.core) else none) with
        | some x => .error ⟨26, 3, some q.thr, some (BitVec.ofNat 64 x.va)⟩
        | none => .ok ps

/-- Whether one thread's access fails those checks. -/
def accessFail (tr s : State) (w : Wave) (acc : Acc) (locks : Bool) (q : Req) : Option Fail :=
  match accessParts tr s w acc locks q with
  | .error f => some f
  | .ok _ => none

/-! The race detector. -/

def raceOn (s : State) (ctx : Nat) : Bool := (s.ctxReg ctx 0x4A).getLsbD 0

/-- A thread's tag: BLK and WID as 23 bits, and its kind (R326, R327). -/
def raceTag (s : State) (w : Wave) (t : Nat) : Nat × Nat :=
  let kind := match tget w.born t with
    | none => 0
    | some x => if x.taper then 1 else 2
  let blk := ((tget s.blocks w.block).map Block.linear).getD 0
  (blk % 2 ^ 18 * 32 + (if kind = 0 then w.wid % 32 else 0), kind)

/-- A shadow access or a log write faulted: ERR is set and EN cleared (R325). -/
def raceErr (s : State) (ctx : Nat) : State :=
  s.setCtxReg ctx 0x4A ((s.ctxReg ctx 0x4A ||| 8) &&& ~~~1)

/-- Where the shadow record of a sector lies, if its page, by the leaf that the access itself used, is watched (R325, R327). -/
def shadowAt (s : State) (ctx va pte : Nat) : Option Nat :=
  if pteRsh pte && !ptePriv pte then some ((s.ctxReg ctx 0x4B).toNat % 2 ^ 57 + va / 48 * 8) else none

/-- The place of a shadow record; a failed translation, or an uncorrectable record, is a fault of the shadow access (R325, R440). -/
def shadowPlace (s : State) (g : Agent) (ctx a : Nat) (acc : Acc) : Option Place :=
  match xlate s g ctx a acc with
  | .error _ => none
  | .ok p => if uncorrectable s p.pa then none else some p

/-- The sectors of an access with the leaves that it used. -/
def partLeaves (ps : List Part) : List (Nat × Nat) := ps.map fun x => (x.va, x.p.pte)

/-- What the detector answers for one sector. -/
inductive RaceRes where
  | clean
  | fault
  | race (record : Nat)

/-- R327 on one sector: `scp` is the scope of an atomic or ordered access. -/
def raceSector (s : State) (w : Wave) (scp : Option Nat) (t : Nat) (x : Nat × Nat) : RaceRes :=
  match shadowAt s w.ctx x.1 x.2 with
  | none => .clean
  | some a =>
    match shadowPlace s (.core w.core) w.ctx a .load with
    | none => .fault
    | some p =>
      let r := leNat (memRead s.mem p.pa 8)
      let tag := raceTag s w t
      let age := (w.st.aiv.toNat + 2 ^ 24 - bitsOf r 39 16) % 2 ^ 24
      let ordered := bitsOf r 12 12 = 1 || bitsOf r 15 13 ≠ 0
      let both := match scp with
        | none => false
        | some n => ordered && n ≥ bitsOf r 15 13
      if bitsOf r 63 63 = 0 || (bitsOf r 62 40, bitsOf r 11 10) = tag || (1 ≤ age && age < 2 ^ 23) || both then .clean
      else .race r

/-- The first conflict of one thread's access, by its sectors, each with the leaf that the access used. -/
def raceScan (s : State) (w : Wave) (scp : Option Nat) (t : Nat) (ps : List (Nat × Nat)) : RaceRes :=
  ps.foldl (fun r x => match r with
    | .clean => raceSector s w scp t x
    | r => r) .clean

/-- What the reads of the shadow records of an access leave in the slices and the translation caches (R86, R93). -/
def raceTouch (s : State) (w : Wave) (ps : List (Nat × Nat)) : State :=
  ps.foldl (fun s x => match (shadowAt s w.ctx x.1 x.2).bind fun a => (shadowPlace s (.core w.core) w.ctx a .load).map fun p => (a, p) with
    | none => s
    | some (a, p) => useRead s (.core w.core) w.ctx a p) s

/-- The log record of R328. -/
def raceRecord (s : State) (w : Wave) (at' write : Bool) (q : Req) (r : Nat) : Nat :=
  let tag := raceTag s w q.thr
  q.va % 2 ^ 57 + tag.1 * 2 ^ 64 + bitsOf r 62 40 * 2 ^ 87 + (if write then 2 ^ 110 else 0) + (if at' then 2 ^ 111 else 0) +
    bitsOf r 15 13 * 2 ^ 112 + bitsOf r 11 10 * 2 ^ 115 + tag.2 * 2 ^ 117

/-- A log record written (R328); OVF when the log is full. -/
def raceLog (s : State) (g : Agent) (ctx rec : Nat) : State :=
  if !raceOn s ctx then s
  else
    let c := (s.ctxReg ctx 0x4D).toNat
    let head := c / 2 ^ 32
    let size := c % 2 ^ 32
    if head = size then s.setCtxReg ctx 0x4A (s.ctxReg ctx 0x4A ||| 4)
    else match xlate s g ctx ((s.ctxReg ctx 0x4C).toNat % 2 ^ 57 + 16 * head) .store with
      | .error _ => raceErr s ctx
      | .ok p =>
        (homeWrite s ctx p.pa (leBytes 16 rec) (pteCmp p.pte)).setCtxReg ctx 0x4D (BitVec.ofNat 64 ((head + 1) % 2 ^ 32 * 2 ^ 32 + size))

/-- The check of one thread's access (R327, R328): a trap under MODE 0, a log record under MODE 1. -/
def raceCheck (s : State) (w : Wave) (at' write : Bool) (scp : Option Nat) (q : Req) (ps : List (Nat × Nat)) :
    Except Fail State :=
  if !raceOn s w.ctx then .ok s
  else match raceScan s w scp q.thr ps with
    | .clean => .ok (raceTouch s w ps)
    | .fault => .ok (raceErr s w.ctx)
    | .race r =>
      if (s.ctxReg w.ctx 0x4A).getLsbD 1 then .ok (raceLog (raceTouch s w ps) (.core w.core) w.ctx (raceRecord s w at' write q r))
      else .error ⟨21, if write then 2 else 1, some q.thr, some (BitVec.ofNat 64 q.va)⟩

/-- The shadow records of the sectors of an access, each with the leaf that the access used, set: by a thread's write, or with V cleared
by an engine or patch write (R327). -/
def shadowPut (s : State) (g : Agent) (ctx : Nat) (sectors : List (Nat × Nat)) (f : Nat → Nat) : State :=
  if !raceOn s ctx then s
  else sectors.foldl (fun s x =>
    if !raceOn s ctx then s
    else match shadowAt s ctx x.1 x.2 with
      | none => s
      | some a => match shadowPlace s g ctx a .atomic with
        | none => raceErr s ctx
        | some q => homeWrite (useXlat s g ctx a q.x) ctx q.pa (leBytes 8 (f (leNat (memRead s.mem q.pa 8)))) (pteCmp q.pte)) s

def raceWrote (s : State) (w : Wave) (at' : Bool) (scp t : Nat) (ps : List (Nat × Nat)) : State :=
  let tag := raceTag s w t
  let sync := ((tget s.ctxs w.ctx).map fun c => c.csync.toNat).getD 0
  shadowPut s (.core w.core) w.ctx ps fun _ =>
    2 ^ 63 + tag.1 * 2 ^ 40 + sync * 2 ^ 16 + scp * 2 ^ 13 + (if at' then 2 ^ 12 else 0) + tag.2 * 2 ^ 10

/-- The records of the sectors that an engine or the patch engine has written, V cleared (R327); `pte` is the leaf that the write used. -/
def raceCleared (s : State) (g : Agent) (ctx va n pte : Nat) : State :=
  shadowPut s g ctx ((partsOf va n).map fun p => (p.1, pte)) fun r => r % 2 ^ 63

/-- A release of the context (R326). -/
def raceRelease (s : State) (ctx : Nat) : State :=
  if raceOn s ctx then s.modCtx ctx fun c => { c with csync := c.csync + 1 } else s

/-- An acquire of the wave for the race detector (R326): AIV, in the registers and, at a boundary, in the head record. -/
def raceAcquire (s : State) (k : Nat) (queued : Bool) : State :=
  match s.wave k with
  | none => s
  | some w =>
    let v := ((tget s.ctxs w.ctx).map Ctx.csync).getD 0
    s.setWave k { w with st := { w.st with aiv := v }, head := if queued then { w.head with aiv := v } else w.head }

/-! Ordering (R314 to R317). -/

/-- A release of a wave at a scope: its sent writes come before it. -/
def releaseAt (s : State) (k : Nat) (w : Wave) (scope : Nat) : State := raceRelease (releaseSent s k scope) w.ctx

/-- The early reads of a wave that a test names forgotten. -/
def forgetEarly (s : State) (p : Early → Bool) : State := { s with early := s.early.filter fun x => !p x }

/-- An acquire of a wave at a scope: what a release ordered is performed, and no later read may use an earlier one's place in the order,
those of UO pages apart. -/
def acquireAt (s : State) (k core scope : Nat) (queued : Bool) : State :=
  raceAcquire (forgetEarly (acquireSent s core scope) fun x => x.wave = k && !x.uo) k queued

/-! L2 eviction. -/

/-- One sector leaves its slice (R93); where its die's poison list has no room for it, its context is halted (R440). -/
def evictL2 (s : State) (sector : Nat) : State :=
  match evictSector s sector with
  | some s1 => s1
  | none =>
    let ctx := ((l2At s sector).map L2Sector.ctx).getD 0
    let s1 := l2Drop s sector
    haltCtx ({ s1 with errs := s1.errs.filter fun l => l ≠ ErrLoc.l2 sector }.notify ctx 26 (BitVec.ofNat 64 (3 * 2 ^ 52)) []) ctx

/-- Which sector a slice evicts, and when, is not defined (R93): a free choice among those present, the lines that carry an overflow list
apart (R280). -/
def l2Turnover (s : State) : State :=
  if s.l2 = [] then s
  else if s.fbool (fkey 7 0) then
    let cands := (s.l2.filter fun l => !(pinnedLines s (homeSlice (192 * l.1))).contains l.1).flatMap fun l => l.2.sects.map fun x => 4 * l.1 + x.1
    match cands[(s.fv (fkey 7 1)).toNat % (cands.length + 1)]? with
    | none => s
    | some x => evictL2 s x
  else s

/-! The L1. -/

/-- A private sector leaves its L1 (R101): a dirty one is written to its home slice. -/
def privDrop (s : State) (core sector : Nat) : State :=
  let c := s.core core
  match tget c.priv sector with
  | none => s
  | some x =>
    let s1 := s.setCore core { c with priv := terase c.priv sector }
    if x.dirty then homeWrite s1 (((s.wave x.wave).map Wave.ctx).getD 0) (48 * sector) x.bytes x.cmp else s1

/-- The lines that a core's L1 holds (R96). -/
def l1Lines (c : Core) : List Nat := ((c.l1.map Prod.fst ++ c.priv.map Prod.fst).map fun x => x / 4).eraseDups

/-- One line evicted from an L1. -/
def dropLine (s : State) (core line : Nat) : State :=
  let s1 := [0, 1, 2, 3].foldl (fun s i => privDrop s core (4 * line + i)) s
  let c := s1.core core
  s1.setCore core { c with l1 := c.l1.filter fun e => e.1 / 4 ≠ line }

/-- Room kept in an L1 of L × 256 lines (R96) after one has been filled; which line goes is not defined: a free choice among the
others. -/
def l1Trim (s : State) (core line : Nat) : State :=
  let c := s.core core
  let room := c.splitL * 256
  if c.l1.length + c.priv.length ≤ room then s
  else
    let lines := l1Lines c
    if lines.length ≤ room then s
    else
      let others := lines.filter (· ≠ line)
      if room = 0 then lines.foldl (fun s x => dropLine s core x) s
      else match others[(s.fv (fkey 30 core)).toNat % others.length]? with
        | none => s
        | some x => dropLine s core x

/-- A private sector's copy, filled from the home slice when it is absent (R101). -/
def privCopy (s : State) (core wave : Nat) (p : Place) : Except Unit (State × PrivSector) :=
  match tget (s.core core).priv (p.pa / 48) with
  | some x => .ok (s, x)
  | none =>
    if uncorrectable s p.pa then .error ()
    else
      let x : PrivSector := ⟨wave, false, pteCmp p.pte, memRead s.mem (p.pa / 48 * 48) 48⟩
      let s1 := homeFill s (pteCmp p.pte) p.pa
      let c := s1.core core
      .ok (l1Trim (s1.setCore core { c with priv := tset c.priv (p.pa / 48) x }) core (p.pa / 192), x)

/-- An eviction from the write-back L1 (R101): which sectors and when is not defined. -/
def privTurnover (s : State) (core : Nat) : State :=
  let c := s.core core
  if c.priv = [] then s
  else if s.fbool (fkey 8 core) then
    match c.priv[(s.fv (fkey 8 (core + 1024))).toNat % (c.priv.length + 1)]? with
    | none => s
    | some (k, _) => privDrop s core k
  else s

/-- What the L1 and the L2 evict when is not defined (R93, R101): after an access, a free choice. -/
def turnover (s : State) (core : Nat) : State := l2Turnover (privTurnover s core)

/-- A wave's own read of bytes at a home slice: its sent writes to them first (R314); and what an early read of the sector found, where
the read may use it, which a read that goes through the L1 may not (R98). -/
def ownRead (s : State) (k : Nat) (fresh : Bool) (p : Place) (n : Nat) : State × Option (List Byte) :=
  let note := s.early.find? fun x => x.wave = k && x.sector = p.pa / 48
  let s1 := forgetEarly (flushOwn s k p.pa n) fun x => x.wave = k && x.sector = p.pa / 48
  (s1, if fresh && pteOrd p.pte ≠ 0 then note.map Early.bytes else none)

/-- Bytes of one sector read by a core's load-store unit for wave `k` (R96 to R99, R101): the private copy, the home slice, or the L1's
copy; whether a copy is still there is not defined, and of a sealed range it holds what home does (R99). `.error` is an uncorrectable
error. -/
def loadPart (s : State) (k : Nat) (w : Wave) (fresh : Bool) (x : Part) : Except Unit (State × List Byte) :=
  let p := x.p
  let off := p.pa % 48
  if ptePriv p.pte then
    match privCopy s w.core (((frameOwner s w.ctx x.va).map Prod.fst).getD 0) p with
    | .error _ => .error ()
    | .ok (s1, y) => .ok (s1, (y.bytes.drop off).take x.n)
  else if fresh then
    let (s1, note) := ownRead s k fresh p x.n
    match note with
    | some bs => .ok (s1, (bs.drop off).take x.n)
    | none => if uncorrectable s1 p.pa then .error () else .ok (homeFill s1 (pteCmp p.pte) p.pa, memRead s1.mem p.pa x.n)
  else
    let home : Except Unit (State × List Byte) :=
      let s1 := (ownRead s k false p x.n).1
      if uncorrectable s1 p.pa then .error ()
      else
        let s2 := homeFill s1 (pteCmp p.pte) p.pa
        let c := s2.core w.core
        .ok (l1Trim (s2.setCore w.core { c with l1 := tset c.l1 (p.pa / 48) (memRead s2.mem (p.pa / 48 * 48) 48) }) w.core (p.pa / 192),
          memRead s2.mem p.pa x.n)
    match tget (s.core w.core).l1 (p.pa / 48) with
    | none => home
    | some bs =>
      if pteSeal p.pte || sealedBy s w.ctx x.va x.n || (bs = memRead s.mem (p.pa / 48 * 48) 48 && !uncorrectable s p.pa) then home
      else if s.fbool (fkey 9 (p.pa / 48)) then .ok (s, (bs.drop off).take x.n) else home

/-- The parts of one thread's load, its checks already passed. -/
def loadParts (s : State) (k : Nat) (w : Wave) (fresh : Bool) (t : Nat) : List Part → Except Fail (State × List Byte)
  | [] => .ok (s, [])
  | x :: rest =>
    match loadPart (useXlat s (.lsu w.core) w.ctx x.va x.p.x) k w fresh x with
    | .error _ => .error ⟨26, 3, some t, some (BitVec.ofNat 64 x.va)⟩
    | .ok (s1, bs) =>
      match loadParts s1 k w fresh t rest with
      | .error f => .error f
      | .ok (s2, more) => .ok (s2, bs ++ more)

/-- How a load is ordered and checked: `fresh` under R130, `locks` and `race` by R118 and R327, the scope of an
ordered load. -/
structure LoadMode where
  fresh : Bool
  locks : Bool
  race : Bool
  scp : Option Nat

/-- One thread's load: its checks, then its bytes (R85, R125). -/
def loadOne (tr s : State) (k : Nat) (w : Wave) (m : LoadMode) (q : Req) : Except Fail (State × List Byte) :=
  match accessParts tr s w .load m.locks q with
  | .error f => .error f
  | .ok ps =>
    match (if m.race then raceCheck s w false false m.scp q (partLeaves ps) else .ok s) with
    | .error f => .error f
    | .ok s1 => loadParts s1 k w m.fresh q.thr ps

/-- The loads of the threads, ascending; the first failure ends them all (R84, R85). -/
def loadLanes (tr s : State) (k : Nat) (w : Wave) (m : LoadMode) : List Req → Except Fail (State × List (Nat × List Byte))
  | [] => .ok (s, [])
  | q :: rest =>
    match loadOne tr s k w m q with
    | .error f => .error f
    | .ok (s1, bs) =>
      match loadLanes tr s1 k w m rest with
      | .error f => .error f
      | .ok (s2, more) => .ok (s2, (q.thr, bs) :: more)

/-- Bytes of one part stored by a core's load-store unit for wave `k`: into the private copy, or at the home slice (R96, R101). A write
to an RC or UO page may also be only sent: when it is performed is not defined (R312, R314). -/
def storePart (s : State) (k : Nat) (w : Wave) (x : Part) (bs : List Byte) : State :=
  let p := x.p
  let s := useXlat s (.lsu w.core) w.ctx x.va p.x
  if ptePriv p.pte then
    let s := if bs.length < 48 && (tget (s.core w.core).priv (p.pa / 48)).isNone then homeFill s (pteCmp p.pte) p.pa else s
    let c := s.core w.core
    let old := match tget c.priv (p.pa / 48) with
      | some y => y.bytes
      | none => memRead s.mem (p.pa / 48 * 48) 48
    let off := p.pa % 48
    let new := old.take off ++ bs ++ old.drop (off + bs.length)
    l1Trim (s.setCore w.core { c with
      priv := tset c.priv (p.pa / 48) ⟨((frameOwner s w.ctx x.va).map Prod.fst).getD 0, true, pteCmp p.pte, new⟩ }) w.core (p.pa / 192)
  else
    let s1 := forgetEarly s fun y => y.wave = k && y.sector = p.pa / 48
    if pteOrd p.pte ≠ 0 && s.fbool (fkey 29 x.va) then
      { s1 with sent := s1.sent ++ [⟨k, w.ctx, p.pa, bs, none, pteOrd p.pte = 2, pteCmp p.pte, 0⟩] }
    else homeWrite (flushOwn s1 k p.pa bs.length) w.ctx p.pa bs (pteCmp p.pte)

/-- One thread's bytes, cut at sector boundaries (R127). -/
def storeOne (s : State) (k : Nat) (w : Wave) (l : LaneBytes) (ps : List Part) : State :=
  ps.foldl (fun s x => storePart s k w x ((l.bytes.drop (x.va - l.va)).take x.n)) s

/-- The checks of every thread's store, before any byte is written (R85): the places of each. -/
def storeChecks (tr s : State) (w : Wave) (locks race : Bool) (scp : Option Nat) :
    List LaneBytes → Except Fail (State × List (LaneBytes × List Part))
  | [] => .ok (s, [])
  | l :: rest =>
    match accessParts tr s w .store locks ⟨l.thr, l.va, l.bytes.length⟩ with
    | .error f => .error f
    | .ok ps =>
      match (if race then raceCheck s w false true scp ⟨l.thr, l.va, l.bytes.length⟩ (partLeaves ps) else .ok s) with
      | .error f => .error f
      | .ok s1 => match storeChecks tr s1 w locks race scp rest with
        | .error f => .error f
        | .ok (s2, more) => .ok (s2, (l, ps) :: more)

/-- Whether some part of an access lies on a page on which an acquire or a release orders (R315). -/
def ordersOn (l : List (LaneBytes × List Part)) : Bool := l.any fun e => e.2.any fun x => pteOrd x.p.pte ≠ 2

/-- Checked stores written one after another, a release first (R127, R131, R317). -/
def writeLanes (s : State) (k : Nat) (w : Wave) (race rel : Bool) (scope : Nat) (l : List (LaneBytes × List Part)) : State :=
  let s1 := if rel && l ≠ [] then (if ordersOn l then releaseAt s k w scope else raceRelease s w.ctx) else s
  l.foldl (fun s e =>
    let s' := storeOne s k w e.1 e.2
    if race then raceWrote s' w false (if rel then scope else 0) e.1.thr (partLeaves e.2) else s') s1

/-- ST and STL at performance: all checked, then written in ascending thread order (R85, R127). -/
def storeLanes (s : State) (k : Nat) (w : Wave) (locks race rel : Bool) (scope : Nat) (ls : List LaneBytes) : Except Fail State :=
  match storeChecks s s w locks race (if rel then some scope else none) ls with
  | .error f => .error f
  | .ok (s1, l) => .ok (writeLanes s1 k w race rel scope l)

/-- STP: which of two threads that reach one byte is written last is not defined (R114), a free choice. -/
def storeScattered (s : State) (k : Nat) (w : Wave) (ls : List LaneBytes) : Except Fail State :=
  match storeChecks s s w true true none ls with
  | .error f => .error f
  | .ok (s1, l) =>
    let at' (e : LaneBytes × List Part) : Nat := (s1.fv (fkey 31 e.1.thr)).toNat
    .ok (writeLanes s1 k w true false 0 (sortBy (fun a b => decide (at' a ≤ at' b)) l))

/-! Layout records. -/

/-- Fields of a record (R112). -/
def layBase (r : Nat) : Nat := bitsOf r 56 0
def layFmt (r : Nat) : Nat := bitsOf r 60 57
def layRank (r : Nat) : Nat := bitsOf r 63 61
def layPadv (r : Nat) : Nat := bitsOf r 79 64
def layPadk (r : Nat) : Nat := bitsOf r 83 80
def layExt (r k : Nat) : Nat := bitsOf r (111 + 28 * k) (84 + 28 * k)
def layStd (r k : Nat) : Int := (BitVec.ofNat 32 (bitsOf r (255 + 32 * k) (224 + 32 * k))).toInt

/-- ES by FMT (R112). -/
def layEs (fmt : Nat) : Nat :=
  match fmt with
  | 0 | 1 | 5 => 2
  | 2 | 6 => 4
  | 3 | 7 => 8
  | 4 => 1
  | _ => 16

/-- A malformed record (R113). -/
def layBad (r : Nat) : Bool :=
  let f := layFmt r
  let k := layPadk r
  layRank r > 4 || f = 8 || k > 4 ||
  ((List.range 5).any fun i =>
    if i ≤ layRank r then layExt r i = 0 else layExt r i ≠ 0 || layStd r i ≠ 0) ||
  layBase r % layEs f ≠ 0 || (k = 4 && 4 ≤ f && f ≤ 7) || (k ≠ 0 && f ≥ 9) || (k = 1 && f = 4 && layPadv r ≥ 256)

/-- The address of an in-bounds element (R114), computed without wrapping; none when out of bounds. -/
def layElem (r : Nat) (coord : List Int) : Option Int :=
  let i (k : Nat) : Int := (coord[k]?).getD 0
  let inb := (List.range 5).all fun k =>
    if k ≤ layRank r then 0 ≤ i k && i k < (layExt r k : Int) else i k = 0
  if inb then
    some ((layBase r : Int) + (layEs (layFmt r) : Int) * ((List.range 5).foldl (fun a k => a + i k * layStd r k) (0 : Int)))
  else none

/-- The padding value's bytes (R112, R113). -/
def layPad (r : Nat) : List Byte :=
  let f := layFmt r
  let es := layEs f
  let v := layPadv r
  let fp (code : Nat) : Nat :=
    match layPadk r with
    | 1 => match code with
      | 0 => v * 65536
      | 1 => widen32 (v * 65536)
      | _ => v
    | 2 => (roundVal code 0 (.inf false)).1
    | 3 => (roundVal code 0 (.inf true)).1
    | 4 => defaultNaN code
    | _ => 0
  let bits : Nat := match f with
    | 0 => fp 2
    | 1 => fp 3
    | 2 => fp 0
    | 3 => fp 1
    | 4 | 5 | 6 | 7 => match layPadk r with
      | 1 => wrap (8 * es) (if f ≥ 6 then sgn 16 v else v)
      | 2 => 2 ^ (8 * es - 1) - 1
      | 3 => 2 ^ (8 * es - 1)
      | _ => 0
    | _ => 0
  leBytes es bits

/-- A handle checked against LAYLIM and LAYBASE, and its record's address (R114, R115). -/
def layAddr (s : State) (ctx h : Nat) : Except Fail Nat :=
  let base := (s.ctxReg ctx 0x46).toNat
  if h ≥ (s.ctxReg ctx 0x47).toNat % 2 ^ 32 || base % 192 ≠ 0 then .error ⟨8, 1, none, none⟩
  else .ok (base + 48 * h)

/-- A record resolved by a core's layout cache (R115): a hit, or a read at the home slice that fills it; the victim among 64
is not defined. -/
def layResolve (s : State) (core ctx h : Nat) : Except Fail (State × Nat) :=
  match layAddr s ctx h with
  | .error f => .error f
  | .ok va =>
    let c := s.core core
    match c.layouts.find? fun e => e.ctx = ctx && e.handle = h with
    | some e => .ok (s, e.record)
    | none =>
      match xlate s (.core core) ctx va .load with
      | .error n => .error (pageFail n va)
      | .ok p =>
        if uncorrectable s p.pa then .error ⟨26, 3, none, some (BitVec.ofNat 64 va)⟩
        else
          let r := leNat (memRead s.mem p.pa 48)
          let keep := if c.layouts.length < 64 then c.layouts else c.layouts.eraseIdx ((s.fv (fkey 10 core)).toNat % c.layouts.length)
          let s1 := useRead s (.core core) ctx va p
          .ok (s1.setCore core { s1.core core with layouts := keep ++ [⟨ctx, h, r⟩] }, r)

/-- A record resolved for use: a malformed one is layout fault 2 (R115). -/
def layUse (s : State) (core ctx h : Nat) : Except Fail (State × Nat) :=
  match layResolve s core ctx h with
  | .error f => .error f
  | .ok (s1, r) => if layBad r then .error ⟨8, 2, none, none⟩ else .ok (s1, r)

/-- A handle invalidated in every layout cache of the package (R115). -/
def layInvalAll (s : State) (ctx h : Nat) : State :=
  { s with cores := tmap s.cores fun c => { c with layouts := c.layouts.filter fun e => !(e.ctx = ctx && e.handle = h) } }

/-- An element's address as a number, or the page fault of a non-canonical one (R114). -/
def elemAddr (a : Int) (es : Nat) : Except Fail Nat :=
  if a < 0 || a + es > vlim then .error ⟨3, 1, none, some (BitVec.ofInt 64 (if a < 0 || a ≥ vlim then a else vlim))⟩ else .ok a.toNat

end Sys2Proof.Machine
end

