-- ==== Sys2Proof/Machine/QMem.lean ====
section
/-! DEFINITION. Queued memory entries at performance: ST, STL, STP, TST, TFREE, LAYSET, SEAL and UNSEAL (spec/06 R130,
R136, R137, R139, R141, R143, R145, spec/05 R102 to R105). -/
namespace Sys2Proof.Machine

/-- What performing one entry does: it is done, it fails at performance (R125; `faultIn` keeps what a latch
recorded), or its boundary waits, with what has
already been accepted, or with the rest of the operation. -/
inductive Done where
  | done (s : State)
  | fault (f : Fail)
  | faultIn (s : State) (f : Fail)
  | wait (s : State) (stage : Option Nat) (why : Wait)
  | requeue (s : State) (op : QOp) (why : Wait)

/-- A result or a failure. -/
def Done.ofExcept (r : Except Fail State) : Done :=
  match r with
  | .ok s => .done s
  | .error f => .fault f

/-- Whether a wave has queued matrix steps (R321). -/
def hasSteps (s : State) (k : Nat) (w : Wave) : Bool := (s.core w.core).steps.any fun st => st.members.contains k

/-- A release at `.core` or wider waits for the wave's queued matrix steps (R321). -/
def releaseWaits (s : State) (k : Nat) (w : Wave) (rel : Bool) (scope : Nat) : Bool := rel && scope ≥ 2 && hasSteps s k w

/-- ST, and STL, whose accesses are those of an ST (R138). -/
def performStore (s : State) (k : Nat) (w : Wave) (rel : Bool) (scope : Nat) (ls : List LaneBytes) : Done :=
  if releaseWaits s k w rel scope then .wait s none .steps
  else match storeLanes s k w true true rel scope ls with
    | .error f => .fault f
    | .ok s1 => .done (turnover s1 w.core)

/-- Element addresses of an STP (R114, R136): each thread's record is resolved again at performance. -/
def stpLanes (s : State) (w : Wave) : List LaneCoord → Except Fail (State × List LaneBytes)
  | [] => .ok (s, [])
  | l :: rest =>
    match layUse s w.core w.ctx l.handle with
    | .error f => .error (f.at l.thr)
    | .ok (s1, r) =>
      match layElem r l.coord with
      | none => .error ⟨8, 3, some l.thr, none⟩
      | some a =>
        match elemAddr a (layEs (layFmt r)) with
        | .error f => .error (f.at l.thr)
        | .ok va =>
          match stpLanes s1 w rest with
          | .error f => .error f
          | .ok (s2, ls) => .ok (s2, ⟨l.thr, va, (l.bytes ++ List.replicate 16 0).take (layEs (layFmt r))⟩ :: ls)

def performStp (s : State) (k : Nat) (w : Wave) (ls : List LaneCoord) : Done :=
  match stpLanes s w ls with
  | .error f => .fault f
  | .ok (s1, bytes) =>
    match storeScattered s1 k w bytes with
    | .error f => .fault f
    | .ok s2 => .done (turnover s2 w.core)

/-- The first byte of a run of `n` bytes in a row of a tile, or the tile fault (R109, R139). -/
def tilePlace (s : State) (w : Wave) (h lvl row col n : Nat) (write : Bool) : Except Nat (Nat × Nat) :=
  match findTile s w.block h with
  | none => .error 1
  | some (id, t) =>
    let ew := ewBytes t.ew
    if t.lvl ≠ lvl then .error 3
    else if row ≥ t.rows || col ≥ t.cols || col * ew + n > t.cols * ew then .error 2
    else if t.bd ≠ 0 || (write && t.bs ≠ 0) then .error 4
    else .ok (id, (row * t.cols + col) * ew)

/-- TST: every thread checked, then written in ascending order (R127, R139). -/
def tstWrites (s : State) (w : Wave) (h lvl : Nat) : List (Nat × Nat × Nat × List Byte) → Except Fail (List (Nat × Nat × List Byte))
  | [] => .ok []
  | (t, row, col, bs) :: rest =>
    match tilePlace s w h lvl row col bs.length true with
    | .error n => .error ⟨7, n, some t, none⟩
    | .ok (id, off) =>
      match tstWrites s w h lvl rest with
      | .error f => .error f
      | .ok more => .ok ((id, off, bs) :: more)

def performTst (s : State) (w : Wave) (h lvl : Nat) (lanes : List (Nat × Nat × Nat × List Byte)) : Done :=
  match tstWrites s w h lvl lanes with
  | .error f => .fault f
  | .ok ws => .done (ws.foldl (fun s x => tileWrite s x.1 x.2.1 x.2.2) s)

/-- TFREE (R141, R273): the boundary waits while the tile is in use by an engine, or an MA tile by a queued step. -/
def performTfree (s : State) (w : Wave) (h lvl : Nat) : Done :=
  match findTile s w.block h with
  | none => .done s
  | some (id, t) =>
    if t.lvl ≠ lvl then .fault ⟨7, 3, none, none⟩
    else if t.bd ≠ 0 || t.bs ≠ 0 then .wait s none .boundary
    else if lvl = 2 && (s.core w.core).steps.any (fun st => st.block = w.block && matTile st.op = some h) then .wait s none .steps
    else .done (s.eraseTile id)

/-- A write of the wave that is performed at once, whatever its page: what it has sent of those bytes goes first. -/
def writeNow (s : State) (k : Nat) (w : Wave) (l : LaneBytes) (ps : List Part) : State :=
  ps.foldl (fun s x => flushOwn s k x.p.pa x.n) (storeOne s k w l ps)

/-- LAYSET (R143): counts as a store; one 48-byte write, then the handle leaves every layout cache, so the write has been performed. -/
def performLayset (s : State) (k : Nat) (w : Wave) (h : Nat) (record : List Byte) : Done :=
  match layAddr s w.ctx h with
  | .error f => .fault f
  | .ok va =>
    match accessParts s s w .store true ⟨0, va, 48⟩ with
    | .error f => .fault { f with thr := none }
    | .ok ps => .done (layInvalAll (writeNow s k w ⟨0, va, record⟩ ps) w.ctx h)

/-- The leaves for a page that a context may still be translated by: those in any cache, and the walk's (R86, R88). -/
def leavesFor (s : State) (ctx pn : Nat) : List Xlat :=
  (s.tlb.filterMap fun e => if e.maps ctx pn then some e.x else none) ++ (match walk s ctx pn with
    | .ok x => [x]
    | .error _ => [])

/-- Every L1 copy of the lines of a range of the context dropped, private lines apart (R103). -/
def sealInval (s : State) (ctx base lines : Nat) : State :=
  let p0 := pageNo base
  let top := base + 192 * lines
  let n := pageNo (top - 1) + 1 - p0
  let hit (sector : Nat) : Bool := (List.range n).any fun i => (leavesFor s ctx (p0 + i)).any fun x =>
    let va := (p0 + i) * pageBytes
    let pa := physBase (pteTier x.pte) + (ptePpn x.pte + (p0 + i) % leafPages x.level) * pageBytes
    (pa + (max base va - va)) / 48 ≤ sector && sector < (pa + (min top (va + pageBytes) - va)) / 48
  { s with cores := tmap s.cores fun c => { c with l1 := c.l1.filter fun e => !hit e.1 } }

/-- The status that SEAL would report (R145). -/
def sealStatus (s : State) (ctx base lines : Nat) : Nat :=
  if base % 192 ≠ 0 || lines = 0 || lines > 16777216 || base + 192 * lines > vlim then 3
  else if s.seals.contains ⟨ctx, base, lines⟩ then 0
  else if s.seals.length ≥ 64 then 1
  else if (s.seals.filter fun e => e.ctx = ctx).length ≥ 16 then 2
  else 0

/-- SEAL (R103, R145): the entry first, before which the context's sent writes are performed; the boundary then waits while a
destination range lock overlaps. -/
def performSeal (s : State) (k : Nat) (w : Wave) (e : QEntry) (base lines : Nat) (dst : Dst) (uni : Bool) : Done :=
  let st := sealStatus s w.ctx base lines
  let s1 :=
    if st = 0 && e.stage.isNone then
      let s := flushSent s fun x => x.ctx = w.ctx
      sealInval (if s.seals.contains ⟨w.ctx, base, lines⟩ then s else { s with seals := s.seals ++ [⟨w.ctx, base, lines⟩] })
        w.ctx base lines
    else s
  let held := s1.locks.any fun l => l.ctx = w.ctx && l.dst && l.lo ≤ (base + 192 * lines - 1) / 48 && base / 48 ≤ l.hi
  if (st = 0 || e.stage.isSome) && held then .wait s1 (some 1) .boundary
  else .done (s1.modWave k fun w => w.statusBoth uni dst e.act (BitVec.ofNat 64 (if e.stage.isSome then 0 else st)))

/-- UNSEAL (R104, R145). -/
def performUnseal (s : State) (k : Nat) (w : Wave) (e : QEntry) (base lines : Nat) (dst : Dst) (uni : Bool) : Done :=
  let st :=
    if base % 192 ≠ 0 || lines = 0 || lines > 16777216 || base + 192 * lines > vlim then 3
    else if s.seals.contains ⟨w.ctx, base, lines⟩ then 0 else 1
  let s1 := if st = 0 then { s with seals := s.seals.filter fun x => x ≠ ⟨w.ctx, base, lines⟩ } else s
  .done (s1.modWave k fun w => w.statusBoth uni dst e.act (BitVec.ofNat 64 st))

end Sys2Proof.Machine
end

