-- ==== Sys2Proof/Machine/QMatrix.lean ====
section
/-! DEFINITION. Queued matrix entries at performance: chains, single and gang steps, rendezvous latches, MZERO, MWR and MSCL
(spec/12 R252 to R274). -/
namespace Sys2Proof.Machine

/-- Waves of a mask (R254). -/
def maskCount (m : Word) : Nat := (threads m).length

/-- Gang size and position (R254). -/
def gangSize (st : WState) : Nat := if st.gmask = 0 then 1 else maskCount st.gmask
def gangPos (m : Word) (wid : Nat) : Nat := ((threads m).filter fun u => u < wid).length

/-- A tile of a role checked against R252: a fault as cause × 16 + sub-cause, or none. -/
def tileRole (s : State) (blk h : Nat) (ma : Bool) (rows cols bytes : Nat) : Option Nat :=
  match findTile s blk h with
  | none => some (7 * 16 + 1)
  | some (_, t) =>
    if (t.lvl = 2) ≠ ma || t.rows ≠ rows || t.cols ≠ cols || ewBytes t.ew ≠ bytes then some (17 * 16 + 6)
    else if !ma && t.bd ≠ 0 then some (7 * 16 + 4) else none

/-- Whether the tile of a handle holds an uncorrectable word, which the step that reads it as an operand meets (R365, R440). -/
def handleBad (s : State) (blk h : Nat) : Bool := ((findTile s blk h).map fun e => tileBad s e.1).getD false

/-- The tile checks of an MMA (R252, R268), in this order: DEDUCED (log 13). -/
def mmaTileFault (s : State) (blk g : Nat) (o : MmaOp) : Option Nat :=
  let k := faDepth o.fa
  match tileRole s blk o.tc true (32 * g) 32 (fcBytes o.fc) with
  | some f => some f
  | none =>
    match (if o.aT then tileRole s blk o.aTile false (32 * g) k (faBytes o.fa) else none) with
    | some f => some f
    | none =>
      match (if o.bT then tileRole s blk o.bTile false k 32 (faBytes o.fb) else none) with
      | some f => some f
      | none => if (o.aT && handleBad s blk o.aTile) || (o.bT && handleBad s blk o.bTile) then some (26 * 16 + 3) else none

/-- The tile checks of MRD, MWR, MSCL and MZERO (R269 to R272): `fc` and the row block where they apply. -/
def maTileFault (s : State) (blk h : Nat) (form : Option (Nat × Nat)) : Option Nat :=
  match findTile s blk h with
  | none => some (7 * 16 + 1)
  | some (_, t) =>
    let bad := match form with
      | none => false
      | some (fc, rc) => ewBytes t.ew ≠ fcBytes fc || 32 * rc ≥ t.rows
    if t.lvl ≠ 2 || bad then some (17 * 16 + 6) else none

def failCode (n : Nat) : Fail := ⟨n / 16, n % 16, none, none⟩

/-- A step put into the core's matrix queue, which holds 32 (R257); `handler` names the members whose handler performed its entry. -/
def queueStep (s : State) (w : Wave) (members handler : List Nat) (inChain ordered : Bool) (op : QOp) (rows : List MmaOp) : Option State :=
  let x := s.core w.core
  if x.steps.length ≥ 32 then none
  else
    some { s.setCore w.core { x with steps := x.steps ++ [⟨s.stepIds, w.block, members, handler, inChain, 0, ordered, op, rows⟩] } with
      stepIds := s.stepIds + 1 }

/-- Whether a step of this wave outside a chain is still queued: its boundary may not move on (R257). -/
def stepOpen (s : State) (k : Nat) (w : Wave) : Bool :=
  (s.core w.core).steps.any fun st => st.members.contains k && !st.inChain

/-- A single step: checked, queued, and outside a chain awaited when `awaited` (R257, R268). -/
def performStep (s : State) (k : Nat) (w : Wave) (e : QEntry) (fault : Option Nat) (chain ordered awaited : Bool)
    (rows : List MmaOp) : Done :=
  if e.stage.isSome then (if stepOpen s k w then .wait s e.stage .steps else .done s)
  else match fault with
    | some f => .fault (failCode f)
    | none =>
      match queueStep s w [k] (if w.st.pl1 then [k] else []) chain ordered e.op rows with
      | none => .wait s none .boundary
      | some s1 => if !chain && awaited then .wait s1 (some 1) .steps else .done s1

/-- The latch that a new arrival joins (R255): one whose members are failing takes no more. -/
def findLatch (s : State) (w : Wave) (mask : Word) (seq : BitVec 16) : Option Latch :=
  (s.core w.core).latches.find? fun l => l.block = w.block && l.mask = mask && l.seq = seq && l.failed.isNone

/-- The latch that records a waiting member, and whose fault, if any, it has not raised. -/
def ownLatch (s : State) (k : Nat) (w : Wave) (mask : Word) (seq : BitVec 16) : Option Latch :=
  (s.core w.core).latches.find? fun l => l.block = w.block && l.mask = mask && l.seq = seq &&
    (l.arrivals.any fun a => a.wave = k) && !l.done.contains k

/-- A latch of the wave's core replaced. -/
def putLatch (s : State) (w : Wave) (old new : Latch) : State :=
  let x := s.core w.core
  s.setCore w.core { x with latches := x.latches.erase old ++ [new] }

def dropLatch (s : State) (w : Wave) (l : Latch) : State :=
  let x := s.core w.core
  s.setCore w.core { x with latches := x.latches.erase l }

/-- The fields on which members must agree (R256). -/
def sameStep (a b : Arrival) : Bool :=
  let x := a.op
  let y := b.op
  x.tc = y.tc && x.aT = y.aT && x.bT = y.bT && x.acc = y.acc && x.fa = y.fa && x.fb = y.fb && x.fc = y.fc && x.rnd = y.rnd &&
  (!x.aT || x.aTile = y.aTile) && x.bTile = y.bTile && a.chain = b.chain && a.ord = b.ord

/-- A listed member that has ended without arriving (R256). -/
def memberGone (s : State) (w : Wave) (l : Latch) : Bool :=
  (threads l.mask).any fun u => !(l.arrivals.any fun a => ((s.wave a.wave).map Wave.wid) = some u) &&
    (s.waves.any fun e => e.2.block = w.block && !e.2.isBin && e.2.wid = u && e.2.wait = .ended)

/-- A complete latch compared and its joint step handed to the engine (R255, R256). -/
def latchComplete (s : State) (w : Wave) (l : Latch) : Done :=
  let g := maskCount l.mask
  let arr := sortBy (fun a b => decide (a.pos ≤ b.pos)) l.arrivals
  match arr with
  | [] => .wait s (some 1) .latch
  | a :: rest =>
    let fail := if rest.all (sameStep a) then mmaTileFault s w.block g a.op else some (17 * 16 + 7)
    match fail with
    | some f => .wait (putLatch s w l { l with failed := some f }) (some 1) .latch
    | none =>
      let det := s.isDet w
      match queueStep s w (arr.map Arrival.wave) ((arr.filter Arrival.pl1).map Arrival.wave) a.chain (a.ord || det) (.mma a.op a.chain a.ord) (arr.map Arrival.op) with
      | none => .wait s (some 1) .latch
      | some s1 => .wait (dropLatch s1 w l) (some 1) .steps

/-- A member raises its latch's fault; the latch is freed once every arrived member has (R256). -/
def latchFault (s : State) (k : Nat) (w : Wave) (l : Latch) (f : Nat) : Done :=
  let done := l.done ++ [k]
  .faultIn (if l.arrivals.all fun a => done.contains a.wave then dropLatch s w l else putLatch s w l { l with done := done }) (failCode f)

/-- A member's entry looked at again after its arrival, `seq` its step number: where no latch records it, its step has been handed
over. -/
def latchAgain (s : State) (k : Nat) (w : Wave) (mask : Word) (seq : BitVec 16) (chain : Bool) : Done :=
  match ownLatch s k w mask seq with
  | none => if !chain && stepOpen s k w then .wait s (some seq.toNat) .steps else .done s
  | some l =>
    match l.failed with
    | some f => latchFault s k w l f
    | none =>
      if l.arrivals.length < maskCount mask then .wait s (some seq.toNat) .latch
      else match latchComplete s w l with
        | .wait s1 _ why =>
          (match ownLatch s1 k w mask seq with
           | some l1 => (match l1.failed with
             | some f => latchFault s1 k w l1 f
             | none => .wait s1 (some seq.toNat) why)
           | none => if chain then .done s1 else .wait s1 (some seq.toNat) .steps)
        | d => d

/-- MMA at performance (R255 to R257, R268): alone, or arriving at its latch. -/
def performMma (s : State) (k : Nat) (w : Wave) (e : QEntry) (o : MmaOp) (chain ord : Bool) : Done :=
  let mask := o.mask
  let g := if mask = 0 then 1 else maskCount mask
  if g ≤ 1 then performStep s k w e (mmaTileFault s w.block 1 o) chain (ord || s.isDet w) true [o]
  else match e.stage with
    | some n => latchAgain s k w mask (BitVec.ofNat 16 n) chain
    | none =>
      let seq := w.st.gseq
      let pos := gangPos mask w.wid
      let old := findLatch s w mask seq
      if old.isNone && (s.core w.core).latches.length ≥ 8 then .wait s none .boundary
      else
        let l := old.getD ⟨w.block, mask, seq, [], none, []⟩
        let l1 := if l.arrivals.any fun a => a.pos = pos then l else { l with arrivals := l.arrivals ++ [⟨k, w.st.pl1, pos, o, chain, ord⟩] }
        let l2 := if l1.arrivals.length < g && memberGone s w l1 then { l1 with failed := some (17 * 16 + 8) } else l1
        let s1 := (putLatch s w l l2).modWave k fun w => { w with
          st := { w.st with gseq := w.st.gseq + 1 }, head := { w.head with gseq := w.head.gseq + 1 } }
        latchAgain s1 k w mask seq chain

/-- A wave of a block ends: latches that list it and still await it fail (R256). -/
def latchesLost (s : State) (w : Wave) : State :=
  let x := s.core w.core
  s.setCore w.core { x with latches := x.latches.map fun l =>
    if l.block = w.block && bit l.mask w.wid && !w.isBin && l.failed.isNone && l.arrivals.length < maskCount l.mask &&
      !(l.arrivals.any fun a => ((s.wave a.wave).map Wave.wid) = some w.wid)
    then { l with failed := some (17 * 16 + 8) } else l }

/-- MBEG (R265): a fixed point in the matrix queue, behind every step of the wave that is queued. -/
def performMbeg (s : State) (k : Nat) (w : Wave) : Done :=
  let x := s.core w.core
  .done (s.setCore w.core { x with steps := x.steps.map fun st => if st.members.contains k then { st with behind := st.behind + 1 } else st })

/-- MEND (R259): it waits for every step of the wave's chain, then merges the chain's flags. -/
def performMend (s : State) (k : Nat) (w : Wave) : Done :=
  if (s.core w.core).steps.any fun st => st.members.contains k && st.inChain && st.handler.contains k = w.st.pl1 then .wait s none .steps
  else .done (s.modWave k fun w => { w with
    mflags := 0, st := { w.st with fpstat := w.st.fpstat ||| w.mflags }, head := { w.head with fpstat := w.head.fpstat ||| w.mflags } })

/-- Whether a queued step may be executed now (R257, R258): the first of its block on its tile, or one of an unordered run of one chain at
the front, with no fixed point in it. -/
def stepReady (steps : List MStep) (st : MStep) : Bool :=
  let mine := steps.filter fun y => y.block = st.block && matTile y.op = matTile st.op
  let runs (y : MStep) : Bool := y.inChain && !y.ordered && y.members = st.members && y.handler = st.handler && y.behind = st.behind && (match y.op with
    | .mma o .. => o.acc
    | _ => false)
  let before := mine.takeWhile fun y => y.id ≠ st.id
  before = [] || (runs st && before.all runs)

end Sys2Proof.Machine
end

