-- ==== Sys2Proof/Machine/Items.lean ====
section
/-! DEFINITION. The items in which an engine operation moves: a run of bytes of a record up to the next sector boundary of either end,
the elements of a BCOPY that lie in one sector, a piece of a BULK (spec/07 R154, R155, R159, R161, R162), and the threads that a BULK's pieces become. -/
namespace Sys2Proof.Machine

/-- Bytes from an offset of an end to its next sector boundary; a tile is cut like memory where both ends are tiles. -/
def endRoom (e : EndPt) (both : Bool) (o : Nat) : Nat :=
  match e with
  | .mem va => 48 - (va + o) % 48
  | .tile _ _ => if both then 48 - o % 48 else 2 ^ 32

def isTileEnd : EndPt → Bool
  | .mem _ => false
  | .tile .. => true

/-- Whether an offset begins an item. -/
def endCut (e : EndPt) (both : Bool) (o : Nat) : Bool :=
  match e with
  | .mem va => (va + o) % 48 = 0
  | .tile _ _ => both && o % 48 = 0

/-- A coordinate moved along its first three dimensions. -/
def coordPlus (o : List Int) (i0 i1 i2 : Nat) : List Int :=
  (o.zipIdx).map fun x => match x.2 with
    | 0 => x.1 + i0
    | 1 => x.1 + i1
    | 2 => x.1 + i2
    | _ => x.1

/-- Row, start in the row and the row's first address of a BULK's byte offset (R161). -/
def bulkRow (r : Nat) (origin : List Int) (ext : List Nat) (o : Nat) : Nat × Nat × Nat × Int :=
  let es := layEs (layFmt r)
  let row := ((ext[0]?).getD 0) * es
  let n1 := (ext[1]?).getD 0
  let i := o / row
  let i1 := i % n1
  let i2 := i / n1
  (i1, i2, o % row, ((layElem r (coordPlus origin 0 i1 i2)).getD 0))

/-- A BCOPY element's coordinate (R159). -/
def bcopyCoord (origin : List Int) (cols e : Nat) : List Int := coordPlus origin (e % cols) (e / cols) 0

/-- The sector, counted from address 0, of a BCOPY's element; none of one that is out of bounds (R114, R159). -/
def bcopySector (r : Nat) (origin : List Int) (cols e : Nat) : Option Int := (layElem r (bcopyCoord origin cols e)).map fun a => a / 48

/-- The elements of a BCOPY that move with element `i`: those of its sector, one out of bounds by itself; an engine fault and a suspension
fall between sectors (R153, R154). None where `i` is not the first of them. -/
def bcopyItem (r : Nat) (origin : List Int) (rows cols i : Nat) : List Nat :=
  match bcopySector r origin cols i with
  | none => if i < rows * cols then [i] else []
  | some x =>
    let mine := (List.range (rows * cols)).filter fun e => bcopySector r origin cols e = some x
    if mine.head? = some i then mine else []

/-- The length of the item that begins at an offset, or none where no item does. Addresses are computed without wrapping (R114). -/
def itemLen (s : State) (o : EngOp) (i : Nat) : Option Nat :=
  match o.kind with
  | .record a b len =>
    let both := isTileEnd a && isTileEnd b
    if i < len && (i = 0 || endCut a both i || endCut b both i) then
      some (min (len - i) (min (endRoom a both i) (endRoom b both i))) else none
  | .bcopy r t origin _ =>
    match tget s.tiles t with
    | none => none
    | some y => match bcopyItem r origin y.rows y.cols i with
      | [] => none
      | es => some (es.length * layEs (layFmt r))
  | .bulk r origin ext _ _ _ _ _ =>
    if i ≥ o.total then none
    else
      let x := bulkRow r origin ext i
      let off := ((x.2.2.2 + x.2.2.1) % 48).toNat
      let row := ((ext[0]?).getD 0) * layEs (layFmt r)
      if x.2.2.1 = 0 || off = 0 then some (min (row - x.2.2.1) (48 - off)) else none

def isBulk (o : EngOp) : Bool :=
  match o.kind with
  | .bulk .. => true
  | _ => false

/-- The taper of a piece (R162). -/
def pieceThread (o : EngOp) (id i : Nat) (bs : List Byte) : Option (Nat × BinThread) :=
  match o.kind with
  | .bulk r origin ext entry _ args wid seq =>
    let es := layEs (layFmt r)
    let x := bulkRow r origin ext i
    let w32 (k d : Nat) : Word := BitVec.ofInt 32 ((origin[k]?).getD 0 + d)
    let bx := w32 0 (x.2.2.1 / es)
    let row := ((ext[0]?).getD 0) * es
    let bz := w32 2 x.2.1
    let by' := w32 1 x.1
    some (entry, ⟨(List.range 12).map fun j => BitVec.ofNat 32 (leNat ((bs.drop (4 * j)).take 4)),
      { taper := true, closing := false, op := id, bx := bx, byy := by', bz := bz, blen := BitVec.ofNat 32 bs.length
        bflag := BitVec.ofNat 32 ((if x.2.2.1 = 0 then 2 else 0) + (if x.2.2.1 + bs.length = row then 4 else 0))
        barg := args, key2 := 32 + wid, key3 := seq, key4 := [0, bz.toNat, by'.toNat, bx.toNat], redd := 0 }⟩)
  | _ => none

/-- The positions of a born thread's REDD key that name the thread (R401). -/
def bornKey (x : Born) : List Nat := [x.key2, x.key3] ++ x.key4

/-- The keys of the tapers that an operation has still to place: those of its pieces, unless a fault keeps them from being read, and
that of its closing taper. -/
def opKeys (s : State) (id : Nat) (o : EngOp) : List (List Nat) :=
  match o.kind with
  | .bulk _ _ _ _ closing _ wid seq =>
    let due (i : Nat) : Bool := match tget o.items i with
      | some .gone => false
      | some (.read _) => true
      | none => !o.failed
    ((List.range o.total).filter fun i => (itemLen s o i).isSome && due i).filterMap (fun i =>
      (pieceThread o id i []).map fun x => bornKey x.2.born) ++ (if closing ≠ 0 then [[32 + wid, seq, 1, 0, 0, 0]] else [])
  | _ => []

end Sys2Proof.Machine
end

