-- ==== Sys2Proof/Machine/QSync.lean ====
section
/-! DEFINITION. Queued synchronisation entries at performance: WAKE, WAKEQ, ARV, BINIT, ATOM, RED, REDD, DTOK, FENCE; the
registration of a vigil; REDD's orders (spec/13 R275 to R306, spec/20 R400 to R404). -/
namespace Sys2Proof.Machine

/-! Registration. -/

/-- Entries that stand in the table of a home slice (R275, R404); those in overflow lists do not (R280). -/
def sliceEntries (s : State) (slice : Nat) : Nat :=
  ((tvals s.vigils).filter fun v => v.spill.isNone && (match v.loc with
    | .mem a => homeSlice a = slice
    | .tile .. => false)).length +
  ((tvals s.helds).filter fun h => h.spill.isNone && (match h.loc with
    | .mem a => homeSlice a = slice
    | .tile .. => false)).length

/-- The core whose vigil list serves a byte of a tile (R287): a QS row's core, or the tile's own; none while the tile is on no core. -/
def tileListCore (s : State) (id off : Nat) : Option Nat :=
  (tget s.tiles id).bind fun t => t.cores[off / (t.cols * ewBytes t.ew) % t.cores.length]?

def tileEntries (s : State) (core : Nat) : Nat :=
  let here (loc : WLoc) : Bool := match loc with
    | .tile t o => tileListCore s t o = some core
    | .mem _ => false
  ((tvals s.vigils).filter fun v => here v.loc).length + ((tvals s.helds).filter fun h => here h.loc).length

/-- Whether the list that serves a byte of a tile is full (R287). -/
def tileListFull (s : State) (id off : Nat) : Bool :=
  match tileListCore s id off with
  | none => false
  | some c => tileEntries s c ≥ 64

/-- A sector of the spill pool taken (R281): which free one is not defined. The failure carries the pool address that
was refused; what the device writes there is its own: free values. -/
def takeSpill (s : State) (ctx : Nat) : Except (Option Nat) (State × Nat) :=
  let lim := (s.ctxReg ctx 0x49).toNat % 2 ^ 32
  let base := (s.ctxReg ctx 0x48).toNat % 2 ^ 57
  match tget s.ctxs ctx with
  | none => .error none
  | some c =>
    if lim ≤ c.spill.length then .error none
    else
      let start := (s.fv (fkey 12 ctx)).toNat % lim
      match (List.range (c.spill.length + 1)).find? fun i => !c.spill.contains ((start + i) % lim) with
      | none => .error none
      | some i =>
        let n := (start + i) % lim
        let va := base + 48 * n
        match xlate s .hub ctx va .store with
        | .error _ => .error (some va)
        | .ok p =>
          let s1 := homeWrite (useXlat s .hub ctx va p.x) ctx p.pa
            ((List.range 6).flatMap fun j => leBytes 8 (s.fv (fkey 13 j)).toNat) (pteCmp p.pte)
          .ok (s1.modCtx ctx fun c => { c with spill := c.spill ++ [n] }, n)

/-- A sector of the management context's pool (R332), which always has one; where that pool stands is not given (log 20). -/
def takeHubSpill (s : State) : State × Nat :=
  let used := ((tget s.ctxs 4095).map Ctx.spill).getD []
  let n := ((List.range (used.length + 1)).find? fun i => !used.contains i).getD 0
  (s.modCtx 4095 fun c => { c with spill := c.spill ++ [n] }, n)

/-- The lines of a slice that count against its pin limit (R280): those that only the dispatcher pins do not (R332). -/
def pinsCounted (s : State) (slice : Nat) : List Nat :=
  pinnedLines { s with vigils := s.vigils.filter fun e => match e.2.waiter with
    | .dispatcher _ => false
    | .wave _ => true } slice

/-- A place for an entry at a word of memory (R280): in the slice's table, or in the overflow list of the word's line with its pool
sector; or the vigil fault of R291. -/
def entryRoom (s : State) (ctx va pa : Nat) : Except Fail (State × Option Nat) :=
  if sliceEntries s (homeSlice pa) < 512 then .ok (s, none)
  else
    let pins := pinsCounted s (homeSlice pa)
    match takeSpill s ctx with
    | .error e => .error ⟨18, 1, none, some (BitVec.ofNat 64 (e.getD va))⟩
    | .ok (s1, n) =>
      if !pins.contains (pa / 192) && pins.length ≥ 2048 then .error ⟨18, 2, none, some (BitVec.ofNat 64 va)⟩
      else .ok (s1, some n)

/-- What registration answers. -/
inductive Reg where
  | made (s : State)
  | full
  | fault (f : Fail)

/-- An entry made in the table, in an overflow list (R280), or in a core's tile list (R287). The dispatcher's never fails (R332). -/
def makeEntry (s : State) (v : Vigil) : Reg :=
  match v.loc with
  | .tile t o => if tileListFull s t o then .full else .made { s with vigils := tset s.vigils v.id v }
  | .mem a =>
    match v.waiter with
    | .dispatcher _ =>
      if sliceEntries s (homeSlice a) < 512 then .made { s with vigils := tset s.vigils v.id v }
      else
        let x := takeHubSpill s
        .made { x.1 with vigils := tset x.1.vigils v.id { v with spill := some x.2 } }
    | .wave _ =>
      match entryRoom s v.ctx v.va a with
      | .error f => .fault f
      | .ok (s1, n) => .made { s1 with vigils := tset s1.vigils v.id { v with spill := n } }

/-- Registration as one step (R277, R282, R284, R287): an answer at once, an entry, or a refusal. -/
inductive RegTest where
  | answer (flag : Bool) (value : DWord)
  | entry (r : Reg)

def registerVigil (s : State) (v : Vigil) : RegTest :=
  let single := v.timed && v.budget = 0
  match v.kind with
  | .queue =>
    if single then .answer (v.holds s) (v.value s)
    else
      let key := match v.loc with
        | .mem a => a
        | .tile .. => 0
      let n := (tget s.tickets key).getD 0
      .entry (makeEntry { s with tickets := tset s.tickets key ((n + 1) % 2 ^ 32) } { v with ticket := n })
  | .plain | .drain =>
    if v.holds s then .answer true (v.value s)
    else if single then .answer false (v.value s)
    else .entry (makeEntry s v)
  | .phase | .deferred =>
    let b := barAt s v.loc
    if v.holds s then .answer true (v.value s)
    else if single then .answer false (v.value s)
    else if b.drn then .entry (makeEntry s { v with kind := .deferred })
    else match makeEntry s { v with kind := .phase } with
      | .made s1 => .entry (.made (setBar s1 v.ctx v.loc { b with wreg := b.wreg + 1 }))
      | r => .entry r

/-! WAKE, WAKEQ, BINIT, ARV, FENCE. -/

/-- Translation of a word for WAKE or WAKEQ: a private page is vigil fault 3 (R296). An entry of the word with an uncorrectable error
fails the instruction (R440). -/
def wakePlace (s : State) (core ctx va n : Nat) (acc : Acc) : Except Fail Place :=
  match xlate s (.core core) ctx va acc with
  | .error 7 => .error ⟨18, 3, none, some (BitVec.ofNat 64 va)⟩
  | .error n => .error (pageFail n va)
  | .ok p => if vigilErr s (.mem p.pa) n then .error ⟨26, 3, none, some (BitVec.ofNat 64 va)⟩ else .ok p

/-- The release of an instruction whose word lies on a page: on a UO page it orders nothing (R315). -/
def releasePage (s : State) (k : Nat) (w : Wave) (scope pte : Nat) : State :=
  if pteOrd pte = 2 then raceRelease s w.ctx else releaseAt s k w scope

def performWake (s : State) (k : Nat) (w : Wave) (va n scope : Nat) : Done :=
  if releaseWaits s k w true scope then .wait s none .steps
  else match wakePlace s w.core w.ctx va 4 .load with
    | .error f => .fault f
    | .ok p =>
      if uncorrectable s p.pa then .fault ⟨26, 3, none, some (BitVec.ofNat 64 va)⟩
      else
        let s1 := useRead (flushOwn s k p.pa 8) (.core w.core) w.ctx va p
        .done (wakeQueue (releasePage s1 k w scope p.pte) (.mem p.pa) n)

def performWakeq (s : State) (k : Nat) (w : Wave) (va : Nat) (v : DWord) (w64 : Bool) (n scope : Nat) : Done :=
  let len := if w64 then 8 else 4
  if releaseWaits s k w true scope then .wait s none .steps
  else match wakePlace s w.core w.ctx va len .store with
    | .error f => .fault f
    | .ok p =>
      if sealedBy s w.ctx va len then .fault ⟨6, 1, none, some (BitVec.ofNat 64 va)⟩
      else match lockFail s w.ctx (dieOfCore w.core) va len true with
        | some x => .fault ⟨9, x, none, some (BitVec.ofNat 64 va)⟩
        | none =>
          let s1 := flushOwn (useXlat s (.core w.core) w.ctx va p.x) k p.pa len
          let s2 := forgetEarly s1 fun y => y.wave = k && y.sector = p.pa / 48
          .done (wakeQueue (homeWrite (releasePage s2 k w scope p.pte) w.ctx p.pa (leBytes len v.toNat) (pteCmp p.pte)) (.mem p.pa) n)

/-- The place of a barrier of an instruction, checked (R149, R292, R294), and whether a release there orders (R315): KIND 0b00 is
malformed too (R307). -/
def barOfRef (s : State) (w : Wave) (ref : DWord) : Except Fail (WLoc × Bool) :=
  match parseBar s w.block ref with
  | none | some .none => .error ⟨19, 1, none, none⟩
  | some r =>
    match barPlace s (.core w.core) w.ctx w.block r with
    | .error f => .error f
    | .ok none => .error ⟨19, 1, none, none⟩
    | .ok (some loc) =>
      let bad := vigilErr s loc 16 || (match loc with
        | .mem pa => uncorrectable s pa
        | .tile id off => tileWordsBad s id off 16)
      if bad then .error ⟨26, 3, none, match r with
        | .mem va => some (BitVec.ofNat 64 va)
        | _ => none⟩
      else .ok (loc, match r with
        | .mem va => (match xlate s (.core w.core) w.ctx va .atomic with
          | .ok p => pteOrd p.pte ≠ 2
          | .error _ => true)
        | _ => true)

/-- What an instruction's own accesses to a barrier's bytes leave: its sent writes to them performed (R314), the translation used. -/
def barTouch (s : State) (k : Nat) (w : Wave) (ref : DWord) (loc : WLoc) : State :=
  match loc with
  | .tile .. => s
  | .mem pa =>
    let va := ref.toNat % 2 ^ 57
    let s1 := forgetEarly (flushOwn s k pa 16) fun y => y.wave = k && y.sector = pa / 48
    match xlate s (.core w.core) w.ctx va .atomic with
    | .ok p => useXlat s1 (.core w.core) w.ctx va p.x
    | .error _ => s1

def performBinit (s : State) (k : Nat) (w : Wave) (ref : DWord) (reload : Nat) : Done :=
  match barOfRef s w ref with
  | .error f => .fault f
  | .ok (loc, _) =>
    let s := barTouch s k w ref loc
    let b := barAt s loc
    if b.wreg ≠ 0 || b.drn then .fault ⟨19, 2, none, none⟩
    else if reload % 2 ^ 16 = 0 then .fault ⟨19, 4, none, none⟩
    else .done (setBar s w.ctx loc ⟨0, reload % 2 ^ 16, reload % 2 ^ 16, 0, 0, 0, false, false, 0⟩)

/-- The key of an arrival (R404). -/
def arvKey (s : State) (k : Nat) : List Nat := let x := waveKey s k; [x.2.1, x.2.2]

/-- Lexicographic order of keys. -/
def keyLt : List Nat → List Nat → Bool
  | [], _ :: _ => true
  | x :: xs, y :: ys => if x < y then true else if y < x then false else keyLt xs ys
  | _, _ => false

/-- An ARV's result word (R294). -/
def arvWord (phase : Nat) (acc last : Bool) : DWord :=
  BitVec.ofNat 64 (phase % 2 ^ 16 + (if acc then 2 ^ 16 else 0) + (if last then 2 ^ 17 else 0))

/-- The result delivered to D and PR, also in the head record (R175, R294). -/
def Wave.arvResult (w : Wave) (dst pr : Nat) (v : DWord) : Wave :=
  let w1 := w.setScalBoth dst v
  if pr = 0 then w1 else w1.setFlagBoth pr (v.getLsbD 16)

/-- A place for a held arrival, which spills as R280 sets out; that a refused spill is vigil fault 1 or 2 at the ARV, and that a full
tile list makes the boundary wait, as they do for a VIGIL, is DESIGN CHOICE (log 12). -/
inductive HeldRoom where
  | at (s : State) (spill : Option Nat)
  | full
  | fault (f : Fail)

def heldRoom (s : State) (w : Wave) (ref : DWord) (loc : WLoc) : HeldRoom :=
  match loc with
  | .tile t o => if tileListFull s t o then .full else .at s none
  | .mem pa =>
    match entryRoom s w.ctx (ref.toNat % 2 ^ 57) pa with
    | .error f => .fault f
    | .ok (s1, n) => .at s1 n

/-- ARV (R295, R404): refused while draining; accepted, it may complete the phase; in a deterministic launch the one with
the highest key is held. -/
def performArv (s : State) (k : Nat) (w : Wave) (e : QEntry) (ref : DWord) (bytes : Word) (scope dst pr : Nat) : Done :=
  if e.stage.isSome then .wait s e.stage .held
  else if releaseWaits s k w true scope then .wait s none .steps
  else match barOfRef s w ref with
    | .error f => .fault f
    | .ok (loc, orders) =>
      let s := barTouch s k w ref loc
      let s0 := if orders then releaseAt s k w scope else raceRelease s w.ctx
      let b := barAt s0 loc
      let give (s : State) (v : DWord) : Done := .done (s.modWave k fun w => w.arvResult dst pr v)
      if b.drn then give s0 (arvWord b.phase false false)
      else if b.arrive = 0 then .fault ⟨19, 3, none, none⟩
      else
        let b1 := { b with arrive := b.arrive - 1, bytes := (b.bytes + bytes.toNat) % 2 ^ 32 }
        let completes := b1.arrive = 0 && b1.bytes = 0
        let s1 := if completes then barComplete s0 w.ctx loc b1 else setBar s0 w.ctx loc b1
        if !s.isDet w then give s1 (arvWord b.phase true (b1.arrive = 0))
        else
          let key := arvKey s1 k
          if completes then
            match heldAt s1 loc with
            | none => give s1 (arvWord b.phase true true)
            | some (hk, h) =>
              let higher := keyLt key h.key
              give (releaseHeld s1 hk higher) (arvWord b.phase true (!higher))
          else
            let hold (t : State) : Done := match heldRoom t w ref loc with
              | .at t n =>
                .wait { t with helds := tset t.helds (tfresh t.helds) ⟨k, key, loc, arvWord b.phase true false, pr, n⟩ } (some 1) .held
              | .full => .wait s none .boundary
              | .fault f => .fault f
            match heldAt s1 loc with
            | none => hold s1
            | some (hk, h) =>
              if keyLt h.key key then hold (releaseHeld s1 hk false) else give s1 (arvWord b.phase true false)

/-- FENCE (R306, R317): `.full` and `.st` wait for the queued matrix steps and for every write that the wave has sent; `.full` and
`.ld` are acquires, and order the loads of every kind of page. -/
def performFence (s : State) (k : Nat) (w : Wave) (kind scope : Nat) : Done :=
  let rel := kind = 0 || kind = 2
  if releaseWaits s k w rel scope then .wait s none .steps
  else
    let s1 := if rel then releaseAt (flushWave s k) k w scope else s
    .done (if kind ≠ 2 then acquireAt (forgetEarly s1 fun x => x.wave = k) k w.core scope true else s1)

/-! Atomics. -/

/-- One thread's atomic as its checks leave it: where its word stands. -/
structure AtomAt where
  lane : LaneAtom
  pa : Nat
  pte : Nat
  x : Xlat
  deriving DecidableEq, Repr

/-- The checks of one thread's atomic at performance (R300): a private page is atomic fault 1. -/
def atomPlace (s : State) (w : Wave) (l : LaneAtom) (n : Nat) : Except Fail AtomAt :=
  match xlate s (.lsu w.core) w.ctx l.va .atomic with
  | .error e => .error ((pageFail e l.va).at l.thr)
  | .ok p =>
    if ptePriv p.pte then .error ⟨20, 1, some l.thr, some (BitVec.ofNat 64 l.va)⟩
    else match accessFail s s w .atomic true ⟨l.thr, l.va, n⟩ with
      | some f => .error f
      | none => if uncorrectable s p.pa then .error ⟨26, 3, some l.thr, some (BitVec.ofNat 64 l.va)⟩ else .ok ⟨l, p.pa, p.pte, p.x⟩

/-- The checks of all the threads, before any operation, translated as the state stood at the beginning (R85). -/
def atomChecks (tr s : State) (w : Wave) (n scope : Nat) : List LaneAtom → Except Fail (State × List AtomAt)
  | [] => .ok (s, [])
  | l :: rest =>
    match atomPlace tr w l n with
    | .error f => .error f
    | .ok a =>
      match raceCheck s w true true (some scope) ⟨l.thr, l.va, n⟩ [(l.va, a.pte)] with
      | .error f => .error f
      | .ok s1 => match atomChecks tr s1 w n scope rest with
        | .error f => .error f
        | .ok (s2, more) => .ok (s2, a :: more)

/-- The operations of the threads in ascending thread number (R300), each with its old word; the wave's own sent writes to a word go
before it (R314). A plain RED (`plain`) on an RC or UO page may, as a store, be only sent: when it is performed is not defined (R312). -/
def atomRun (s : State) (k : Nat) (w : Wave) (plain : Bool) (op : Nat) (pk w64 : Bool) (rnd scope : Nat) :
    List AtomAt → State × List (Nat × Nat)
  | [] => (s, [])
  | a :: rest =>
    let l := a.lane
    let n := atomBytes op pk w64
    let s0 := useXlat s (.lsu w.core) w.ctx l.va a.x
    let forget (s : State) : State := forgetEarly s fun y => y.wave = k && y.sector = a.pa / 48
    let (s2, old) :=
      if plain && pteOrd a.pte ≠ 0 && s0.fbool (fkey 29 l.va) then
        ({ forget s0 with sent := s0.sent ++ [⟨k, w.ctx, a.pa, leBytes n l.v.toNat, some (op, pk, w64, rnd), pteOrd a.pte = 2, pteCmp a.pte, 0⟩] }, 0)
      else atomAt (forget (flushOwn s0 k a.pa n)) w.ctx a.pa op pk w64 rnd l.v l.cmp (pteCmp a.pte)
    let s3 := raceWrote s2 w true scope l.thr [(l.va, a.pte)]
    let (s4, more) := atomRun s3 k w plain op pk w64 rnd scope rest
    (s4, (l.thr, old) :: more)

/-- Old words delivered to D (R297, R300), also to the head record and the bank (R175). -/
def Wave.atomOld (w : Wave) (uni : Bool) (d : Dst) (olds : List (Nat × Nat)) : Wave :=
  if uni then
    match olds with
    | (_, v) :: _ => w.setScalBoth d.idx.toNat (BitVec.ofNat 64 v)
    | [] => w
  else
    let act := maskOf fun t => olds.any fun e => e.1 = t
    let val (t : Nat) : Nat := ((olds.find? fun e => e.1 = t).map Prod.snd).getD 0
    ((blockOffs d).zipIdx).foldl (fun w oj =>
      w.setRegBoth d.lvl.toNat (d.idx.toNat + oj.1) act fun t => BitVec.ofNat 32 (val t / 2 ^ (32 * oj.2))) w

/-! REDD. -/

/-- A contribution applied (R304, R402, R403), by its context's translation at that time, and into a range that has been sealed since it
was made as well; one whose word cannot be reached, or is uncorrectable, then is lost: DESIGN CHOICE (log 12). A spilled one frees its
pool sector. -/
def applyContrib (s : State) (c : Contrib) : State :=
  let s1 := match xlate s .hub c.ctx c.va .atomic with
    | .error _ => s
    | .ok p => if uncorrectable s p.pa then s else (atomAt (useXlat s .hub c.ctx c.va p.x) c.ctx p.pa c.op c.pk c.w64 c.rnd c.v 0 (pteCmp p.pte)).1
  match c.spilled with
  | none => s1
  | some n => s1.modCtx c.ctx fun x => { x with spill := x.spill.filter (· ≠ n) }

/-- Whether a launch wave of the block can still contribute: it has neither ended nor performed DTOK (R402). -/
def stillContributes (w : Wave) : Bool := !w.isBin && w.wait ≠ .ended && !w.dtok

/-- Whether a taper or spawned thread of the block has not retired: one in a wave, in a bin, in the return buffer, or still
to come from a BULK. -/
def bornPending (s : State) (b : Nat) (x : Block) : Bool :=
  ((s.wavesOf b).any fun e => e.2.isBin && e.2.wait ≠ .ended) ||
  ((tvals (s.core x.core).bins).any fun y => y.block = b) || ((s.core x.core).retbuf.any fun p => p.block = b) ||
  x.bins ≠ [] || x.pieces ≠ [] ||
  (tvals s.engops).any fun o => o.block = b && (match o.kind with
    | .bulk .. => true
    | _ => false)

/-- The keys of the block's tapers and spawned threads that have not retired: those in waves, in bins, in the return buffer, and
still to come from a BULK. -/
def pendingKeys (s : State) (b : Nat) (x : Block) : List (List Nat) :=
  let c := s.core x.core
  ((s.wavesOf b).flatMap fun e => if e.2.wait = .ended then [] else
    (threads e.2.st.live).filterMap fun t => (tget e.2.born t).map bornKey) ++
  ((((tvals c.bins).filter fun y => y.block = b) ++ x.bins).flatMap fun y => y.threads.map fun t => bornKey t.born) ++
  (((c.retbuf.filter fun p => p.block = b) ++ x.pieces).map fun p => bornKey p.thread.born) ++
  (s.engops.filter fun e => e.2.block = b).flatMap fun e => opKeys s e.1 e.2

/-- Whether no lower key can follow a contribution (R402). -/
def contribReady (s : State) (b : Nat) (x : Block) (c : Contrib) : Bool :=
  let wid := (c.key[1]?).getD 0
  if wid < 32 then !((s.wavesOf b).any fun e => stillContributes e.2 && e.2.wid < wid)
  else !((s.wavesOf b).any fun e => stillContributes e.2) &&
    !((pendingKeys s b x).any fun y => keyLt y ((c.key.drop 1).take 6))

/-- Contributions applied in key order, while each is ready; the rest (R402). -/
def applyReady (s : State) (b : Nat) (x : Block) : List Contrib → State × List Contrib
  | [] => (s, [])
  | c :: rest => if contribReady s b x c then applyReady (applyContrib s c) b x rest else (s, c :: rest)

/-- The token's block served, wherever it is, and the token passed on when it may be (R304, R402); `fuel` bounds the blocks passed. -/
def tokenStep (l : Nat) : Nat → State → State
  | 0, s => s
  | fuel + 1, s =>
    match tget s.launches l with
    | none => s
    | some la =>
      match s.blocks.find? fun e => e.2.launch = l && e.2.linear = la.token with
      | none => s
      | some (b, x) =>
        let (s1, rest) := applyReady s b x (sortBy (fun p q => !keyLt q.key p.key) x.redd)
        let s2 := s1.modBlock b fun x => { x with redd := rest }
        let idle := !((s2.wavesOf b).any fun e => e.2.wait ≠ .ended && !e.2.dtok) && !bornPending s2 b x
        if rest = [] && (x.status = .retired || idle) then
          tokenStep l fuel (s2.modLaunch l fun la => { la with token := la.token + 1 })
        else s2

/-- The token order advanced after anything that may let it (R402). -/
def tokenRun (s : State) (l : Nat) : State :=
  match tget s.launches l with
  | none => s
  | some la => if la.det && !la.dord then tokenStep l (s.blocks.length + 1) s else s

/-- The key of a contribution (R304, R401). -/
def reddKey (s : State) (w : Wave) (t seq : Nat) : List Nat :=
  let lin := ((tget s.blocks w.block).map Block.linear).getD 0
  match tget w.born t with
  | none => [lin, w.wid, seq, t, 0, 0, 0, 0]
  | some x => [lin, x.key2, x.key3] ++ x.key4 ++ [x.redd]

/-- Contributions in the buffer that serves a new one: the block's, or those at the word's home slice (R304). -/
def bufferUse (s : State) (w : Wave) (la : Launch) (pa : Nat) : Nat :=
  if la.dord then
    (((tvals s.launches).flatMap Launch.deferred).filter fun c => c.spilled.isNone && (match xlate s .hub c.ctx c.va .atomic with
      | .error _ => false
      | .ok p => homeSlice p.pa = homeSlice pa)).length
  else (((tget s.blocks w.block).map Block.redd).getD [] |>.filter fun c => c.spilled.isNone).length

/-- One contribution buffered, or spilled to the pool when its buffer is full; atomic fault 4 when both are (R304). -/
def addContrib (s : State) (w : Wave) (l : Nat) (la : Launch) (c : Contrib) (t : Nat) : Except Fail State :=
  let put (s : State) (c : Contrib) : State :=
    if la.dord then s.modLaunch l fun x => { x with deferred := x.deferred ++ [c] }
    else s.modBlock w.block fun x => { x with redd := x.redd ++ [c] }
  let pa := match xlate s .hub c.ctx c.va .atomic with
    | .error _ => 0
    | .ok p => p.pa
  if bufferUse s w la pa < 1024 then .ok (put s c)
  else match takeSpill s w.ctx with
    | .error e => .error ⟨20, 4, some t, some (BitVec.ofNat 64 (e.getD c.va))⟩
    | .ok (s1, n) => .ok (put s1 { c with spilled := some n })

def addContribs (s : State) (w : Wave) (l : Nat) (la : Launch) (mk : LaneAtom → Contrib) : List LaneAtom → Except Fail State
  | [] => .ok s
  | x :: rest =>
    match addContrib s w l la (mk x) x.thr with
    | .error f => .error f
    | .ok s1 => addContribs s1 w l la mk rest

/-- The REDD sequence numbers of the wave and of its born threads advanced (R304, R401). -/
def Wave.countRedd (w : Wave) (ls : List LaneAtom) : Wave :=
  { w with redd := w.redd + 1, born := ls.foldl (fun b l => tmod b l.thr fun x => { x with redd := x.redd + 1 }) w.born }

/-- Whether some thread's word lies on a page where an acquire or a release orders (R301, R315). -/
def atomsOrder (l : List AtomAt) : Bool := l.any fun a => pteOrd a.pte ≠ 2

/-- ATOM, RED and REDD at performance. -/
def performAtomic (s : State) (k : Nat) (w : Wave) (which op : Nat) (pk w64 : Bool) (rnd scope ord : Nat) (dst : Dst)
    (uni : Bool) (ls : List LaneAtom) : Done :=
  let n := atomBytes op pk w64
  let rel := ord = 2 || ord = 3
  if releaseWaits s k w rel scope then .wait s none .steps
  else if which = 2 && s.isDet w && w.dtok then .fault ⟨20, 3, none, none⟩
  else match atomChecks s s w n scope ls with
    | .error f => .fault f
    | .ok (s0, places) =>
      match (if which = 2 then (tget s0.blocks w.block).bind fun b => (tget s0.launches b.launch).map fun la => (b.launch, la) else none) with
      | some (l, la) =>
        if la.det then
          let mk (x : LaneAtom) : Contrib :=
            ⟨reddKey s0 w x.thr w.redd, w.ctx, op, pk, w64, rnd, scope, x.va, x.v, none⟩
          match addContribs s0 w l la mk ls with
          | .error f => .fault f
          | .ok s1 =>
            let s2 := places.foldl (fun s x => raceWrote s w true scope x.lane.thr [(x.lane.va, x.pte)]) s1
            .done (tokenRun (s2.modWave k fun w => w.countRedd ls) l)
        else .done (atomRun s0 k w true op pk w64 rnd scope places).1
      | none =>
        let s1 := if rel then (if atomsOrder places then releaseAt s0 k w scope else raceRelease s0 w.ctx) else s0
        let (s2, olds) := atomRun s1 k w (which ≠ 0 && ord = 0) op pk w64 rnd scope places
        let s3 := if which = 0 then s2.modWave k fun w => w.atomOld uni dst olds else s2
        .done (if ord = 1 || ord = 3 then (if atomsOrder places then acquireAt s3 k w.core scope true else raceAcquire s3 k true) else s3)

/-- DTOK (R305): it acts in token order only. -/
def performDtok (s : State) (k : Nat) (w : Wave) : Done :=
  match (tget s.blocks w.block).bind fun b => (tget s.launches b.launch).map fun la => (b.launch, la) with
  | none => .done s
  | some (l, la) =>
    if la.det && !la.dord then .done (tokenRun (s.modWave k fun w => { w with dtok := true }) l) else .done s

end Sys2Proof.Machine
end

