-- ==== Sys2Proof/Machine/QEngine.lean ====
section
/-! DEFINITION. Engine operations accepted at performance: KICK, BCOPY, BULK; threads placed in spawn bins and bins admitted
as waves; SPAWN and LAUNCH (spec/07 R149 to R169, spec/05 R116, R117, spec/16 R356 to R360, spec/01 R22 to R24). -/
namespace Sys2Proof.Machine

/-! Acceptance. -/

/-- What an operation locks: memory ranges as inclusive byte bounds, and tiles. -/
structure Want where
  src : List (Nat × Nat)
  dst : List (Nat × Nat)
  tsrc : List Nat
  tdst : List Nat
  deriving DecidableEq, Repr

/-- The dies whose tables hold an operation's locks (R116). -/
def lockDies (core scope : Nat) : List Nat := if scope ≤ 4 then [dieOfCore core] else [0, 1, 2, 3]

/-- A lock that overlaps a range, in one of the tables. -/
def lockMeets (l : RLock) (ctx : Nat) (dies : List Nat) (r : Nat × Nat) : Bool :=
  l.ctx = ctx && l.dies.any dies.contains && l.lo ≤ r.2 / 48 && r.1 / 48 ≤ l.hi

/-- Whether an operation can be accepted now (R150, R116): room in the engine queue and the lock tables, no conflict. -/
def canAccept (s : State) (ctx core scope : Nat) (x : Want) : Bool :=
  let dies := lockDies core scope
  let need := x.src.length + x.dst.length
  ((tvals s.engops).filter fun o => o.core = core && !o.suspended).length < 64 &&
  (dies.all fun d => (s.locks.filter fun l => l.dies.contains d).length + need ≤ 256 || need = 0) &&
  !((x.src ++ x.dst).any fun r => s.locks.any fun l => l.dst && lockMeets l ctx dies r) &&
  !(x.dst.any fun r => s.locks.any fun l => lockMeets l ctx dies r) &&
  !((x.tsrc ++ x.tdst).any fun t => ((tget s.tiles t).map fun (y : Tile) => decide (y.bd ≠ 0)).getD false) &&
  !(x.tdst.any fun t => ((tget s.tiles t).map fun (y : Tile) => decide (y.bs ≠ 0)).getD false)

/-- An operation accepted: its entry, its locks, its tile bits (R116, R150). Its reads come after the earlier writes of its wave. -/
def accept (s : State) (o : EngOp) (x : Want) : State :=
  let id := tfresh s.engops
  let dies := lockDies o.core o.scope
  let mk (d : Bool) (r : Nat × Nat) : RLock := ⟨id, o.ctx, dies, r.1 / 48, r.2 / 48, d⟩
  let s1 := { s with engops := tset s.engops id o, locks := s.locks ++ x.src.map (mk false) ++ x.dst.map (mk true) }
  let s2 := x.tsrc.foldl (fun s t => s.modTile t fun y => { y with bs := y.bs + 1 }) s1
  x.tdst.foldl (fun s t => s.modTile t fun y => { y with bd := y.bd + 1 }) s2

/-- A new operation of a wave. -/
def newOp (s : State) (w : Wave) (kind : EngKind) (scope : Nat) (bar : BarRef) (total : Nat) : EngOp :=
  { kind := kind, ctx := w.ctx, block := w.block, core := w.core, launch := ((tget s.blocks w.block).map Block.launch).getD 0
    scope := scope, bar := bar, items := [], readsDone := false, total := total, counted := 0
    lost := false, failed := false, suspended := false }

/-- A memory barrier object is translated and checked with the operation's other checks (R152). -/
def barChecked (s : State) (w : Wave) (r : BarRef) : Option Fail :=
  match barPlace s (.core w.core) w.ctx w.block r with
  | .error f => some f
  | .ok _ => none

/-! Request records. -/

/-- An endpoint of a record as a place, where it names one, and the sub-causes of R158 that it meets. Bits [63:57] of a memory endpoint
make it not canonical (R76); bits [53:32] of a tile endpoint are reserved. -/
def endPoint (s : State) (blk : Nat) (tile : Bool) (e len : Nat) : Option EndPt × List Nat :=
  if tile then
    match findTile s blk (bitsOf e 63 56) with
    | none => (none, [3])
    | some (id, t) =>
      if bitsOf e 55 54 ≥ 2 || t.lvl ≠ bitsOf e 55 54 || bitsOf e 31 0 + len > t.rows * t.cols * ewBytes t.ew then (none, [3])
      else (some (.tile id (bitsOf e 31 0)), if bitsOf e 53 32 ≠ 0 then [5] else [])
  else if e + max len 1 > vlim then (none, [3])
  else (some (.mem e), [])

/-- Whether two endpoints overlap. -/
def endsOverlap (a b : EndPt) (len : Nat) : Bool :=
  match a, b with
  | .mem x, .mem y => x < y + len && y < x + len
  | .tile t x, .tile u y => t = u && x < y + len && y < x + len
  | _, _ => false

/-- R155 and R158 on one record: the lowest sub-cause is reported. -/
def checkRecord (s : State) (w : Wave) (r : Nat) : Except Nat Rec :=
  let kind := bitsOf r 227 224
  let len := bitsOf r 223 192
  let scope := bitsOf r 230 228
  let bar := parseBar s w.block (BitVec.ofNat 64 (bitsOf r 191 128))
  let src := endPoint s w.block (kind = 2 || kind = 3) (bitsOf r 63 0) len
  let dst := endPoint s w.block (kind = 1 || kind = 3) (bitsOf r 127 64) len
  let overlap := match src.1, dst.1 with
    | some a, some b => if endsOverlap a b len then [3] else []
    | _, _ => []
  let all := (if bar.isNone then [1] else []) ++ (if kind > 3 || len > 16777216 then [3] else []) ++
    (if kind > 3 then [] else src.2 ++ dst.2) ++ overlap ++ (if bitsOf r 383 231 ≠ 0 || scope < 2 then [5] else [])
  match all, src.1, dst.1, bar with
  | [], some a, some b, some br => .ok ⟨a, b, len, br, scope⟩
  | l, _, _, _ => .error (l.foldl min 5)

/-- The locks of a record (R116). -/
def recWant (r : Rec) : Want :=
  let m (e : EndPt) : List (Nat × Nat) := match e with
    | .mem a => [(a, a + r.len - 1)]
    | .tile .. => []
  let t (e : EndPt) : List Nat := match e with
    | .mem _ => []
    | .tile x _ => [x]
  ⟨m r.src, m r.dst, t r.src, t r.dst⟩

/-- The checked records accepted one after another, in row order (R157); the rest waits. A record with LEN 0 finishes at once. -/
def acceptRecords (s : State) (k : Nat) (w : Wave) : List Rec → Done
  | [] => .done s
  | x :: rest =>
    if x.len = 0 then acceptRecords s k w rest
    else if canAccept s w.ctx w.core x.scope (recWant x) then
      acceptRecords (accept (flushWave s k) (newOp s w (.record x.src x.dst x.len) x.scope x.bar x.len) (recWant x)) k w rest
    else .requeue s (.kickRest (x :: rest)) .boundary

/-- The checks of all the records, in row order, before any is accepted: of each R155 and R158, then its barrier (R157, R152). -/
def checkRecords (s : State) (w : Wave) : List Nat → Except Fail (List Rec)
  | [] => .ok []
  | r :: rest =>
    match checkRecord s w r with
    | .error n => .error ⟨13, n, none, none⟩
    | .ok x =>
      match barChecked s w x.bar with
      | some f => .error f
      | none => match checkRecords s w rest with
        | .error f => .error f
        | .ok l => .ok (x :: l)

def performKick (s : State) (k : Nat) (w : Wave) (h lvl first n : Nat) : Done :=
  if n = 0 then .done s
  else if n > 256 then .fault ⟨13, 5, none, none⟩
  else match findTile s w.block h with
    | none => .fault ⟨7, 1, none, none⟩
    | some (id, t) =>
      if t.lvl ≠ lvl then .fault ⟨7, 3, none, none⟩
      else if t.bd ≠ 0 then .fault ⟨7, 4, none, none⟩
      else if t.cols * ewBytes t.ew ≠ 48 || first + n > t.rows then .fault ⟨13, 5, none, none⟩
      else if tileWordsBad s id (48 * first) (48 * n) then .fault ⟨26, 3, none, none⟩
      else
        let rs := (List.range n).map fun i => leNat (tileRead s id (48 * (first + i)) 48)
        match checkRecords s w rs with
        | .error f => .fault f
        | .ok l => acceptRecords s k w l

/-! BCOPY and BULK. -/

/-- The hull of a region's bytes from the addresses of its corners (R159, R161): what lies below address 0 is no byte of memory. -/
def hull (addrs : List Int) (es : Nat) : List (Nat × Nat) :=
  match addrs with
  | [] => []
  | a :: rest =>
    let last := rest.foldl max a + es - 1
    if last < 0 then [] else [((rest.foldl min a).toNat, last.toNat)]

/-- BCOPY (R159). A load's hull spans the in-bounds elements of the region, which are those of the clipped rectangle. Its barrier's page is
checked last (R152): DESIGN CHOICE (log 13), as the spec gives no order. -/
def performBcopy (s : State) (k : Nat) (w : Wave) (h tileH lvl scope : Nat) (st : Bool) (bar : DWord) (origin : List DWord) : Done :=
  match layUse s w.core w.ctx h with
  | .error f => .fault f
  | .ok (s1, r) =>
    match findTile s1 w.block tileH with
    | none => .fault ⟨7, 1, none, none⟩
    | some (id, t) =>
      let es := layEs (layFmt r)
      if t.lvl ≠ lvl then .fault ⟨7, 3, none, none⟩
      else if es ≠ ewBytes t.ew then .fault ⟨13, 4, none, none⟩
      else match parseBar s1 w.block bar with
        | none => .fault ⟨13, 1, none, none⟩
        | some br =>
          let part (i hi : Nat) : Int := (BitVec.ofNat 32 (((origin[i]?).getD 0).toNat / 2 ^ hi)).toInt
          let o := [part 0 0, part 0 32, part 1 0, part 1 32, part 2 0]
          let corners := [coordPlus o 0 0 0, coordPlus o (t.cols - 1) 0 0, coordPlus o 0 (t.rows - 1) 0,
            coordPlus o (t.cols - 1) (t.rows - 1) 0]
          if st && corners.any (fun c => (layElem r c).isNone) then .fault ⟨8, 3, none, none⟩
          else match barChecked s1 w br with
            | some f => .fault f
            | none =>
              let c0 (c : Nat) : Int := (o[0]?).getD 0 + c
              let c1 (x : Nat) : Int := (o[1]?).getD 0 + x
              let colsIn := (List.range t.cols).filter fun c => 0 ≤ c0 c && c0 c < (layExt r 0 : Int)
              let rowsIn := (List.range t.rows).filter fun x =>
                if layRank r ≥ 1 then 0 ≤ c1 x && c1 x < (layExt r 1 : Int) else c1 x = 0
              let ends (l : List Nat) : List Nat := (l.head?.toList) ++ (l.getLast?.toList)
              let addrs := (ends colsIn).flatMap fun c => (ends rowsIn).filterMap fun x => layElem r (coordPlus o c x 0)
              let mem := hull addrs es
              let want : Want := if st then ⟨[], mem, [id], []⟩ else ⟨mem, [], [], [id]⟩
              if canAccept s1 w.ctx w.core scope want then
                .done (accept (flushWave s1 k) (newOp s1 w (.bcopy r id o st) scope br (t.rows * t.cols * es)) want)
              else .wait s1 none .boundary

/-! Spawn bins. -/

/-- Bytes of the far file that a wave takes: its granules, its survivor bank, its scalars (R23, R335). -/
def farBytes (farRegs : Nat) : Nat := 128 * farRegs + 4608

/-- The waves that hold space on a core: those of its resident blocks, but for bin waves that have ended (R24). -/
def coreWaves (s : State) (c : Nat) : List (Nat × Wave) :=
  s.waves.filter fun e => e.2.core = c && s.residentBlock e.2.block && !(e.2.isBin && e.2.wait = .ended)

def farUsed (s : State) (c : Nat) : Nat := (coreWaves s c).foldl (fun n e => n + farBytes e.2.farRegs) 0

/-- Whether a core can admit `n` waves of a far count (R22, R24). -/
def hasRoom (s : State) (c n farRegs : Nat) : Bool :=
  (coreWaves s c).length + n ≤ 64 && farUsed s c + n * farBytes farRegs ≤ (s.core c).splitF * 49152

/-- A wave at birth (R162, R338, R356): every register that is not named is zero or undefined. -/
def newWave (s : State) (ctx block side wid : Nat) (isBin : Bool) (live : Word) (entry farRegs : Nat) (seed : DWord) : Wave :=
  let aiv := ((tget s.ctxs ctx).map Ctx.csync).getD 0
  let st : WState :=
    { pc := BitVec.ofNat 64 entry, scal := [], pred := [], fpstat := 0, seed := seed, ctr := [], gmask := 0, gseq := 0
      chain := false, chainOrd := false, aiv := aiv, live := live, exec := live, dstack := [], rstack := [], svm := 0
      pl1 := false }
  { ctx := ctx, block := block, side := side, wid := wid, isBin := isBin, born := [], st := st, head := st, frame := none
    near := [], wick := [], far := [], bank := [], farRegs := farRegs, absent := [], farRead := [], queue := [], residual := []
    be := none, fresidual := [], fbe := none, ecause := 0, epc := 0, eres := 0, eaddr := 0, lit := false, litAt := 0
    victim := false, wait := .parked, vresult := none, vpend := none, vobs := none, qdue := 0
    admitted := s.admissions
    frameNo := none, pwlim := 0, redd := 0, bulkSeq := 0, spawnSeq := 0, dtok := false, mflags := 0, fmflags := 0, parity := 0, starve := 0
    starved := false, waited := 0 }

/-- Lit waves of a side (R172). -/
def litOf (s : State) (side : Nat) : List (Nat × Wave) := s.waves.filter fun e => e.2.side = side && e.2.lit

/-- A dark wave joins its side's lighting queue (R350). -/
def joinLighting (s : State) (k : Nat) : State :=
  match s.wave k with
  | none => s
  | some w =>
    let x := s.side w.side
    let s1 := s.setWave k { w with wait := .parked }
    if x.lighting.contains k then s1 else s1.setSide w.side { x with lighting := x.lighting ++ [k] }

/-- A wave that is to run as soon as a lit slot is free: at once when one is, else through the lighting queue. -/
def lightOrQueue (s : State) (k : Nat) : State :=
  match s.wave k with
  | none => s
  | some w =>
    if (litOf s w.side).length < 4 && (s.side w.side).lighting = [] then
      s.setWave k { w.reload with lit := true, litAt := (s.core w.core).cycles, wait := .none }
    else joinLighting s k

/-- A wave of a block and launch does not wait: what counts their waiting begins again (R344, R355). -/
def noteBusy (s : State) (b : Nat) : State :=
  match tget s.blocks b with
  | none => s
  | some x =>
    let s1 := if x.waited = 0 then s else s.setBlock b { x with waited := 0 }
    match tget s1.launches x.launch with
    | none => s1
    | some l => if l.quiet = 0 then s1 else s1.modLaunch x.launch fun l => { l with quiet := 0 }

/-- A full or expired bin becomes a wave when it can be admitted (R163, R356); refused, it keeps its threads. The wave's side
is not defined: a free choice. -/
def formBin (s : State) (c idx : Nat) : State :=
  let x := s.core c
  match tget x.bins idx with
  | none => s
  | some b =>
    let la := (tget s.blocks b.block).bind fun y => tget s.launches y.launch
    let far := 16 * ((la.bind fun l => l.handlerGranules b.entry).getD 1)
    if !hasRoom s c 1 far then
      s.setCore c { x with bins := tset x.bins idx { b with refused := some (b.refused.getD x.refusals) }, refusals := x.refusals + 1 }
    else
      let ctx := ((tget s.blocks b.block).map Block.ctx).getD 0
      let side := 4 * c + (s.fv (fkey 14 idx)).toNat % 4
      let w := newWave s ctx b.block side 0 true (maskOf fun t => t < b.threads.length) b.entry far ((la.map Launch.seed).getD 0)
      let born := (b.threads.zipIdx).map fun e => (e.2, e.1.born)
      let far : Tab Lanes := (List.range 12).map fun r =>
        (r, (List.range 32).map fun t => (b.threads[t]?).bind fun th => th.regs[r]?)
      let k := tfresh s.waves
      let s1 := s.setCore c { x with bins := terase x.bins idx }
      noteBusy (lightOrQueue { (s1.setWave k { w with born := born, far := far }) with admissions := s.admissions + 1 } k) b.block

/-- A thread placed in the bin of its block and entry (R163, R358), or none when it must wait. -/
def placeThread (s : State) (c block entry : Nat) (th : BinThread) : Option State :=
  let x := s.core c
  let add (idx : Nat) (b : Bin) : State :=
    let s1 := s.setCore c { x with bins := tset x.bins idx { b with threads := b.threads ++ [th] } }
    if b.threads.length + 1 = 32 then formBin s1 c idx else s1
  match x.bins.find? fun e => e.2.block = block && e.2.entry = entry with
  | some (idx, b) => if b.refused.isSome || b.threads.length ≥ 32 then none else some (add idx b)
  | none =>
    match (List.range 8).find? fun i => (tget x.bins i).isNone with
    | none => none
    | some idx =>
      let t := ((tget s.blocks block).map Block.binTimer).getD 0
      some (add idx ⟨block, entry, [], x.cycles, if t = 0 then 512 else t, false, none⟩)

/-- The refused bins of a core tried again, in the order in which they were refused (R163). -/
def retryBins (s : State) (c : Nat) : State :=
  let ids := sortBy (fun a b => decide (a.1 ≤ b.1)) ((s.core c).bins.filterMap fun e => e.2.refused.map fun r => (r, e.1))
  ids.foldl (fun s i => formBin s c i.2) s

/-- A closing taper spawned (R166), or left in the return buffer. -/
def spawnClosing (s : State) (o : EngOp) (id : Nat) : State :=
  match o.kind with
  | .bulk _ origin _ _ closing args wid seq =>
    if closing = 0 then s
    else
      let w32 (i : Nat) : Word := BitVec.ofInt 32 ((origin[i]?).getD 0)
      let th : BinThread := ⟨List.replicate 12 0,
        { taper := true, closing := true, op := id, bx := w32 0, byy := w32 1, bz := w32 2, blen := 0
          bflag := if o.lost then 9 else 1, barg := args, key2 := 32 + wid, key3 := seq, key4 := [1, 0, 0, 0], redd := 0 }⟩
      match placeThread s o.core o.block closing th with
      | some s1 => s1
      | none =>
        let x := s.core o.core
        s.setCore o.core { x with retbuf := x.retbuf ++ [⟨o.block, closing, th⟩] }
  | _ => s

/-- BULK (R160, R161, R166). Where its barrier's page fails (R152) and another check fails too, the other is reported: DESIGN CHOICE (log
13), as the spec gives no order. -/
def performBulk (s : State) (k : Nat) (w : Wave) (h scope : Nat) (ps args : List DWord) : Done :=
  match layUse s w.core w.ctx h with
  | .error f => .fault f
  | .ok (s1, r) =>
    let p (i : Nat) : Nat := ((ps[i]?).getD 0).toNat
    match parseBar s1 w.block (BitVec.ofNat 64 (p 0)) with
    | none => .fault ⟨13, 1, none, none⟩
    | some br =>
      let listed (e : Nat) : Bool := match (tget s1.blocks w.block).bind fun b => tget s1.launches b.launch with
        | none => false
        | some l => (l.handlerGranules e).isSome
      if !listed (p 1) || (p 2 ≠ 0 && !listed (p 2)) then .fault ⟨13, 2, none, none⟩
      else
        let i32 (x : Nat) : Int := (BitVec.ofNat 32 x).toInt
        let o := [i32 (p 3), i32 (p 3 / 2 ^ 32), i32 (p 4), 0, 0]
        let n0 := p 4 / 2 ^ 32
        let n1 := p 5 % 2 ^ 32
        let n2 := p 5 / 2 ^ 32
        let es := layEs (layFmt r)
        let empty := n0 = 0 || n1 = 0 || n2 = 0
        let corners := [0, n0 - 1].flatMap fun a => [0, n1 - 1].flatMap fun b => [0, n2 - 1].map fun c => layElem r (coordPlus o a b c)
        if layStd r 0 ≠ 1 || (!empty && corners.any Option.isNone) then .fault ⟨13, 3, none, none⟩
        else match barChecked s1 w br with
          | some f => .fault f
          | none =>
            let words := args.flatMap fun (a : DWord) => [BitVec.truncate 32 a, BitVec.truncate 32 (a >>> 32)]
            let kind : EngKind := .bulk r o [n0, n1, n2] (p 1) (p 2) words w.wid w.bulkSeq
            let want : Want := if empty then ⟨[], [], [], []⟩ else ⟨hull (corners.filterMap id) es, [], [], []⟩
            let op := newOp s1 w kind scope br (n0 * n1 * n2 * es)
            let counted (s : State) : State := s.modWave k fun w => { w with bulkSeq := w.bulkSeq + 1 }
            if !canAccept s1 w.ctx w.core scope want then .wait s1 none .boundary
            else if empty then
              .done (counted (spawnClosing s1 op (tfresh s1.engops)))
            else .done (counted (accept (flushWave s1 k) op want))

/-! The progress of an accepted operation. -/

/-- Entries of a core's return buffer in use: pieces read and not yet in a bin, and closing tapers that wait (R164). -/
def returnUse (s : State) (core : Nat) : Nat :=
  (s.core core).retbuf.length + ((tvals s.engops).filter fun o => o.core = core && !o.suspended && isBulk o).foldl (fun n o =>
    n + (o.items.filter fun e => match e.2 with
      | .read _ => true
      | .gone => false).length) 0

/-- The OP code of the engine fault record (R168). -/
def opCode (o : EngOp) : Nat :=
  match o.kind with
  | .record .. => 0
  | .bcopy .. => 1
  | .bulk .. => 2

/-- A fault entered in the core's record for the context, with the address of its sector; only the first is kept (R153, R168). A failed
translation leaves no leaf of its page behind (R86). -/
def recordFault (s : State) (o : EngOp) (fault sub addr : Nat) : State :=
  let s := if fault = 0 then dropLeaves s (.core o.core) o.ctx (pageNo addr) else s
  let x := s.core o.core
  let new : EFault := ⟨true, false, opCode o, fault, sub, addr % 2 ^ 57 / 48 * 48⟩
  let e : EFault := match tget x.efaults o.ctx with
    | some y => if y.v then { y with ovf := true } else new
    | none => new
  s.setCore o.core { x with efaults := tset x.efaults o.ctx e }

/-- Bytes of the items that have been read. -/
def readBytes (s : State) (o : EngOp) : Nat := o.items.foldl (fun n e => n + (itemLen s o e.1).getD 0) 0

/-- Landed bytes subtracted from the operation's barrier object (R152), and whether that failed; a subtraction that fails translation is
lost, and so, DESIGN CHOICE (log 23), is one whose object or whose waiters' entries are uncorrectable, and one whose tile has been freed
since, which is recorded as fault 0 sub-cause 1. -/
def countDown (s : State) (o : EngOp) (n : Nat) (eflt : Bool) : State × Bool :=
  let at' := match o.bar with
    | .mem va => va
    | _ => 0
  match barPlace s (.core o.core) o.ctx o.block o.bar with
  | .error f => (recordFault s o (if f.cause = 6 then 1 else if f.cause = 26 then 2 else 0) f.sub at', true)
  | .ok none => (s, false)
  | .ok (some loc) =>
    let bad := vigilErr s loc 16 || (match loc with
      | .mem pa => uncorrectable s pa
      | .tile id off => tileWordsBad s id off 16)
    if bad then (recordFault s o 2 3 at', true) else (barSubtract s o.ctx loc n eflt, false)

/-- Tiles that an operation reads and writes. -/
def opTiles (o : EngOp) : List Nat × List Nat :=
  let t (e : EndPt) : List Nat := match e with
    | .mem _ => []
    | .tile x _ => [x]
  match o.kind with
  | .record a b _ => (t a, t b)
  | .bcopy _ x _ st => if st then ([x], []) else ([], [x])
  | .bulk .. => ([], [])

/-- Source locks released (R117). -/
def releaseSources (s : State) (id : Nat) (o : EngOp) : State :=
  if o.readsDone then s
  else
    let s1 := { s with locks := s.locks.filter fun l => !(l.op = id && !l.dst) }
    let s2 := (opTiles o).1.foldl (fun s t => s.modTile t fun y => { y with bs := y.bs - 1 }) s1
    s2.modOp id fun o => { o with readsDone := true }

/-- An operation finished: every lock is released (R117, R151), a closing taper is spawned (R166), its entry is freed. -/
def finishOp (s : State) (id : Nat) : State :=
  match tget s.engops id with
  | none => s
  | some o =>
    let s1 := releaseSources s id o
    let s2 := { s1 with locks := s1.locks.filter fun l => l.op ≠ id }
    let s3 := (opTiles o).2.foldl (fun s t => s.modTile t fun y => { y with bd := y.bd - 1 }) s2
    spawnClosing { s3 with engops := terase s3.engops id } o id

/-- Bytes counted (R152, R153); the subtraction of the last byte is a release (R317, R326), and then the operation is finished. A
subtraction that fails is an engine fault (R152, R153): what has not been transferred stays unwritten and its count is lost with it; the
tapers of a BULK that have been read still retire. -/
def countBytes (s : State) (id n : Nat) (eflt : Bool) : State :=
  match tget s.engops id with
  | none => s
  | some o =>
    let last := o.counted + n = o.total
    let s1 := if last && o.bar ≠ .none then raceRelease s o.ctx else s
    let (s2, failed) := countDown s1 o n eflt
    let left := if !failed then o.counted + n
      else if isBulk o then o.counted + n + (if o.failed then 0 else o.total - readBytes s o) else o.total
    let s3 := s2.modOp id fun o => { o with counted := left, failed := o.failed || failed, lost := o.lost || failed }
    if left = o.total then finishOp s3 id else s3

/-- A taper of a BULK retires (R166, R167): its bytes counted, the BULK finished by the last. -/
def taperRetired (s : State) (x : Born) : State :=
  if !x.taper || x.closing then s
  else countBytes s x.op x.blen.toNat false

/-- SPAWN's threads placed in ascending order (R358); the rest waits. -/
def placeSpawned (s : State) (w : Wave) (entry : DWord) : List (Nat × List Word) → State × List (Nat × List Word)
  | [] => (s, [])
  | (t, regs) :: rest =>
    let th : BinThread := ⟨regs,
      { taper := false, closing := false, op := 0, bx := 0, byy := 0, bz := 0, blen := 0, bflag := 0, barg := []
        key2 := 64 + w.wid, key3 := w.spawnSeq, key4 := [t, 0, 0, 0], redd := 0 }⟩
    match placeThread s w.core w.block entry.toNat th with
    | none => (s, (t, regs) :: rest)
    | some s1 => placeSpawned s1 w entry rest

/-- SPAWN (R358): the wave's earlier accesses come before those of its spawned threads. -/
def performSpawn (s : State) (k : Nat) (w : Wave) (entry : DWord) (ls : List (Nat × List Word)) : Done :=
  let listed := match (tget s.blocks w.block).bind fun b => tget s.launches b.launch with
    | none => false
    | some l => (l.handlerGranules entry.toNat).isSome
  if !listed then .fault ⟨22, 1, none, none⟩
  else match placeSpawned (flushWave s k) w entry ls with
    | (s1, []) => .done (s1.modWave k fun w => { w with spawnSeq := w.spawnSeq + 1 })
    | (s1, rest) => .requeue s1 (.spawn entry rest) .boundary

/-! Queues. -/

/-- A queue descriptor as memory holds it (R329, R330). -/
def queueDesc (s : State) (q : Nat) : Nat := leNat (memRead s.mem (s.qtBase + 48 * q) 48)

/-- Whether a queue descriptor is uncorrectable (R440): its reader meets the error. -/
def descBad (s : State) (q : Nat) : Bool := uncorrectable s (s.qtBase + 48 * q)
def qdBase (d : Nat) : Nat := bitsOf d 56 0
def qdLsize (d : Nat) : Nat := bitsOf d 218 215
def qdQerr (d : Nat) : Nat := bitsOf d 222 219
def qdStop (d : Nat) : Bool := bitsOf d 223 223 = 1
def qdEn (d : Nat) : Bool := bitsOf d 224 224 = 1
def qdCtx (d : Nat) : Nat := bitsOf d 236 225
def qdPrio (d : Nat) : Nat := bitsOf d 239 237
def qdQuant (d : Nat) : Nat := bitsOf d 263 240
def qdWeight (d : Nat) : Nat := bitsOf d 271 264
def qdPmask (d : Nat) : Nat := bitsOf d 319 272
def qdHead (d : Nat) : Nat := bitsOf d 351 320
def qdTail (d : Nat) : Nat := bitsOf d 383 352

/-- LAUNCH (R360): the wave's earlier accesses and the copy are performed before TAIL is written; it is no release of R317 for the race
detector (log 11). -/
def performLaunch (s : State) (k : Nat) (w : Wave) (va q scope dst : Nat) : Done :=
  let give (s : State) (v : Nat) : Done := .done (s.modWave k fun w => w.setScalBoth dst (BitVec.ofNat 64 v))
  let d := queueDesc s q
  if q < 1024 && descBad s q then .fault ⟨26, 3, none, none⟩
  else if q ≥ 1024 || qdCtx d ≠ w.ctx then give s 3
  else if !qdEn d || qdStop d then give s 2
  else if (qdTail d + 2 ^ 32 - qdHead d) % 2 ^ 32 = 2 ^ qdLsize d then give s 1
  else if releaseWaits s k w true scope then .wait s none .steps
  else
    let slot := qdBase d + 192 * (qdTail d % 2 ^ qdLsize d)
    match loadOne s s k w ⟨true, true, false, none⟩ ⟨0, va, 192⟩ with
    | .error f => .fault { f with thr := none }
    | .ok (s1, image) =>
      match accessParts s s1 w .store true ⟨0, slot, 192⟩ with
      | .error f => .fault { f with thr := none }
      | .ok ps =>
        let s2 := flushWave (storeOne s1 k w ⟨0, slot, image⟩ ps) k
        give (homeWrite s2 4095 (s.qtBase + 48 * q + 44) (leBytes 4 (qdTail d + 1))) 0

end Sys2Proof.Machine
end

