-- ==== Sys2Proof/Machine/Runnable.lean ====
section
/-! DEFINITION. What waits and what has work: waves and blocks, slots and frames for clusters, the candidates of the dispatcher and
their virtual time (spec/16 R336, R339, R340, R342, R376). -/
namespace Sys2Proof.Machine

/-! Waiting waves. -/

/-- Whether a wave waits at a latch that still lacks arrivals, on its core or with its swapped-out block (R255, R256). -/
def atLatch (s : State) (w : Wave) (mask : Word) (seq : Nat) : Bool :=
  ((s.core w.core).latches ++ ((tget s.blocks w.block).map Block.latches).getD []).any fun l =>
    l.block = w.block && l.mask = mask && l.seq.toNat = seq && l.failed.isNone && l.arrivals.length < maskCount mask

/-- Whether a wave waits in VIGIL, in a held ARV, at a latch or to spawn (R342, R355, R404); with `untimed`, a timed VIGIL does not
count. -/
def waitsIn (s : State) (untimed : Bool) (k : Nat) (w : Wave) : Bool :=
  w.vresult.isNone && w.qdue = 0 &&
  ((w.wait = .vigil && ((vigilOf s k).map fun (v : Vigil) => !(untimed && v.timed)).getD false) ||
   (w.wait = .held && s.helds.any fun e => e.2.wave = k) ||
   (match w.residual with
    | [] => false
    | e :: _ => w.wait ≠ .none && w.wait ≠ .parked && (match e.op, e.stage with
      | .spawn .., _ => true
      | .mma o .., some n => atLatch s w o.mask n
      | _, _ => false)))

/-- Whether every wave of a block waits (R342, R344): it has one that has not ended. -/
def allWait (s : State) (b : Nat) : Bool :=
  let ws := (s.wavesOf b).filter fun e => e.2.wait ≠ .ended
  ws ≠ [] && ws.all fun e => waitsIn s false e.1 e.2

/-- Whether anything of a block moves without its waves, or one of its threads is a taper (R154, R342). -/
def blockWorks (s : State) (b : Nat) (x : Block) : Bool :=
  ((tvals s.engops).any fun o => o.block = b) || ((tvals (s.core x.core).bins).any fun y => y.block = b) ||
  ((s.core x.core).retbuf.any fun p => p.block = b) || x.bins ≠ [] || x.pieces ≠ [] ||
  ((s.wavesOf b).any fun e => (threads e.2.st.live).any fun t => ((tget e.2.born t).map Born.taper).getD false)

/-- Whether a block has something ready to issue, to be admitted or to retire (R342): not all of its waves wait. -/
def blockActive (s : State) (b : Nat) (x : Block) : Bool := !allWait s b || blockWorks s b x

/-! Capture units (R437, R438). -/

/-- The bin of a shifted sample (R437). -/
def binOf (v : Nat) : Nat := ((List.range 15).find? fun b => v < 2 ^ b).getD 15

/-- A capture unit with one more sample: its minimum, its maximum and its bins, which stop at 4,095. -/
def Capture.take (c : Capture) (v : Nat) : Capture :=
  let b := binOf (v / 2 ^ c.shift)
  let bins := (List.range 16).map fun i => let n := (c.bins[i]?).getD 0; if i = b then min 4095 (n + 1) else n
  { c with mn := min c.mn v, mx := max c.mx v, bins := bins }

/-- An event of a source on a die, sampled by every enabled unit of that source (R437). -/
def State.sampled (s : State) (d src v : Nat) : State :=
  { s with dies := tmod s.dies d fun x => { x with
      capture := tmap x.capture fun c => if c.en && c.src = src then c.take (v % 2 ^ 32) else c } }

/-! Reservations. -/

/-- A side without a lit wave gives up its reservation, and what was set aside for it is free again (R412). -/
def dropReservations (s : State) : State :=
  { s with cores := s.cores.map fun e =>
      let keep := e.2.reserved.filter fun i => litOf s (4 * e.1 + i) ≠ []
      (e.1, if keep = e.2.reserved then e.2
            else { e.2 with reserved := keep, aside := if keep.head? = e.2.reserved.head? then e.2.aside else 0 }) }

/-! Room for the clusters of a launch. -/

/-- Clusters of a launch (R336). -/
def Launch.clusters (l : Launch) : Nat :=
  (l.gdx / max l.clx 1) * (l.gdy / max l.cly 1) * (l.gdz / max l.clz 1)

/-- Whether the waves of a launch need private frames (R339). -/
def Launch.needsFrames (s : State) (la : Launch) : Bool := (s.ctxReg la.ctx 0x44).toNat % 2 ^ 32 ≠ 0 && la.pwlim ≠ 0

/-- The private frames that a context's waves hold (R339). -/
def framesHeld (s : State) (ctx : Nat) : List Nat :=
  s.waves.filterMap fun e => if e.2.ctx = ctx then e.2.frameNo else none

/-- The `n` lowest free frames of a context, if there are as many (R339). -/
def freeFrames (s : State) (ctx n : Nat) : Option (List Nat) :=
  let held := framesHeld s ctx
  let count := (s.ctxReg ctx 0x45).toNat % 2 ^ 32
  let l := ((List.range (min count (held.length + n))).filter fun k => !held.contains k).take n
  if l.length = n then some l else none

/-- `n` free block slots of a context, if there are as many (R376); which ones is not defined. -/
def freeSlots (s : State) (ctx n : Nat) : Option (List Nat) :=
  match tget s.ctxs ctx with
  | none => none
  | some c =>
    let start := (s.fv (fkey 17 ctx)).toNat
    let l := (((List.range (min c.bslots (c.slots.length + n))).map fun i => (start + i) % max c.bslots 1).filter
      fun k => !c.slots.contains k).take n
    if l.length = n then some l else none

/-- Whether a launch has a cluster waiting for which slots and frames are free (R339, R342, R376). -/
def Launch.clusterReady (s : State) (la : Launch) : Bool :=
  let n := la.clx * la.cly * la.clz
  la.admitted.length < la.clusters && (freeSlots s la.ctx n).isSome &&
  (!la.needsFrames s || (freeFrames s la.ctx (n * la.bdim)).isSome)

/-! The candidates of the dispatcher. -/

/-- The context of a queue exists and is not halted (R374, R386). -/
def ctxRuns (s : State) (ctx : Nat) : Bool := ((tget s.ctxs ctx).map fun (c : Ctx) => !c.halted && !c.rloss).getD false

/-- Records appended and not completed, as the dispatcher has taken them (R331). -/
def Queue.backlog (x : Queue) : Nat := (x.taken + 2 ^ 32 - qdHead x.desc) % 2 ^ 32

/-- Whether a launch has a block or a bin that is ready to be admitted or to issue (R342, R345). -/
def launchRuns (s : State) (l : Nat) : Bool :=
  ((tget s.launches l).map fun la => la.clusterReady s).getD false ||
  s.blocks.any fun e => e.2.launch = l && (e.2.status = .resident || e.2.status = .swapped) && blockActive s e.1 e.2

/-- Whether a queue has runnable work (R342): an unstarted record, or a running launch that has some. -/
def runnable (s : State) (x : Queue) : Bool :=
  (qdEn x.desc && x.backlog > (if x.running.isSome then 1 else 0)) || (x.running.map (launchRuns s)).getD false

/-- A candidate (R340): enabled, or disabled with a launch that is to run to completion (R372); not stopped; with runnable
work; its context not halted (R374). -/
def isCandidate (s : State) (x : Queue) : Bool :=
  (qdEn x.desc || x.running.isSome) && !qdStop x.desc && ctxRuns s (qdCtx x.desc) && runnable s x

/-- The least virtual time of the queues of a priority that are candidates already (R340). -/
def leastVt (s : State) (prio : Nat) : Nat :=
  match (tvals s.queues).filter fun y => y.vtIn && isCandidate s y && qdPrio y.desc = prio with
  | [] => 0
  | y :: rest => rest.foldl (fun n z => min n z.vt) y.vt

/-- The virtual time of queues that have become candidates raised (R340). It ends every step of the machine. -/
def refreshVt (s : State) : State :=
  { s with queues := tmap s.queues fun x =>
      let now := isCandidate s x
      { x with vtIn := now, vt := if now && !x.vtIn then max x.vt (leastVt s (qdPrio x.desc)) else x.vt } }

end Sys2Proof.Machine
end

