-- ==== Sys2Proof/Machine/QSys.lean ====
section
/-! DEFINITION. Queued system entries at performance: SWR and its command registers, queue control, PATCH, OPCLS
(spec/17 R371, R372, R382, spec/16 R330, R332, spec/22 R417, R425). -/
namespace Sys2Proof.Machine

/-! Queue control. -/

/-- EN, STOP and QERR written back to a descriptor (R330). -/
def writeQueueFlags (s : State) (q : Nat) (en stop : Bool) (qerr : Nat) : State :=
  let d := queueDesc s q
  let b27 := bitsOf d 218 216 + qerr % 16 * 8 + (if stop then 128 else 0)
  let b28 := bitsOf d 231 225 * 2 + (if en then 1 else 0)
  homeWrite s 4095 (s.qtBase + 48 * q + 27) [BitVec.ofNat 8 b27, BitVec.ofNat 8 b28]

/-- The dispatcher's vigil on a TAIL word taken away (R332). -/
def dropDispatcher (s : State) (q : Nat) : State :=
  let s1 := (tvals s.vigils).foldl (fun s v => if v.waiter = .dispatcher q then dropVigil s v else s) s
  { s1 with wakes := s1.wakes.filter fun w => w.waiter ≠ .dispatcher q }

/-- The dispatcher's vigil registered: `.ne` against the last TAIL taken (R332). It never fails for lack of room. -/
def watchTail (s : State) (q taken : Nat) : State :=
  let pa := s.qtBase + 48 * q + 44
  let v : Vigil :=
    { id := tfresh s.vigils, waiter := .dispatcher q, ctx := 4095, va := 48 * q + 44, loc := .mem pa, w64 := false, cmp := 1
      operand := BitVec.ofNat 64 taken, mask := 0, kind := .plain, ticket := 0, timed := false, budget := 0, pt := 0, scope := 5
      spill := none, withdraw := false }
  match registerVigil s v with
  | .answer _ value => { s with wakes := s.wakes ++ [⟨.dispatcher q, v.va, value, true, none, false, none⟩] }
  | .entry (.made s1) => s1
  | .entry _ => { s with vigils := tset s.vigils v.id v }

/-- A descriptor that enabling refuses (R330). -/
def descRefused (d : Nat) : Bool := bitsOf d 214 57 ≠ 0 || qdWeight d = 0 || qdQuant d = 0 || qdPmask d = 0

/-- Queue control (R330, R372): 0 enables, 1 disables, 2 restarts. Whether it was accepted. -/
def queueControl (s : State) (q op : Nat) : State × Bool :=
  let load (s : State) (q : Nat) : State :=
    let s1 := dropDispatcher s q
    let d := queueDesc s1 q
    let old := tget s1.queues q
    let x : Queue := { desc := d, taken := qdTail d, vt := (old.map Queue.vt).getD 0, running := old.bind Queue.running
                       vtIn := (old.map Queue.vtIn).getD false }
    watchTail { s1 with queues := tset s1.queues q x } q (qdTail d)
  let d := queueDesc s q
  match op with
  | 0 => if descRefused d then (s, false) else (load (writeQueueFlags s q true (qdStop d) (qdQerr d)) q, true)
  | 1 =>
    let s1 := dropDispatcher (writeQueueFlags s q false (qdStop d) (qdQerr d)) q
    ((match tget s1.queues q with
      | none => s1
      | some x => if x.running.isNone then { s1 with queues := terase s1.queues q }
                  else s1.modQueue q fun x => { x with desc := x.desc - bitsOf x.desc 224 224 * 2 ^ 224 }), true)
  | 2 =>
    let s1 := writeQueueFlags s q (qdEn d) false 0
    (if qdEn d then load s1 q else s1, true)
  | _ => (s, false)

/-! System registers. -/

/-- Bits that a write of a register may set, and the alignment it requires (R79, R100, R238, R281, R302, R325, R339, R366,
R367, R372): none for a number that is not written here. -/
def sysField (sysn : Nat) : Option (Nat × Nat) :=
  let addr (al : Nat) : Option (Nat × Nat) := some (2 ^ 57 - 1, al)
  let low32 : Option (Nat × Nat) := some (2 ^ 32 - 1, 1)
  match sysn with
  | 0x20 => some (31, 1)
  | 0x21 => some (31, 1)
  | 0x32 => addr 12
  | 0x40 => some (2 ^ 57 - 1 + 2 ^ 62 + 2 ^ 63, 192)
  | 0x41 => some (2 ^ 41 - 2 ^ 13 + 1, 1)
  | 0x43 => addr 49152
  | 0x44 => low32
  | 0x45 => low32
  | 0x46 => addr 192
  | 0x47 => low32
  | 0x48 => addr 192
  | 0x49 => low32
  | 0x4A => some (15, 1)
  | 0x4B => addr 49152
  | 0x4C => addr 192
  | 0x4D => some (2 ^ 64 - 1, 1)
  | 0x4E => low32
  | 0x4F => low32
  | 0x50 => some (4095, 1)
  | n => if 0x100 ≤ n && n ≤ 0x13F then some (2 ^ 64 - 1, 1)
         else if 0x141 ≤ n && n ≤ 0x147 then low32
         else if n = 0x150 then some (31, 1) else none

/-- A value that SWR refuses: a reserved bit, or a broken alignment of its address bits (R372). -/
def sysRefused (sysn : Nat) (v : DWord) : Bool :=
  match sysField sysn with
  | none => false
  | some (m, al) => v.toNat &&& m ≠ v.toNat || v.toNat % 2 ^ 57 % al ≠ 0

/-- A new RDCTL (R325): OVF is W1C, ERR is RO and cleared when EN goes from 0 to 1. -/
def rdctlWrite (old v : DWord) : DWord :=
  let ovf := old.getLsbD 2 && !v.getLsbD 2
  let err := old.getLsbD 3 && !(v.getLsbD 0 && !old.getLsbD 0)
  (v &&& 3) ||| (if ovf then 4 else 0) ||| (if err then 8 else 0)

/-- The frame's part of a wave changed by the frame registers (R371). -/
def Wave.modFrame (w : Wave) (f : WState → WState) : Wave := { w with frame := w.frame.map f }

/-- A register without further effect written. -/
def sysWrite (s : State) (k ctx sysn : Nat) (v : DWord) : State :=
  if sysn = 0x20 then s.modWave k fun w => { w with
    st := { w.st with fpstat := v.truncate 5 }, head := { w.head with fpstat := v.truncate 5 } }
  else if sysn = 0x21 then s.clearAstat ctx v
  else if sysn = 0x32 then s.modWave k fun w => { w with eres := v }
  else if sysn = 0x4A then s.setCtxReg ctx sysn (rdctlWrite (s.ctxReg ctx sysn) v)
  else if sysn < 0x100 then s.setCtxReg ctx sysn v
  else if sysn ≤ 0x13F then s.modWave k fun w => w.modFrame fun f => f.setS (sysn - 0x100) v
  else if sysn ≤ 0x147 then s.modWave k fun w => w.modFrame fun f => f.setP (sysn - 0x140) (v.truncate 32)
  else s.modWave k fun w => w.modFrame fun f => { f with fpstat := v.truncate 5 }

/-- A translation invalidation begun (R89). -/
def startInval (s : State) (ctx base count : Nat) (wave : Option Nat) (reply : Option Msg) : State × Nat :=
  let id := (s.xlinvs.map XlInv.id).foldl (fun n i => max n (i + 1)) 0
  ({ s with xlinvs := s.xlinvs ++ [⟨id, ctx, base, count, wave, reply⟩] }, id)

/-- SWR (R372). XLINV and XLBASE wait for their invalidation. -/
def performSwr (s : State) (k : Nat) (w : Wave) (e : QEntry) (sysn : Nat) (a b : DWord) : Done :=
  let bad : Done := .fault ⟨2, 4, none, none⟩
  match e.stage with
  | some id => if s.xlinvs.any fun x => x.id = id then .wait s (some id) .inval else .done s
  | none =>
    if sysn = 0x42 then
      if a.toNat ≥ 2 ^ 42 then bad
      else
        let (s1, id) := startInval s w.ctx a.toNat (b.toNat % 2 ^ 32) (some k) none
        .wait s1 (some id) .inval
    else if sysRefused sysn a then bad
    else if sysn = 0x41 then
      let (s1, id) := startInval (s.setCtxReg w.ctx sysn a) w.ctx 0 0 (some k) none
      .wait s1 (some id) .inval
    else if sysn = 0x50 then
      let q := a.toNat % 1024
      if descBad s q then .fault ⟨26, 3, none, none⟩
      else if qdCtx (queueDesc s q) ≠ w.ctx || a.toNat / 1024 = 3 then .fault ⟨2, 5, none, none⟩
      else .done (queueControl s q (a.toNat / 1024)).1
    else .done (sysWrite s k w.ctx sysn a)

/-! PATCH and OPCLS. -/

/-- The first page fault over a range of bytes. -/
def rangeFault (s : State) (core ctx va n : Nat) (acc : Acc) : Option Fail :=
  if n = 0 then none
  else (List.range (pageNo (va + n - 1) + 1 - pageNo va)).findSome? fun i =>
    let a := if i = 0 then va else (pageNo va + i) * pageBytes
    match xlate s (.core core) ctx a acc with
    | .error e => some (pageFail e a)
    | .ok _ => none

/-- PATCH (R382): the checks; then the boundary waits, dark, for the patch engine. -/
def performPatch (s : State) (w : Wave) (e : QEntry) (dst src cnt : DWord) : Done :=
  let n := cnt.toNat % 2 ^ 32
  let d := dst.toNat
  let a := src.toNat
  match e.stage with
  | some 1 => .wait s (some 1) .patch
  | some _ => .done s
  | none =>
    if d % 12 ≠ 0 || n > 65536 then .fault ⟨29, 1, none, none⟩
    else if a < d + 12 * n && d < a + 12 * n then .fault ⟨29, 2, none, none⟩
    else match rangeFault s w.core w.ctx d (12 * n) .fetch with
      | some f => .fault f
      | none => match rangeFault s w.core w.ctx a (12 * n) .load with
        | some f => .fault f
        | none => match (partsOf a (12 * n)).find? fun x => (match xlate s (.core w.core) w.ctx x.1 .load with
            | .error _ => false
            | .ok y => uncorrectable s y.pa) with
          | some x => .fault ⟨26, 3, none, some (BitVec.ofNat 64 x.1)⟩
          | none => if n = 0 then .done s else .wait s (some 1) .patch

/-- Waves that hold a place on a quad. -/
def quadWaves (s : State) (q : Nat) : Bool :=
  s.waves.any fun e => quadOfCore e.2.core = q && s.residentBlock e.2.block

/-- A quad moved to another pool (R417). -/
def moveQuad (s : State) (q cls : Nat) : State :=
  let x := s.quad q
  if x.cls = cls then s else s.setQuad q { x with cls := cls, chg := 1 }

/-- OPCLS (R425). -/
def performOpcls (s : State) (k : Nat) (w : Wave) (kk m : DWord) (dst : Nat) : Done :=
  let give (s : State) (code moved : Nat) : Done :=
    .done (s.modWave k fun w => w.setScalBoth dst (BitVec.ofNat 64 (code * 2 ^ 61 + moved)))
  let quads := (List.range 48).filter fun q => m.getLsbD q
  let cls := kk.toNat
  if cls ≥ 8 || m.toNat ≥ 2 ^ 48 then give s 4 0
  else if quads.any fun q => cls < (s.quad q).vfloor then give s 1 0
  else if quads.any fun q => cls > (s.quad q).vceil then give s 2 0
  else
    let queue := ((s.launchOf w).map Launch.queue).getD 0
    let pmask := ((tget s.queues queue).map fun x => qdPmask x.desc).getD 0
    let free (s : State) (q : Nat) : Bool := pmask / 2 ^ q % 2 = 1 && !quadWaves s q &&
      (match (s.quad q).grant with
       | none => true
       | some g => g = queue)
    let (s1, moved) := quads.foldl (fun (acc : State × Nat) q =>
      if free acc.1 q then (moveQuad acc.1 q cls, acc.2 + 2 ^ q) else acc) (s, 0)
    give s1 (if moved = m.toNat then 0 else 3) moved

end Sys2Proof.Machine
end

