-- ==== Sys2Proof/Machine/Boundary.lean ====
section
/-! DEFINITION. The strand boundary (spec/08 R175): every queued entry performed in order, waiting and resuming (R150, R182),
and the own effects of the boundary instructions EXIT, TEND, YIELD, TRAP, BKPT, HALT, ERET and VIGIL (spec/09 R224 to R226,
spec/07 R167, spec/17 R373 to R375, spec/13 R290, R291). -/
namespace Sys2Proof.Machine

/-- One entry performed (R175 step 3). -/
def performOp (s : State) (k : Nat) (w : Wave) (e : QEntry) : Done :=
  match e.op with
  | .nothing => .done s
  | .store _ rel scope lanes => performStore s k w rel scope lanes
  | .storeLayout lanes => performStp s k w lanes
  | .tileStore h lvl lanes => performTst s w h lvl lanes
  | .tileFree h lvl => performTfree s w h lvl
  | .laySet h record => performLayset s k w h record
  | .sealRange base lines dst uni => performSeal s k w e base lines dst uni
  | .unsealRange base lines dst uni => performUnseal s k w e base lines dst uni
  | .bulk h scope ps args => performBulk s k w h scope ps args
  | .bcopy h tile lvl scope st bar origin => performBcopy s k w h tile lvl scope st bar origin
  | .kick tile lvl first n => performKick s k w tile lvl first n
  | .kickRest rs => acceptRecords s k w rs
  | .spawn entry lanes => performSpawn s k w entry lanes
  | .launch va q scope dst => performLaunch s k w va q scope dst
  | .mbeg => performMbeg s k w
  | .mend => performMend s k w
  | .mma o chain ord => performMma s k w e o chain ord
  | .mzero tc chain => performStep s k w e (maTileFault s w.block tc none) chain true false []
  | .mwr tc rc _ fc _ chain => performStep s k w e (maTileFault s w.block tc (some (fc, rc))) chain true false []
  | .mscl tc rc fc _ _ chain => performStep s k w e (maTileFault s w.block tc (some (fc, rc))) chain true true []
  | .wake va n scope => performWake s k w va n scope
  | .wakeq va v w64 n scope => performWakeq s k w va v w64 n scope
  | .arv ref bytes scope dst pr => performArv s k w e ref bytes scope dst pr
  | .binit ref reload => performBinit s k w ref reload
  | .atomic which op pk w64 rnd scope ord dst uni lanes => performAtomic s k w which op pk w64 rnd scope ord dst uni lanes
  | .dtok => performDtok s k w
  | .fence kind scope => performFence s k w kind scope
  | .swr n a b => performSwr s k w e n a b
  | .patch _ dst src cnt => performPatch s w e dst src cnt
  | .opcls kk m dst => performOpcls s k w kk m dst

/-- The far registers of a list, by index. -/
def farRefs (l : List RegRef) : List Nat := l.filterMap fun r => if r.1 = 2 then some r.2 else none

/-- Absent granules that a list of registers touches (R188). -/
def absentOf (w : Wave) (l : List RegRef) : List Nat :=
  (farRefs l).filterMap (fun r => if w.absent.contains (r / 16) then some (r / 16) else none) |>.eraseDups

/-- Absent granules filled one after another. -/
def fillAll (s : State) (k : Nat) : List Nat → Fill
  | [] => .filled s
  | g :: rest =>
    match fillGranule s k g with
    | .filled s1 => fillAll s1 k rest
    | r => r

/-- How the performing of a residual queue ended. -/
inductive Drain where
  | finished (s : State)
  | stopped (s : State)

/-- The wave waits in step 3 of its boundary, dark (R150): its first entry keeps what was accepted. -/
def waitAt (s : State) (k : Nat) (e : QEntry) (why : Wait) : State :=
  s.modWave k fun w => { w.darken with residual := e :: w.residual.drop 1, wait := why }

/-- Whether each of some bytes of memory lies on an RC or UO page, on which plain accesses to other bytes may pass one another (R314, R315);
their places. -/
def passingPlaces (s : State) (w : Wave) (acc : Acc) (ls : List (Nat × Nat)) : Option (List (Nat × Nat)) :=
  (ls.flatMap fun l => partsOf l.1 l.2).foldr (fun p l => match xlate s (.lsu w.core) w.ctx p.1 acc, l with
    | .ok x, some l => if pteOrd x.pte = 0 || ptePriv x.pte then none else some ((x.pa, p.2) :: l)
    | _, _ => none) (some [])

/-- The bytes that a plain store or atomic reaches, where other accesses may pass it; a plain ATOM alone with `atom`. -/
def passing (s : State) (w : Wave) (atom : Bool) (op : QOp) : Option (List (Nat × Nat)) :=
  match op with
  | .store _ rel _ lanes => if rel || atom then none else passingPlaces s w .store (lanes.map fun l => (l.va, l.bytes.length))
  | .atomic which op pk w64 _ _ ord _ _ ls =>
    if ord ≠ 0 || (which = 2 && s.isDet w) || (atom && which ≠ 0) then none
    else passingPlaces s w .atomic (ls.map fun l => (l.va, atomBytes op pk w64))
  | _ => none

/-- A plain ATOM overtaken (R314): the wave's next plain access to other bytes is performed before it, by a free choice, and the boundary
waits for the ATOM. A store or a RED that is overtaken has only been sent. -/
def overtaken (s : State) (k : Nat) (w : Wave) (e : QEntry) : Option State :=
  match w.residual with
  | _ :: y :: more =>
    (match passing s w true e.op, passing s w false y.op with
     | some a, some b =>
       if y.stage.isNone && absentOf w y.dsts = [] && !(e.dsts.any fun r => y.dsts.contains r) &&
         !(a.any fun p => b.any fun q => bytesMeet p.1 p.2 q.1 q.2) && s.fbool (fkey 29 (vlim + e.pc.toNat)) then
         (match performOp s k w y with
          | .done s1 => some (s1.modWave k fun w => { w.darken with residual := e :: more, wait := .boundary })
          | _ => none)
       else none
     | _, _ => none)
  | _ => none

/-- The residual queue performed in program order, until it is empty, an entry waits, or one fails (R175, R182). What is not defined may
differ from entry to entry (R9, R88): each has free values of its own. -/
def drain (k : Nat) : Nat → State → Drain
  | 0, s => .stopped s
  | fuel + 1, s =>
    match s.wave k with
    | none => .stopped s
    | some w =>
      match w.residual with
      | [] => .finished s
      | e :: _ =>
        let s := { s with free := s.free + 1 }
        if !s.blockRuns w.block then .stopped s else
        match fillAll s k (absentOf w e.dsts) with
        | .failed s1 => .stopped s1
        | .bad s1 va =>
          .stopped (trapAtPerform s1 k { (s1.wave k).getD w with wait := .none } e.pc ⟨26, 2, none, some (BitVec.ofNat 64 va)⟩)
        | .filled s =>
        let w := (s.wave k).getD w
        match performOp s k w e with
        | .done s1 =>
          match overtaken s k w e with
          | some s2 => .stopped s2
          | none => drain k fuel (s1.modWave k fun w => { w with residual := w.residual.drop 1 })
        | .wait s1 stage why => .stopped (waitAt s1 k { e with stage := stage } why)
        | .requeue s1 op why => .stopped (waitAt s1 k { e with op := op } why)
        | .fault f => .stopped (trapAtPerform s k { w with wait := .none } e.pc f)
        | .faultIn s1 f =>
          match s1.wave k with
          | none => .stopped s1
          | some w1 =>
            .stopped (trapAtPerform s1 k { w1 with wait := .none, residual := { e with stage := none } :: w1.residual.drop 1 } e.pc f)

/-! The end of threads and waves. -/

/-- The stack resolved while EXEC is empty (R224). -/
def resolveStack (st : WState) : List DEntry → WState
  | [] => { st with dstack := [] }
  | e :: rest =>
    if e.pmask &&& st.live ≠ 0 then
      { st with exec := e.pmask &&& st.live, pc := e.ppc, dstack := { e with pmask := 0 } :: rest }
    else
      let ex := e.saved &&& st.live
      let st1 := { st with exec := ex, pc := e.jpc, dstack := rest }
      if ex = 0 then resolveStack st1 rest else st1

/-- Threads retired: LIVE, EXEC and every SAVED and PMASK lose them (R225). -/
def retireThreads (st : WState) (x : Word) : WState :=
  let st1 := { st with
    live := st.live &&& ~~~x, exec := st.exec &&& ~~~x
    dstack := st.dstack.map fun e => { e with saved := e.saved &&& ~~~x, pmask := e.pmask &&& ~~~x } }
  if st1.exec = 0 then resolveStack st1 st1.dstack else st1

/-- A wave whose LIVE is empty has ended (R225): its private frame is released (R101, R339). A wave formed from a bin frees its
place at once (R24). -/
def endWave (s : State) (k : Nat) (w : Wave) : State :=
  let s := settleAccesses s k
  let s1 :=
    if w.isBin then retryBins (s.eraseWave k) w.core
    else latchesLost ((dropPrivate s k w).setWave k { w.darken with wait := .ended, be := none, residual := [], frameNo := none }) w
  match tget s1.blocks w.block with
  | none => s1
  | some b => tokenRun s1 b.launch

/-- The active threads of EXIT or TEND retire, each taper counting its bytes first, after every queued effect of its wave has been
performed (R167, R225). -/
def retireActive (s : State) (k : Nat) (w : Wave) (x : Word) : State :=
  let born := (threads x).filterMap fun t => tget w.born t
  let s0 := if born.any fun y => y.taper && !y.closing then flushWave s k else s
  let s1 := born.foldl taperRetired s0
  match s1.wave k with
  | none => s1
  | some w1 =>
    let w2 := ({ w1 with st := retireThreads w1.st x } : Wave).recordHead
    if w2.st.live = 0 then endWave s1 k w2 else s1.setWave k w2

/-! VIGIL. -/

/-- Fields of a VIGIL (R285). -/
def vigilBar (f : FmtM) : Bool := f.ofs.getLsbD 0
def vigilCmp (f : FmtM) : Nat := f.sub.toNat / 16
def vigilW64 (f : FmtM) : Bool := f.sub.getLsbD 3
def vigilPt (f : FmtM) : Nat := f.sub.toNat % 8

/-- The word or barrier that a VIGIL names, with the checks of R291 in their order. -/
def vigilPlace (s : State) (w : Wave) (f : FmtM) : Except Fail (WLoc × Nat) :=
  let a := w.st.s f.a.idx.toNat
  let word (va : Nat) : Except Fail (WLoc × Nat) :=
    match xlate s (.core w.core) w.ctx va .load with
    | .error 7 => .error ⟨18, 3, none, some (BitVec.ofNat 64 va)⟩
    | .error n => .error (pageFail n va)
    | .ok p => .ok (.mem p.pa, va)
  if vigilBar f then
    match parseBar s w.block a with
    | none | some .none => .error ⟨19, 1, none, none⟩
    | some (.mem va) => word va
    | some (.tile h e) => match findTile s w.block h with
      | none => .error ⟨19, 1, none, none⟩
      | some (id, _) => .ok (.tile id (16 * e), 0)
  else
    let n := if vigilW64 f then 8 else 4
    if !canonical (a.toNat + n - 1) then .error ⟨3, 1, none, some a⟩
    else if a.toNat % n ≠ 0 then .error ⟨4, 1, none, some a⟩
    else word a.toNat

/-- The entry that a VIGIL would make (R275, R285, R287). -/
def vigilEntry (s : State) (k : Nat) (w : Wave) (f : FmtM) (loc : WLoc) (va : Nat) : Vigil :=
  let b := f.b.idx.toNat
  let v := w.st.s b
  let kind : VKind := if vigilBar f then (if v.getLsbD 16 then .drain else .phase) else if f.byp then .queue else .plain
  { id := tfresh s.vigils, waiter := .wave k, ctx := w.ctx, va := va, loc := loc, w64 := vigilW64 f, cmp := vigilCmp f
    operand := v, mask := w.st.s (b + 1), kind := kind, ticket := 0, timed := vigilPt f ≠ 0
    budget := (w.st.s (b + 2)).toNat % 2 ^ 32, pt := vigilPt f, scope := f.scope.toNat, spill := none, withdraw := false }

/-- A VIGIL's result (R290): D, the predicate, also in the head record; the acquire, which a UO page does not have. -/
def vigilResult (s : State) (k core : Nat) (p : VPend) (flag : Bool) (value : DWord) : State :=
  let s1 := s.modWave k fun w =>
    let w1 := w.setScalBoth p.dst value
    if p.pt = 0 then w1 else w1.setFlagBoth p.pt flag
  if p.orders then acquireAt s1 k core p.scope true else raceAcquire s1 k true

/-- The VIGIL that a wave performs, as its return needs it. -/
def vigilPend (s : State) (w : Wave) (f : FmtM) (loc : WLoc) (va : Nat) (pc : DWord) : VPend :=
  ⟨f.d.idx.toNat, vigilPt f, f.scope.toNat, pc.toNat, match loc with
    | .tile .. => true
    | .mem _ => (match xlate s (.core w.core) w.ctx va .load with
      | .ok p => pteOrd p.pte ≠ 2
      | .error _ => true)⟩

/-- What a VIGIL's own access to its word leaves: its wave's sent writes to it performed (R314), the translation used. -/
def vigilTouch (s : State) (k : Nat) (w : Wave) (loc : WLoc) (va n : Nat) : State :=
  match loc with
  | .tile .. => s
  | .mem pa =>
    let s1 := forgetEarly (flushOwn s k pa n) fun y => y.wave = k && y.sector = pa / 48
    match xlate s (.core w.core) w.ctx va .load with
    | .ok p => useRead s1 (.core w.core) w.ctx va p
    | .error _ => s1

/-- A registration that fails, an uncorrectable word included (R291, R440). -/
def vigilBad (s : State) (loc : WLoc) (n : Nat) : Bool :=
  match loc with
  | .mem pa => uncorrectable s pa
  | .tile id off => tileWordsBad s id off n

/-- VIGIL's own effect (R290): the test or registration, in one step at the home. -/
def vigilEffect (s : State) (k : Nat) (w : Wave) (f : FmtM) (pc : DWord) : State :=
  if w.st.act f.h = 0 then s
  else match vigilPlace s w f with
    | .error e => trapAtVigil s k w e pc
    | .ok (loc, va) =>
      let v := vigilEntry s k w f loc va
      let p := vigilPend s w f loc va pc
      if vigilBad s loc v.width then trapAtVigil s k w ⟨26, 3, none, some (BitVec.ofNat 64 va)⟩ pc
      else match registerVigil (vigilTouch s k w loc va v.width) v with
        | .answer flag value => vigilResult (vigilTouch s k w loc va v.width) k w.core p flag value
        | .entry (.made s1) => s1.modWave k fun w => { w.darken with
            wait := .vigil, vpend := some p, vresult := none, waited := 0 }
        | .entry .full => s.modWave k fun w => { w.darken with wait := .boundary, be := some (.vigil f, pc) }
        | .entry (.fault e) => trapAtVigil s k w e pc

/-! The boundary. -/

/-- TRAP, BKPT and HALT after their boundary (R373, R374). -/
def raiseCode (s : State) (k : Nat) (w : Wave) (h : Hdr) (cause : Nat) (code : BitVec 16) (pc : DWord) : State :=
  let act := w.st.act h
  if act = 0 then s
  else takeTrap s k w ⟨cause, 0, 0, some (lowestThread act), pc, pc + 12, code.zeroExtend 64⟩

/-- The own effect of a boundary instruction (R175), once its queue has been performed. -/
def ownEffect (s : State) (k : Nat) (w : Wave) (i : Instr) (pc : DWord) : State :=
  match i with
  | .exit f => retireActive s k w (w.st.act f.h)
  | .tend f => retireActive s k w (w.st.act f.h)
  | .yield _ => if (s.side w.side).lighting = [] then s else s.modWave k fun w => { w with victim := true }
  | .trap f => raiseCode s k w f.h 24 f.sysn pc
  | .bkpt f => raiseCode s k w f.h 25 f.sysn pc
  | .halt f => raiseCode s k w f.h 28 0 pc
  | .eret f =>
    let w1 := eretRestore w (f.sub.getLsbD 1) (f.sub.getLsbD 2)
    if f.sub.getLsbD 0 then
      escalate s k w1 (bitsOf w.ecause.toNat 31 24) (bitsOf w.ecause.toNat 23 20) w.ecause w.epc w.eaddr
    else s.setWave k w1
  | .vigil f => vigilEffect s k w f pc
  | _ => s

/-- A wave that can run again: one that became dark joins its lighting queue; a lit victim gives up its slot (R350). -/
def settle (s : State) (k : Nat) : State :=
  match s.wave k with
  | none => s
  | some w =>
    if w.wait ≠ .none || !s.blockRuns w.block then s
    else
    let s := noteBusy s w.block
    if !w.lit then lightOrQueue s k
    else if w.victim then joinLighting (s.setWave k w.darken) k
    else s

/-- The rest of a boundary: the residual queue, step 4, the pending own effect (R175, R182); once more when ERET restored a
residual queue or a pending effect (R375). Where an entry stopped the block (R442) the rest is left for its return. -/
def finishBoundary (k : Nat) : Nat → State → State
  | 0, s => s
  | fuel + 1, s =>
    match s.wave k with
    | none => s
    | some w =>
      match drain k (w.residual.length + 1) (s.setWave k { w with wait := .none }) with
      | .stopped s1 => s1
      | .finished s1 =>
        match s1.wave k with
        | none => s1
        | some w1 =>
          if !s1.blockRuns w1.block then s1 else
          match w1.be with
          | none => s1.setWave k w1.afterBoundary
          | some (i, pc) =>
            let w2 := { w1.afterBoundary with be := none }
            let s2 := ownEffect (s1.setWave k w2) k w2 i pc
            match s2.wave k with
            | none => s2
            | some w3 =>
              if w3.wait = .boundary && (match i with
                | .eret _ => true
                | _ => false) then finishBoundary k fuel s2
              else s2

/-- The threads of a wave formed from a bin that retire may be those that contributions wait for (R402). -/
def tokenAfter (s : State) (w : Wave) : State :=
  if !w.isBin then s
  else match tget s.blocks w.block with
    | none => s
    | some b => tokenRun s b.launch

/-- What follows the end of threads. -/
def afterEnd (w : Wave) (i : Instr) (s : State) : State :=
  match i with
  | .exit _ => tokenAfter s w
  | .tend _ => tokenAfter s w
  | _ => s

/-- A boundary instruction issued (R175): steps 1 and 2 as one, then the queue, whose depth the monitors sample (R438). -/
def boundary (s : State) (k : Nat) (w : Wave) (i : Instr) (mask : Word) : State :=
  let pc := w.st.pc
  let w1 := { w.newHead mask (pc + 12) with residual := w.queue, queue := [], be := some (i, pc), parity := 0 }
  afterEnd w i (State.sampled (settle (finishBoundary k 3 (s.setWave k w1)) k) (dieOfCore w.core) 5 w.queue.length)

/-- What a wave still has to do at its boundary, by PC. -/
def pendingOf (s : State) (k : Nat) : Option (List DWord × Option DWord) :=
  (s.wave k).map fun w => (w.residual.map QEntry.pc, w.be.map Prod.snd)

/-- A boundary that waited proceeds as far as it can (R150, R182). A wave that gets on did not wait meanwhile (R344, R355). -/
def resumeBoundary (s : State) (k : Nat) : State :=
  let t := finishBoundary k 3 s
  match s.wave k with
  | none => t
  | some w =>
    let t1 := settle (if pendingOf t k = pendingOf s k then t else noteBusy t w.block) k
    match w.be with
    | none => t1
    | some (i, _) => afterEnd w i t1

end Sys2Proof.Machine
end

