-- ==== Sys2Proof/Machine/Issue.lean ====
section
/-! DEFINITION. Issue: fetch (spec/03 R40, spec/17 R383), choice of the wave (spec/16 R349, spec/22 R411, R412), the checks
that precede an instruction's own meaning (spec/03 R65, spec/17 R363, spec/08 R178 to R180, R188), and the frames that every
instruction of class P, Q and B shares (spec/03 R58, R59, R67). -/
namespace Sys2Proof.Machine

/-! Lumens. -/

/-- Lumens that one budget unit buys at a class (R416). -/
def lumensPerUnit (cls : Nat) : Nat :=
  match cls with
  | 0 => 6267
  | 1 => 5493
  | 2 => 4879
  | 3 => 4352
  | 4 => 3906
  | 5 => 3525
  | 6 => 3122
  | _ => 2785

/-- The clock of a class in MHz, which is its cycles in a microsecond (R416). -/
def clockMHz (cls : Nat) : Nat :=
  match cls with
  | 0 => 1100
  | 1 => 1300
  | 2 => 1500
  | 3 => 1750
  | 4 => 2000
  | 5 => 2150
  | 6 => 2300
  | _ => 2400

/-- The accounts count in fractions of a lumen at class 4, exactly: the product of the other rates (R421, R426). -/
def energyUnit : Nat := 6267 * 5493 * 4879 * 4352 * 3525 * 3122 * 2785

/-- `n` lumens of a class at class 4 value, in fractions (R421). -/
def energyOf (cls n : Nat) : Nat := if cls = 4 then n * energyUnit else n * 3906 * (energyUnit / lumensPerUnit cls)

/-- An eighth of a quad's peak (R420): P is 4 × 32 lumens for each rotation of a microsecond. -/
def peakEighth (cls : Nat) : Nat := 4 * clockMHz cls

/-- Lumens of its core's ring that a side may take (R412): a side other than the reserved one takes none set aside. -/
def ringFree (s : State) (side : Nat) : Nat :=
  let c := s.core (coreOfSide side)
  if c.reserved.head? = some (side % 4) then c.lumens else c.lumens - c.aside

/-- Whether a side can take a price now (R411): the ring has still to pass it in this rotation, and holds the lumens. -/
def canTake (s : State) (side price : Nat) : Bool :=
  price = 0 || ((s.core (coreOfSide side)).pass ≤ side % 4 && price ≤ ringFree s side)

/-- The price taken as the ring passes the side (R410, R411). -/
def takeLumens (s : State) (ctx side price : Nat) : State :=
  if price = 0 then s
  else
    let c := s.core (coreOfSide side)
    let s1 := s.setCore (coreOfSide side) { c with lumens := c.lumens - price, pass := side % 4 + 1 }
    let qn := quadOfCore (coreOfSide side)
    let q := s1.quad qn
    let s2 := s1.setQuad qn { q with
      used := q.used + price, ctxUsed := tset q.ctxUsed ctx ((tget q.ctxUsed ctx).getD 0 + price) }
    s2.modCtx ctx fun c => { c with energy := c.energy + energyOf q.cls price }

/-! Fetch. -/

/-- The instruction at a wave's PC (R40): through its core's instruction cache or from the home slice, and which is not defined
(R383). -/
def fetch (s : State) (w : Wave) : Except Fail (State × Instr) :=
  let pc := w.st.pc.toNat
  match xlate s (.core w.core) w.ctx pc .fetch with
  | .error n => .error (pageFail n pc)
  | .ok p =>
    let c := s.core w.core
    let line := p.pa / 192
    let s1 := useXlat s (.core w.core) w.ctx pc p.x
    let home : Except Fail (State × Instr) :=
      if uncorrectable s p.pa then .error ⟨26, 3, none, some w.st.pc⟩
      else
        let s2 := homeFill s1 (pteCmp p.pte) p.pa
        let whole := (List.range 4).all fun i => !uncorrectable s (line * 192 + 48 * i)
        .ok (if whole then s2.setCore w.core { s2.core w.core with icache := tset c.icache line (memRead s.mem (line * 192) 192) } else s2,
          decode (BitVec.ofNat 96 (leNat (memRead s.mem p.pa 12))))
    match tget c.icache line with
    | none => home
    | some bs =>
      if bs = memRead s.mem (line * 192) 192 && !uncorrectable s p.pa then home
      else if s.fbool (fkey 15 line) then .ok (s1, decode (BitVec.ofNat 96 (leNat ((bs.drop (p.pa % 192)).take 12)))) else home

/-- The price of a wave's next instruction; a fetch that fails has none. -/
def nextPrice (s : State) (w : Wave) : Nat :=
  match fetch s w with
  | .error _ => 0
  | .ok (_, i) => priceOf i

/-- Whether a queued step of the block names an accumulator tile, so that an MRD of it does not issue (R260). -/
def mrdHeld (s : State) (w : Wave) (tc : Nat) : Bool :=
  (s.core w.core).steps.any fun st => st.block = w.block && matTile st.op = some tc

/-- Whether a wave's next instruction is an MRD that waits for steps (R260, R349). -/
def unitBusy (s : State) (w : Wave) : Bool :=
  match fetch s w with
  | .ok (_, .mrd f) => mrdHeld s w f.tc.toNat && !(w.queue.any fun e => matTile e.op = some f.tc.toNat)
  | _ => false

/-- Whether a wave is lit and waits for nothing in a block that runs (R172, R345). -/
def isLit (s : State) (w : Wave) : Bool := w.lit && w.wait = .none && s.blockRuns w.block

/-- Whether a wave may issue: its fetch is not held by a patch, its unit is free (R349, R383). -/
def canIssue (s : State) (k : Nat) (w : Wave) : Bool := isLit s w && !(s.patches.any fun p => p.2.parks k w) && !unitBusy s w

/-- The order of R349 and R412: starved waves first, then by admission, number in the cluster, %wid. -/
def issueBefore (s : State) (a b : Nat × Wave) : Bool :=
  let num (w : Wave) : Nat := ((tget s.blocks w.block).map Block.inCluster).getD 0
  let key (w : Wave) : List Nat := [if w.starved then 0 else 1, w.admitted, num w, w.wid]
  !keyLt (key b.2) (key a.2)

/-- Of several waves, those whose operands are ready (R349): the spec gives no latencies, so a free choice; where it leaves none,
all of them (DESIGN CHOICE, log 2). -/
def operandsReady (s : State) (l : List (Nat × Wave)) : List (Nat × Wave) :=
  match l with
  | [] => []
  | [a] => [a]
  | a :: b :: rest =>
    let r := (a :: b :: rest).filter fun e => !s.fbool (fkey 23 e.1)
    if r.isEmpty then a :: b :: rest else r

/-- The waves that a side may choose, first choice first. -/
def candidates (s : State) (side : Nat) : List (Nat × Wave) :=
  operandsReady s (sortBy (issueBefore s) (s.waves.filter fun e => e.2.side = side && canIssue s e.1 e.2))

/-- Whether a candidate's lumens are there: only the first choice takes those set aside for its side (R412). -/
def affordable (s : State) (side : Nat) (first : Bool) (w : Wave) : Bool :=
  let p := nextPrice s w
  canTake s side p && (first || p = 0 || p ≤ (s.core (coreOfSide side)).lumens - (s.core (coreOfSide side)).aside)

/-- The wave that a side issues from (R349), and whether its first choice is held for lumens only (R412, R423). -/
def pick (s : State) (side : Nat) : Option Nat × Bool :=
  match candidates s side with
  | [] => (none, false)
  | a :: rest =>
    if affordable s side true a.2 then (some a.1, false)
    else ((rest.find? fun e => affordable s side false e.2).map Prod.fst, true)

/-! The checks before an instruction's own meaning. -/

/-- PL, readable, writable of a system number (R371); none for an unassigned one. -/
def sysInfo (n : Nat) : Option (Bool × Bool × Bool) :=
  if n = 0x01 || n = 0x02 || n = 0x08 then some (false, true, false)
  else if n = 0x20 || n = 0x21 then some (false, true, true)
  else if n = 0x30 || n = 0x31 || n = 0x33 then some (true, true, false)
  else if n = 0x42 || n = 0x50 then some (true, false, true)
  else if n = 0x32 || (0x40 ≤ n && n ≤ 0x4F) || (0x100 ≤ n && n ≤ 0x13F) || (0x141 ≤ n && n ≤ 0x147) || n = 0x150 then
    some (true, true, true)
  else none

/-- The privilege fault of an access to a system number (R363). -/
def sysFail (pl1 write : Bool) (n : Nat) : Option Nat :=
  match sysInfo n with
  | none => some 3
  | some (pl, rd, wr) => if pl && !pl1 then some 2 else if (write && !wr) || (!write && !rd) then some 4 else none

/-- The privilege checks (R363). -/
def privSub (pl1 : Bool) (i : Instr) : Option Nat :=
  match i with
  | .eret _ | .patch _ | .halt _ => if pl1 then none else some 1
  | .srd f => sysFail pl1 false f.sysn.toNat
  | .swr f => sysFail pl1 true f.sysn.toNat
  | _ => none

/-- Whether two lists of registers meet. -/
def regsMeet (a b : List RegRef) : Bool := a.any fun r => b.contains r

/-- The checks at issue in their order: decode (R65), privilege (R363), pending registers (R179), far-read bits (R178). -/
def issueFail (w : Wave) (i : Instr) : Option Fail :=
  match illegalSub w.farRegs w.st.pl1 i with
  | some n => some ⟨1, n, none, none⟩
  | none =>
    match privSub w.st.pl1 i with
    | some n => some ⟨2, n, none, none⟩
    | none =>
      if regsMeet (readsOf i) w.pending then some ⟨11, 1, none, none⟩
      else if clsOf i = .p && regsMeet (writesOf i) w.pending then some ⟨11, 2, none, none⟩
      else if clsOf i = .p && (farRefs (writesOf i)).any fun r => w.farRead.contains r || (farRefs (readsOf i)).contains r then
        some ⟨10, 1, none, none⟩
      else none

/-- Whether an uncorrectable error stands in a far register that the instruction reads (R440). -/
def farBad (s : State) (k : Nat) (i : Instr) : Bool := (farRefs (readsOf i)).any fun r => s.errs.contains (.far k r)

/-- What the checks leave: the instruction goes on, or it ends here. -/
inductive Pre where
  | go (s : State) (w : Wave)
  | stop (s : State)

/-- The common beginning of every instruction: its lumens, its checks, its absent granules. -/
def prologue (s : State) (k : Nat) (w : Wave) (i : Instr) : Pre :=
  if !canTake s w.side (priceOf i) then
    let x := s.side w.side
    .stop (s.setSide w.side { x with deniedNow := true })
  else
    let s1 := takeLumens s w.ctx w.side (priceOf i)
    match issueFail w i with
    | some f => .stop (trapAtIssue s1 k w f)
    | none =>
      match fillAll s1 k (absentOf w (readsOf i ++ writesOf i)) with
      | .bad s2 va => .stop (trapAtIssue s2 k ((s2.wave k).getD w) ⟨26, 2, none, some (BitVec.ofNat 64 va)⟩)
      | .failed s2 => .stop s2
      | .filled s2 =>
        match s2.wave k with
        | none => .stop s2
        | some w2 =>
          if farBad s2 k i then .stop (trapAtIssue s2 k w2 ⟨26, 3, none, none⟩) else .go s2 w2

/-- How an instruction's own part ends: done, done with the PC set, or a trap at issue. -/
inductive Eff where
  | next (s : State)
  | jump (s : State)
  | trap (f : Fail)

/-- The end of an issued instruction: the PC, the far-read bits (R178); far registers written in every live thread hold no error
any more (R440). A wave whose block the access has stopped (R440, R442) was rolled back and stays at its head. -/
def issued (s : State) (k : Nat) (i : Instr) (advance : Bool) : State :=
  match s.wave k with
  | none => s
  | some w =>
    let far := farRefs (readsOf i)
    if !w.lit then s else
    let s1 := s.setWave k { w with
      farRead := w.farRead ++ far.filter (fun r => !w.farRead.contains r)
      st := { w.st with pc := if advance then w.st.pc + 12 else w.st.pc } }
    let full := advance && clsOf i = .p && (match Instr.hdr i with
      | some h => w.st.act h = w.st.live
      | none => false)
    if full && s.errs ≠ [] then { s1 with errs := s1.errs.filter fun l => match l with
      | .far x r => !(x = k && (farRefs (writesOf i)).contains r)
      | _ => true } else s1

/-- The frame of an instruction that takes effect at issue (class P). -/
def issueP (i : Instr) (body : State → Nat → Wave → Eff) (s : State) : Host.Outcome State Fault Refusal :=
  match s.cur with
  | none => .fault .noIssuingWave
  | some k =>
    match s.wave k with
    | none => .fault .noIssuingWave
    | some w =>
      match prologue s k w i with
      | .stop s1 => .next s1
      | .go s1 w1 =>
        match body s1 k w1 with
        | .trap f => .next (trapAtIssue s1 k w1 f)
        | .next s2 => .next (issued s2 k i true)
        | .jump s2 => .next (issued s2 k i false)

/-- What a queued instruction takes from its issue: the state (a stored register read may fill a cache), the operation, the
sectors that it marks (R126). -/
structure Plan where
  s : State
  op : QOp
  marks : List Nat

/-- The active threads of an instruction (R41, R220). -/
def activeOf (w : Wave) (i : Instr) : Word :=
  match Instr.hdr i with
  | some h => w.st.act h
  | none => 0

/-- Whether a queued instruction acts once under U = 1 although no thread is active (R120): SEAL and UNSEAL (log 18). -/
def actsUniform (i : Instr) : Bool :=
  match i with
  | .seal f => f.h.u
  | .unseal f => f.h.u
  | _ => false

/-- The entry of a queued instruction (R59, R67, R120, R179). -/
def queueEntry (w : Wave) (i : Instr) (op : QOp) (marks : List Nat) : QEntry :=
  let act := activeOf w i
  let idle := act = 0 && !actsUniform i
  { pc := w.st.pc, op := if idle then .nothing else op, act := act, dsts := writesOf i
    marks := if idle then [] else marks, stage := none }

/-- An entry appended, or the trap of the 33rd (R67, R180). R67's CommitQueue names sub-cause 0 and R180 and R189 sub-cause 1, which is
the one taken: DEDUCED (log 13), as theirs are the rules of the trap. -/
def commitQueue (s : State) (k : Nat) (w : Wave) (e : QEntry) : Eff :=
  if w.queue.length ≥ 32 then .trap ⟨12, 1, none, none⟩ else .next (s.setWave k { w with queue := w.queue ++ [e] })

/-- The frame of a queued instruction (class Q). -/
def issueQ (i : Instr) (plan : State → Nat → Wave → Word → Except Fail Plan) (s : State) : Host.Outcome State Fault Refusal :=
  issueP i (fun s k w =>
    match plan s k w (activeOf w i) with
    | .error f => .trap f
    | .ok p =>
      match p.s.wave k with
      | none => .next p.s
      | some w1 => commitQueue p.s k w1 (queueEntry w1 i p.op p.marks)) s

/-- The frame of a boundary instruction (class B): its checks at issue, then the boundary with survivor mask `mask`, or with
the current one (R174). -/
def issueB (i : Instr) (mask : Option Word) (check : State → Nat → Wave → Option Fail) (s : State) :
    Host.Outcome State Fault Refusal :=
  match s.cur with
  | none => .fault .noIssuingWave
  | some k =>
    match s.wave k with
    | none => .fault .noIssuingWave
    | some w =>
      match prologue s k w i with
      | .stop s1 => .next s1
      | .go s1 w1 =>
        match check s1 k w1 with
        | some f => .next (trapAtIssue s1 k w1 f)
        | none => .next (boundary s1 k w1 i (mask.getD w1.st.svm))

/-! The turn of a side, a soft error, and the placing of one instruction. -/

/-- What a side's turn comes to: nothing issues, or an instruction is to be executed. -/
inductive Start where
  | stop (s : State)
  | run (s : State) (i : Instr)

/-- A side's cycle counted in its stall window (R423): whether its choice was held for lumens only, a lit wave for operands or a unit,
whether it issued. A side's turn is one cycle of its window (log 9). -/
def countCycle (s : State) (side : Nat) (p : Option Nat × Bool) : State :=
  let x := s.side side
  let ready := candidates s side
  let held := s.waves.any fun e => e.2.side = side && isLit s e.2 && !(ready.any fun y => y.1 = e.1)
  s.setSide side { x with
    cycles := x.cycles + 1, lums := if p.2 then x.lums + 1 else x.lums, opnd := if held then x.opnd + 1 else x.opnd
    iss := if p.1.isSome then x.iss + 1 else x.iss }

/-- The ring passes sides that take nothing: each is denied if its chosen wave then lacks lumens only (R412). -/
def passSides (s : State) (core lo hi : Nat) : State :=
  ((List.range 4).filter fun i => lo ≤ i && i < hi).foldl (fun s i =>
    if (pick s (4 * core + i)).2 then s.setSide (4 * core + i) { s.side (4 * core + i) with deniedNow := true } else s) s

/-- A reserved side whose chosen wave issues is no longer reserved; what was set aside beyond its price is free again (R412). -/
def serveReserved (s : State) (side : Nat) : State :=
  let c := s.core (coreOfSide side)
  if c.reserved.contains (side % 4) then
    let s1 := s.setCore (coreOfSide side) { c with
      aside := if c.reserved.head? = some (side % 4) then 0 else c.aside, reserved := c.reserved.filter (· ≠ side % 4) }
    s1.setSide side { s1.side side with denied := 0 }
  else s

/-- The ring comes to a side that issues a priced instruction (R410, R412): of its first choice, or, its first choice denied, of
another. -/
def ringTo (s : State) (side : Nat) (denied : Bool) : State :=
  let s1 := passSides s (coreOfSide side) (s.core (coreOfSide side)).pass (side % 4)
  if denied then s1.setSide side { s1.side side with deniedNow := true } else serveReserved s1 side

/-- A side's turn (R349): its wave chosen and that wave's instruction fetched; a failed fetch is a trap at issue (R84). -/
def startIssue (s : State) (side : Nat) : Start :=
  let p := pick s side
  let s1 := countCycle s side p
  match p.1 with
  | none => .stop s1
  | some k =>
    match s1.wave k with
    | none => .stop s1
    | some w =>
      let w1 := { w with starve := 0, starved := false }
      match fetch s1 w1 with
      | .error f => .stop (trapAtIssue s1 k w1 f)
      | .ok (s2, i) =>
        let s3 := if priceOf i = 0 then s2 else ringTo s2 side p.2
        .run { s3.setWave k w1 with cur := some k } i

/-- Whether there is something at a place for an error to strike. -/
def hasPlace (s : State) (loc : ErrLoc) : Bool :=
  match loc with
  | .tier _ => true
  | .l2 x => (l2At s x).isSome
  | .far k r => ((s.wave k).map fun w => decide (r < w.farRegs)).getD false
  | .tile t x => ((tget s.tiles t).map fun y => decide (8 * x < y.rows * y.cols * ewBytes y.ew)).getD false
  | .vigil id => (tget s.vigils id).isSome

/-- An uncorrectable error stands at a place (R440). -/
def strikeError (s : State) (loc : ErrLoc) : State :=
  if s.errs.contains loc || !hasPlace s loc then s else { s with errs := s.errs ++ [loc] }

/-- A sent write performed (R312); the wave's earlier ones of the same bytes go first (R314). -/
def performSentAt (s : State) (i : Nat) : State :=
  match s.sent[i]? with
  | none => s
  | some x => flushSent s fun y => y = x

/-- A wave's read of a sector of an RC or UO page performed ahead of its earlier accesses (R314). -/
def readEarly (s : State) (k va : Nat) : State :=
  match s.wave k with
  | none => s
  | some w =>
    if !isLit s w then s
    else match xlate s (.lsu w.core) w.ctx va .load with
      | .error _ => s
      | .ok p =>
        let sector := p.pa / 48
        let own := s.sent.any fun x => x.wave = k && bytesMeet x.pa x.bytes.length (48 * sector) 48
        if pteOrd p.pte = 0 || ptePriv p.pte || own || uncorrectable s p.pa || s.early.any (fun x => x.wave = k && x.sector = sector) then s
        else
          let s1 := useRead s (.lsu w.core) w.ctx va p
          { s1 with early := s1.early ++ [⟨k, sector, memRead s1.mem (48 * sector) 48, pteOrd p.pte = 2⟩] }

/-- A die's share set by the management processor (R414): no share is below 96 units. -/
def setShare (s : State) (d units : Nat) : State :=
  if d < 4 then s.setDie d { s.die d with share := max 96 units } else s

/-- Numbers written to memory as 8 bytes each, little-endian. -/
def memWrite8 (m : Tab Byte) (l : List (Nat × Nat)) : Tab Byte := l.foldl (fun m e => memWrite m e.1 (leBytes 8 e.2)) m

/-- The launch that stands for the loading of a program (log 2): one block of one wave of 32 threads with 240 far registers. -/
def placeLaunch : Launch :=
  { queue := 0, ctx := 1, index := 0
    record := 2 ^ 448 + 2 ^ 480 + 2 ^ 512 + 2 ^ 347 + 2 ^ 350 + 2 ^ 353 + 2 ^ 356 + 32 * 2 ^ 362 + 2 * 2 ^ 368
    desc := 240 * 2 ^ 688, admitted := [0], retired := [], finished := [], token := 0, deferred := [], quiet := 0 }

def placeBlock : Block :=
  { ctx := 1, launch := 0, queue := 0, bx := 0, byy := 0, bz := 0, linear := 0, cluster := 0, inCluster := 0, curve := 0, slot := 0
    core := 0, status := .resident, strandAs := .resident, pwake := false, lost := false, escWave := 0, escKey := 0, hcause := 0, hpc := 0, haddr := 0, binTimer := 0
    waited := 0, redd := [], notice := none, image := [], parked := [], bins := [], pieces := [], latches := [] }

/-- A word placed at virtual address 0 of context 1, whose tables map that page to the second page of tier 1, and one lit wave
with its PC there (log 2). -/
def placeInstr (s : State) (w : Nat) : State :=
  let mem := memWrite (memWrite8 s.mem
    [(0x2000, 1 + 8 * 2 ^ 16), (0x4000, 1 + 9 * 2 ^ 16), (0x4800, 1 + 10 * 2 ^ 16), (0x5000, 1 + 11 * 2 ^ 16), (0x5800, 0x10117)])
    49152 (leBytes 12 w)
  let c : Ctx := { Ctx.fresh 0 0 0 with regs := [(0x41, 0x2001)] }
  let s1 := { s with
    turn := .issue 0, cur := none, mem := mem, errs := [], tlb := [], ctxs := tset s.ctxs 1 c
    launches := tset s.launches 0 placeLaunch, blocks := tset s.blocks 0 placeBlock
    cores := tset s.cores 0 { s.core 0 with lumens := 256, pass := 0, aside := 0, reserved := [], icache := [] }, patches := [] }
  let wv := { newWave s1 1 0 0 0 false (BitVec.allOnes 32) 0 240 0 with lit := true, wait := .none }
  { s1 with waves := [(0, wv)] }

end Sys2Proof.Machine
end

