-- ==== Sys2Proof/Machine/Control.lean ====
section
/-! DEFINITION. Control instructions: NOP, BRA, BRC, BRI, CALL, RET, RCV, EXIT, STRAND, YIELD (spec/09 R220 to R228, spec/08 R174
to R176), and UNASSIGNED_OPCODE (spec/03 R63). -/
namespace Sys2Proof.Machine

/-- A signed field times 12, as a displacement (R222, R223). -/
def parcels (x : BitVec 24) : DWord := x.signExtend 64 * 12

/-- A wave with its PC set. -/
def Wave.setPc (w : Wave) (pc : DWord) : Wave := { w with st := { w.st with pc := pc } }

/-- An indirect target that is not a multiple of 12 or has bits [63:57] set (R222). -/
def badTarget (v : DWord) : Bool := v.toNat % 12 ≠ 0 || v.toNat ≥ 2 ^ 57

def controlFail (sub : Nat) : Fail := ⟨15, sub, none, none⟩

/-- A wave's new control state, or a control fault. -/
def controlEff (s : State) (k : Nat) (r : Except Nat Wave) : Eff :=
  match r with
  | .error n => .trap (controlFail n)
  | .ok w => .jump (s.setWave k w)

def execNop (f : FmtC) (s : State) : Host.Outcome State Fault Refusal := issueP (.nop f) (fun s _ _ => .next s) s

def execBra (f : FmtC) (s : State) : Host.Outcome State Fault Refusal :=
  issueP (.bra f) (fun s k w => .jump (s.setWave k (w.setPc (w.st.pc + parcels f.offs)))) s

/-- BRC's effect (R223). -/
def brcWave (w : Wave) (f : FmtC) : Except Nat Wave :=
  let joffs : BitVec 24 := f.imm.truncate 24
  let pc := w.st.pc
  let g := w.st.p f.h.gp.toNat
  let t := w.st.exec &&& (if f.h.gn then ~~~g else g)
  let fl := w.st.exec &&& ~~~t
  let target := pc + parcels f.offs
  if joffs = 0 then .error 6
  else if t = 0 then .ok (w.setPc (pc + 12))
  else if fl = 0 then .ok (w.setPc target)
  else if w.st.dstack.length ≥ 32 then .error 1
  else
    let takenFirst := lowestThread t < lowestThread fl
    let first := if takenFirst then (t, target) else (fl, pc + 12)
    let other := if takenFirst then (fl, pc + 12) else (t, target)
    .ok { w with st := { w.st with
      dstack := ⟨pc + parcels joffs, other.2, w.st.exec, other.1⟩ :: w.st.dstack, exec := first.1, pc := first.2 } }

def execBrc (f : FmtC) (s : State) : Host.Outcome State Fault Refusal :=
  issueP (.brc f) (fun s k w => controlEff s k (brcWave w f)) s

/-- BRI's effect (R222). -/
def briWave (w : Wave) (f : FmtC) : Except Nat Wave :=
  let v := w.st.s f.a.idx.toNat
  if badTarget v then .error 5 else .ok (w.setPc v)

def execBri (f : FmtC) (s : State) : Host.Outcome State Fault Refusal :=
  issueP (.bri f) (fun s k w => controlEff s k (briWave w f)) s

/-- CALL's effect (R222). When the return stack is full and the target is bad too, the lower sub-cause is reported (log 13). -/
def callWave (w : Wave) (f : FmtC) : Except Nat Wave :=
  let v := w.st.s f.a.idx.toNat
  let target := if f.sub.getLsbD 0 then v else w.st.pc + parcels f.offs
  if w.st.rstack.length ≥ 16 then .error 2
  else if f.sub.getLsbD 0 && badTarget v then .error 5
  else .ok { w with st := { w.st with rstack := ⟨w.st.pc + 12, w.st.dstack.length⟩ :: w.st.rstack, pc := target } }

def execCall (f : FmtC) (s : State) : Host.Outcome State Fault Refusal :=
  issueP (.call f) (fun s k w => controlEff s k (callWave w f)) s

/-- RET's effect (R222, R228). -/
def retWave (w : Wave) : Except Nat Wave :=
  match w.st.rstack with
  | [] => .error 3
  | e :: rest =>
    if e.depth ≠ w.st.dstack.length then .error 4
    else .ok { w with st := { w.st with rstack := rest, pc := e.rpc } }

def execRet (f : FmtC) (s : State) : Host.Outcome State Fault Refusal :=
  issueP (.ret f) (fun s k w => controlEff s k (retWave w)) s

/-- The entries whose join is `pc` resolved (R224). -/
def joinStack (st : WState) (pc : DWord) : List DEntry → WState
  | [] => { st with dstack := [], pc := pc + 12 }
  | e :: rest =>
    if e.jpc ≠ pc then { st with dstack := e :: rest, pc := pc + 12 }
    else if e.pmask &&& st.live ≠ 0 then
      { st with exec := e.pmask &&& st.live, pc := e.ppc, dstack := { e with pmask := 0 } :: rest }
    else joinStack { st with exec := e.saved &&& st.live } pc rest

/-- RCV's effect: a wave left with no thread on its path resolves its stack (R224). -/
def rcvWave (w : Wave) : Wave :=
  let st := joinStack w.st w.st.pc w.st.dstack
  { w with st := if st.exec = 0 then resolveStack st st.dstack else st }

def execRcv (f : FmtC) (s : State) : Host.Outcome State Fault Refusal :=
  issueP (.rcv f) (fun s k w => .jump (s.setWave k (rcvWave w))) s

/-- EXIT and TEND that retire every remaining thread while a chain is open (R265). -/
def chainEnds (w : Wave) (h : Hdr) : Option Fail :=
  if w.st.chain && w.st.act h = w.st.live then some ⟨17, 3, none, none⟩ else none

def execExit (f : FmtC) (s : State) : Host.Outcome State Fault Refusal :=
  issueB (.exit f) none (fun _ _ w => chainEnds w f.h) s

def execStrand (f : FmtC) (s : State) : Host.Outcome State Fault Refusal :=
  issueB (.strand f) (some f.imm) (fun _ _ _ => none) s

def execYield (f : FmtC) (s : State) : Host.Outcome State Fault Refusal :=
  issueB (.yield f) none (fun _ _ _ => none) s

/-- A word whose primary opcode is unassigned: its check always fails with sub-cause 1 (R63, R65). -/
def execUnassignedOpcode (w : IWord) (s : State) : Host.Outcome State Fault Refusal :=
  issueP (.unassignedOpcode w) (fun s _ _ => .next s) s

end Sys2Proof.Machine
end

