-- ==== Sys2Proof/Machine/IntOps.lean ====
section
/-! DEFINITION. Integer, logic, shift and move instructions of group 001 (spec/09 R190 to R202). An element operation takes the
elements of its sources as numbers below 2^W, and W. -/
namespace Sys2Proof.Machine

/-! The shared frames. -/

/-- An instruction whose elements are computed independently, in format V with `n` sources (R66, R190). -/
def vecV (fp : Bool) (n : Nat) (f : FmtV) (op : List Nat → Nat × FFlags) (s : State) (w : Wave) : Wave × FFlags :=
  let fmt := f.fmt.toNat
  w.elementwise f.h.u fmt f.d (w.st.act f.h) fun t off =>
    mapElems (unitBits fmt) (elemBits fp fmt) op (([f.a, f.b, f.c].take n).zipIdx.map fun x => srcUnit s w fp f.h.u fmt x.1 t off x.2)

/-- The prior value of a destination, as a source (R194, R204). -/
def dstSrc (d : Dst) : Src := ⟨d.lvl, d.idx, 0, 0⟩

/-- The same in format I: A, the immediate, and with `prior` the destination's prior value (R48, R194). -/
def vecI (fp prior : Bool) (f : FmtI) (op : List Nat → Nat × FFlags) (s : State) (w : Wave) : Wave × FFlags :=
  let fmt := f.fmt.toNat
  w.elementwise f.h.u fmt f.d (w.st.act f.h) fun t off =>
    mapElems (unitBits fmt) (elemBits fp fmt) op ([srcUnit s w fp f.h.u fmt f.a t off, immUnit fp fmt f.imm] ++
      if prior then [srcUnit s w fp f.h.u fmt (dstSrc f.d) t off 2] else [])

/-- A result and its flags delivered (R68, R239). -/
def deliverRes (s : State) (k : Nat) (r : Wave × FFlags) : Eff := .next (s.setWave k (r.1.raise r.2))

/-- An integer instruction of format V: no flags (R195). `op` takes W and the elements. -/
def intV (i : Instr) (n : Nat) (f : FmtV) (op : Nat → List Nat → Nat) (s : State) : Host.Outcome State Fault Refusal :=
  issueP i (fun s k w => deliverRes s k (vecV false n f (fun l => (op (elemBits false f.fmt.toNat) l, 0)) s w)) s

/-- An integer instruction of format I. -/
def intI (i : Instr) (prior : Bool) (f : FmtI) (op : Nat → List Nat → Nat) (s : State) : Host.Outcome State Fault Refusal :=
  issueP i (fun s k w => deliverRes s k (vecI false prior f (fun l => (op (elemBits false f.fmt.toNat) l, 0)) s w)) s

/-! Element operations. -/

/-- The k-th source element. -/
def arg (l : List Nat) (k : Nat) : Nat := (l[k]?).getD 0

/-- IADD and ISUB (R194, R195): bit 0 of SUBOP is SAT, bit 1 UNS. -/
def addOp (sub : Bool) (so : BitVec 3) (bits : Nat) (l : List Nat) : Nat :=
  let a := arg l 0
  let b := arg l 1
  let uns := so.getLsbD 1
  let v (x : Nat) : Int := if uns then x else sgn bits x
  let r : Int := if sub then v a - v b else v a + v b
  if so.getLsbD 0 then clampTo uns bits r else wrap bits r

def mulOp (bits : Nat) (l : List Nat) : Nat := arg l 0 * arg l 1 % 2 ^ bits

/-- IMULH (R195): the high half of the exact product. -/
def mulhOp (so : BitVec 3) (bits : Nat) (l : List Nat) : Nat :=
  let v (x : Nat) : Int := if so.getLsbD 1 then x else sgn bits x
  wrap bits (v (arg l 0) * v (arg l 1) / (2 ^ bits : Nat))

def madOp (bits : Nat) (l : List Nat) : Nat := (arg l 0 * arg l 1 + arg l 2) % 2 ^ bits

/-- IMIN and IMAX (R195). -/
def minMaxOp (greater : Bool) (so : BitVec 3) (bits : Nat) (l : List Nat) : Nat :=
  let v (x : Nat) : Int := if so.getLsbD 1 then x else sgn bits x
  let a := arg l 0
  let b := arg l 1
  if greater then (if v a ≥ v b then a else b) else (if v a ≤ v b then a else b)

/-- IABS (R195). -/
def absOp (so : BitVec 3) (bits : Nat) (l : List Nat) : Nat :=
  let r : Int := (sgn bits (arg l 0)).natAbs
  if so.getLsbD 0 then clampTo false bits r else wrap bits r

def shlOp (bits : Nat) (l : List Nat) : Nat :=
  let n := arg l 1 % 256
  if n < bits then arg l 0 * 2 ^ n % 2 ^ bits else 0

def shrOp (bits : Nat) (l : List Nat) : Nat :=
  let n := arg l 1 % 256
  if n < bits then arg l 0 / 2 ^ n else 0

def sarOp (bits : Nat) (l : List Nat) : Nat :=
  let n := arg l 1 % 256
  let x := sgn bits (arg l 0)
  wrap bits (if n < bits then x / (2 ^ n : Nat) else if x < 0 then -1 else 0)

/-- ROT (R196): SUBOP bit 0 is RIGHT. -/
def rotOp (so : BitVec 3) (bits : Nat) (l : List Nat) : Nat :=
  let n := arg l 1 % 256 % bits
  let left := if so.getLsbD 0 then (bits - n) % bits else n
  (arg l 0 * 2 ^ left + arg l 0 / 2 ^ (bits - left)) % 2 ^ bits

def popcOp (bits : Nat) (l : List Nat) : Nat := ((List.range bits).filter fun k => (arg l 0).testBit k).length

def clzOp (bits : Nat) (l : List Nat) : Nat :=
  match (List.range bits).reverse.find? fun k => (arg l 0).testBit k with
  | none => bits
  | some k => bits - 1 - k

def brevOp (bits : Nat) (l : List Nat) : Nat :=
  (List.range bits).foldl (fun r k => if (arg l 0).testBit k then r + 2 ^ (bits - 1 - k) else r) 0

/-- BFX (R197): SUBOP bit 0 is SGN, bit 1 INS. -/
def bfxOp (so : BitVec 3) (bits : Nat) (l : List Nat) : Nat :=
  let a := arg l 0
  let p := arg l 1 % 256
  let n := if p ≥ bits then 0 else min (arg l 1 / 256 % 256) (bits - p)
  let m := (2 ^ n - 1) * 2 ^ p
  if so.getLsbD 1 then ((arg l 2 &&& (2 ^ bits - 1 - m)) ||| (a * 2 ^ p % 2 ^ bits &&& m))
  else
    let v := (a &&& m) / 2 ^ p
    if so.getLsbD 0 && n > 0 then wrap bits (sgn n v) else v

/-- LOP3 (R199): the bit of the table that the three source bits name. -/
def lop3Op (tt : Nat) (bits : Nat) (l : List Nat) : Nat :=
  let b (x k : Nat) : Nat := if x.testBit k then 1 else 0
  (List.range bits).foldl (fun r k =>
    if tt.testBit (b (arg l 0) k + 2 * b (arg l 1) k + 4 * b (arg l 2) k) then r + 2 ^ k else r) 0

/-- A relation of ISET (R200). -/
def relation (code bits a b : Nat) : Bool :=
  match code with
  | 0 => a = b
  | 1 => a ≠ b
  | 2 => sgn bits a < sgn bits b
  | 3 => sgn bits a ≤ sgn bits b
  | 4 => a < b
  | 5 => a ≤ b
  | 6 => a &&& b ≠ 0
  | _ => a &&& b = 0

/-- LEA's scales (R198). -/
def leaScale (code : Nat) : Nat :=
  match code with
  | 0 => 1
  | 1 => 2
  | 2 => 4
  | 3 => 8
  | 4 => 12
  | 5 => 16
  | 6 => 48
  | _ => 192

/-! The instructions. -/

def execMov (f : FmtV) (s : State) : Host.Outcome State Fault Refusal := intV (.mov f) 1 f (fun _ l => arg l 0) s

def execMovI (f : FmtI) (s : State) : Host.Outcome State Fault Refusal := intI (.movI f) false f (fun _ l => arg l 1) s

/-- SEL (R201): the thread's predicate chooses between two units. -/
def selWave (w : Wave) (fmt : Nat) (h : Hdr) (d : Dst) (pred : Nat) (neg : Bool) (a b : Nat → Nat → DWord) : Wave :=
  (w.elementwise false fmt d (w.st.act h) fun t off =>
    (if bit (w.st.p pred) t != neg then a t off else b t off, 0)).1

def execSel (f : FmtV) (s : State) : Host.Outcome State Fault Refusal :=
  issueP (.sel f) (fun s k w =>
    let unit (x : Src) (slot t off : Nat) : DWord := srcUnit s w false false f.fmt.toNat x t off slot
    .next (s.setWave k (selWave w f.fmt.toNat f.h f.d f.c.idx.toNat (f.subop.getLsbD 0) (unit f.a 0) (unit f.b 1)))) s

def execSelI (f : FmtI) (s : State) : Host.Outcome State Fault Refusal :=
  issueP (.selI f) (fun s k w =>
    .next (s.setWave k (selWave w f.fmt.toNat f.h f.d (f.xsub.toNat % 8) (f.subop.getLsbD 0)
      (srcUnit s w false false f.fmt.toNat f.a · ·) (fun _ _ => immUnit false f.fmt.toNat f.imm)))) s

def execIadd (f : FmtV) (s : State) : Host.Outcome State Fault Refusal := intV (.iadd f) 2 f (addOp false f.subop) s
def execIaddI (f : FmtI) (s : State) : Host.Outcome State Fault Refusal := intI (.iaddI f) false f (addOp false f.subop) s
def execIsub (f : FmtV) (s : State) : Host.Outcome State Fault Refusal := intV (.isub f) 2 f (addOp true f.subop) s
def execIsubI (f : FmtI) (s : State) : Host.Outcome State Fault Refusal := intI (.isubI f) false f (addOp true f.subop) s
def execImul (f : FmtV) (s : State) : Host.Outcome State Fault Refusal := intV (.imul f) 2 f mulOp s
def execImulI (f : FmtI) (s : State) : Host.Outcome State Fault Refusal := intI (.imulI f) false f mulOp s
def execImulh (f : FmtV) (s : State) : Host.Outcome State Fault Refusal := intV (.imulh f) 2 f (mulhOp f.subop) s
def execImulhI (f : FmtI) (s : State) : Host.Outcome State Fault Refusal := intI (.imulhI f) false f (mulhOp f.subop) s
def execImad (f : FmtV) (s : State) : Host.Outcome State Fault Refusal := intV (.imad f) 3 f madOp s
def execImadI (f : FmtI) (s : State) : Host.Outcome State Fault Refusal := intI (.imadI f) true f madOp s
def execImin (f : FmtV) (s : State) : Host.Outcome State Fault Refusal := intV (.imin f) 2 f (minMaxOp false f.subop) s
def execIminI (f : FmtI) (s : State) : Host.Outcome State Fault Refusal := intI (.iminI f) false f (minMaxOp false f.subop) s
def execImax (f : FmtV) (s : State) : Host.Outcome State Fault Refusal := intV (.imax f) 2 f (minMaxOp true f.subop) s
def execImaxI (f : FmtI) (s : State) : Host.Outcome State Fault Refusal := intI (.imaxI f) false f (minMaxOp true f.subop) s
def execIabs (f : FmtV) (s : State) : Host.Outcome State Fault Refusal := intV (.iabs f) 1 f (absOp f.subop) s

def execIset (f : FmtV) (s : State) : Host.Outcome State Fault Refusal :=
  issueP (.iset f) (fun s k w =>
    let v (x : Src) (t slot : Nat) : Nat := (srcUnit s w false false f.fmt.toNat x t 0 slot).toNat
    .next (s.setWave k (w.writePred f.d.idx.toNat (w.st.act f.h) fun t =>
      relation f.subop.toNat (unitBits f.fmt.toNat) (v f.a t 0) (v f.b t 1)))) s

def execIsetI (f : FmtI) (s : State) : Host.Outcome State Fault Refusal :=
  issueP (.isetI f) (fun s k w =>
    let a (t : Nat) : Nat := (srcUnit s w false false f.fmt.toNat f.a t 0).toNat
    let b := (immUnit false f.fmt.toNat f.imm).toNat
    .next (s.setWave k (w.writePred f.d.idx.toNat (w.st.act f.h) fun t =>
      if f.xsub.getLsbD 0 then relation f.subop.toNat (unitBits f.fmt.toNat) b (a t)
      else relation f.subop.toNat (unitBits f.fmt.toNat) (a t) b))) s

/-- LEA (R198) with the offset of each element given as 32 bits. -/
def leaWave (w : Wave) (h : Hdr) (d : Dst) (scale : Nat) (a : Nat → Nat → DWord) (b : Nat → Nat → Word) : Wave :=
  (w.elementwise h.u 1 d (w.st.act h) fun t off => (a t off + (b t off).signExtend 64 * BitVec.ofNat 64 scale, 0)).1

def execLea (f : FmtV) (s : State) : Host.Outcome State Fault Refusal :=
  issueP (.lea f) (fun s k w =>
    .next (s.setWave k (leaWave w f.h f.d (leaScale f.subop.toNat) (srcUnit s w false f.h.u 1 f.a · ·)
      (fun t off => (srcUnit s w false f.h.u 0 f.b t off 1).truncate 32)))) s

def execLeaI (f : FmtI) (s : State) : Host.Outcome State Fault Refusal :=
  issueP (.leaI f) (fun s k w =>
    .next (s.setWave k (leaWave w f.h f.d (leaScale f.subop.toNat) (srcUnit s w false f.h.u 1 f.a · ·) (fun _ _ => f.imm)))) s

def execIand (f : FmtV) (s : State) : Host.Outcome State Fault Refusal := intV (.iand f) 2 f (fun _ l => arg l 0 &&& arg l 1) s
def execIandI (f : FmtI) (s : State) : Host.Outcome State Fault Refusal := intI (.iandI f) false f (fun _ l => arg l 0 &&& arg l 1) s
def execIor (f : FmtV) (s : State) : Host.Outcome State Fault Refusal := intV (.ior f) 2 f (fun _ l => arg l 0 ||| arg l 1) s
def execIorI (f : FmtI) (s : State) : Host.Outcome State Fault Refusal := intI (.iorI f) false f (fun _ l => arg l 0 ||| arg l 1) s
def execIxor (f : FmtV) (s : State) : Host.Outcome State Fault Refusal := intV (.ixor f) 2 f (fun _ l => arg l 0 ^^^ arg l 1) s
def execIxorI (f : FmtI) (s : State) : Host.Outcome State Fault Refusal := intI (.ixorI f) false f (fun _ l => arg l 0 ^^^ arg l 1) s
def execInot (f : FmtV) (s : State) : Host.Outcome State Fault Refusal :=
  intV (.inot f) 1 f (fun bits l => 2 ^ bits - 1 - arg l 0) s

/-- LOP3 (R199): its truth table takes the place of SUBOP, RND and FMT; 32 bits a register, 64 under U = 1. -/
def execLop3 (tt7 : Bool) (f : FmtV) (s : State) : Host.Outcome State Fault Refusal :=
  issueP (.lop3 tt7 f) (fun s k w =>
    let tt := (if tt7 then 128 else 0) + f.subop.toNat * 16 + f.rnd.toNat * 4 + f.fmt.toNat
    let fmt := if f.h.u then 1 else 0
    .next (s.setWave k (w.elementwise f.h.u fmt f.d (w.st.act f.h) fun t off =>
      mapElems (unitBits fmt) (unitBits fmt) (fun l => (lop3Op tt (unitBits fmt) l, 0))
        ([f.a, f.b, f.c].zipIdx.map fun x => srcUnit s w false f.h.u fmt x.1 t off x.2)).1)) s

def execShl (f : FmtV) (s : State) : Host.Outcome State Fault Refusal := intV (.shl f) 2 f shlOp s
def execShlI (f : FmtI) (s : State) : Host.Outcome State Fault Refusal := intI (.shlI f) false f shlOp s
def execShr (f : FmtV) (s : State) : Host.Outcome State Fault Refusal := intV (.shr f) 2 f shrOp s
def execShrI (f : FmtI) (s : State) : Host.Outcome State Fault Refusal := intI (.shrI f) false f shrOp s
def execSar (f : FmtV) (s : State) : Host.Outcome State Fault Refusal := intV (.sar f) 2 f sarOp s
def execSarI (f : FmtI) (s : State) : Host.Outcome State Fault Refusal := intI (.sarI f) false f sarOp s
def execRot (f : FmtV) (s : State) : Host.Outcome State Fault Refusal := intV (.rot f) 2 f (rotOp f.subop) s
def execRotI (f : FmtI) (s : State) : Host.Outcome State Fault Refusal := intI (.rotI f) false f (rotOp f.subop) s
def execPopc (f : FmtV) (s : State) : Host.Outcome State Fault Refusal := intV (.popc f) 1 f popcOp s
def execClz (f : FmtV) (s : State) : Host.Outcome State Fault Refusal := intV (.clz f) 1 f clzOp s
def execBrev (f : FmtV) (s : State) : Host.Outcome State Fault Refusal := intV (.brev f) 1 f brevOp s

def execBfx (f : FmtV) (s : State) : Host.Outcome State Fault Refusal :=
  intV (.bfx f) (if f.subop.getLsbD 1 then 3 else 2) f (bfxOp f.subop) s

def execBfxI (f : FmtI) (s : State) : Host.Outcome State Fault Refusal :=
  intI (.bfxI f) (f.subop.getLsbD 1) f (bfxOp f.subop) s

end Sys2Proof.Machine
end

