-- ==== Sys2Proof/Machine/FloatOps.lean ====
section
/-! DEFINITION. Floating-point instructions of group 010 (spec/09 R204 to R209). -/
namespace Sys2Proof.Machine

/-- An FP instruction of format V with `n` sources; `op` takes the format and the elements. -/
def fpV (i : Instr) (n : Nat) (f : FmtV) (op : Nat → List Nat → Nat × FFlags) (s : State) : Host.Outcome State Fault Refusal :=
  issueP i (fun s k w => deliverRes s k (vecV true n f (op f.fmt.toNat) s w)) s

/-- An FP instruction of format I. -/
def fpI (i : Instr) (prior : Bool) (f : FmtI) (op : Nat → List Nat → Nat × FFlags) (s : State) : Host.Outcome State Fault Refusal :=
  issueP i (fun s k w => deliverRes s k (vecI true prior f (op f.fmt.toNat) s w)) s

/-- A function of one element, of two, of three, under a rounding mode. -/
def un (op : Nat → Nat → Nat → Nat × FFlags) (rnd : BitVec 2) (fmt : Nat) (l : List Nat) : Nat × FFlags :=
  op fmt rnd.toNat (arg l 0)

def bin (op : Nat → Nat → Nat → Nat → Nat × FFlags) (rnd : BitVec 2) (fmt : Nat) (l : List Nat) : Nat × FFlags :=
  op fmt rnd.toNat (arg l 0) (arg l 1)

def ter (op : Nat → Nat → Nat → Nat → Nat → Nat × FFlags) (rnd : BitVec 2) (fmt : Nat) (l : List Nat) : Nat × FFlags :=
  op fmt rnd.toNat (arg l 0) (arg l 1) (arg l 2)

def execFadd (f : FmtV) (s : State) : Host.Outcome State Fault Refusal := fpV (.fadd f) 2 f (bin fAdd f.rnd) s
def execFaddI (f : FmtI) (s : State) : Host.Outcome State Fault Refusal := fpI (.faddI f) false f (bin fAdd f.rnd) s
def execFsub (f : FmtV) (s : State) : Host.Outcome State Fault Refusal := fpV (.fsub f) 2 f (bin fSub f.rnd) s
def execFsubI (f : FmtI) (s : State) : Host.Outcome State Fault Refusal := fpI (.fsubI f) false f (bin fSub f.rnd) s
def execFmul (f : FmtV) (s : State) : Host.Outcome State Fault Refusal := fpV (.fmul f) 2 f (bin fMul f.rnd) s
def execFmulI (f : FmtI) (s : State) : Host.Outcome State Fault Refusal := fpI (.fmulI f) false f (bin fMul f.rnd) s
def execFfma (f : FmtV) (s : State) : Host.Outcome State Fault Refusal := fpV (.ffma f) 3 f (ter fFma f.rnd) s
def execFfmaI (f : FmtI) (s : State) : Host.Outcome State Fault Refusal := fpI (.ffmaI f) true f (ter fFma f.rnd) s

/-- FMIN and FMAX (R206). -/
def minMaxF (isMax : Bool) (fmt : Nat) (l : List Nat) : Nat × FFlags := fMinMax isMax fmt (arg l 0) (arg l 1)

def execFmin (f : FmtV) (s : State) : Host.Outcome State Fault Refusal := fpV (.fmin f) 2 f (minMaxF false) s
def execFminI (f : FmtI) (s : State) : Host.Outcome State Fault Refusal := fpI (.fminI f) false f (minMaxF false) s
def execFmax (f : FmtV) (s : State) : Host.Outcome State Fault Refusal := fpV (.fmax f) 2 f (minMaxF true) s
def execFmaxI (f : FmtI) (s : State) : Host.Outcome State Fault Refusal := fpI (.fmaxI f) false f (minMaxF true) s

/-- The winner of one value register and one index register (R207): one pair in `.f32`, one for each half otherwise. -/
def pairWin (isMax : Bool) (fmt : Nat) (a ia b ib : Nat) : Nat × Nat × FFlags :=
  if fmt = 0 then fMaxI isMax fmt a ia b ib
  else
    let h (k x : Nat) : Nat := x / 2 ^ (16 * k) % 2 ^ 16
    let lo := fMaxI isMax fmt (h 0 a) (h 0 ia) (h 0 b) (h 0 ib)
    let hi := fMaxI isMax fmt (h 1 a) (h 1 ia) (h 1 b) (h 1 ib)
    (lo.1 + hi.1 * 2 ^ 16, lo.2.1 + hi.2.1 * 2 ^ 16, lo.2.2 ||| hi.2.2)

/-- FMAXI and FMINI (R207): each pair of columns is one unit of 64 bits, the value low, the index high. -/
def pairWave (s : State) (w : Wave) (isMax : Bool) (f : FmtV) : Wave × FFlags :=
  let fmt := f.fmt.toNat
  w.elementwise false 1 f.d (w.st.act f.h) fun t off =>
    let v (x : Src) (o slot : Nat) : Nat := (srcUnit s w true false fmt x t o slot).toNat
    let r := pairWin isMax fmt (v f.a off 0) (v f.a (off + 1) 0) (v f.b off 1) (v f.b (off + 1) 1)
    (BitVec.ofNat 64 (r.1 % 2 ^ 32 + r.2.1 % 2 ^ 32 * 2 ^ 32), r.2.2)

def execFmaxi (f : FmtV) (s : State) : Host.Outcome State Fault Refusal :=
  issueP (.fmaxi f) (fun s k w => deliverRes s k (pairWave s w true f)) s

def execFmini (f : FmtV) (s : State) : Host.Outcome State Fault Refusal :=
  issueP (.fmini f) (fun s k w => deliverRes s k (pairWave s w false f)) s

/-- A relation of each active thread, written to a predicate, with its flags (R208). -/
def fsetWave (w : Wave) (h : Hdr) (d : Dst) (rel : Nat → Bool × FFlags) : Wave × FFlags :=
  let act := w.st.act h
  (w.writePred d.idx.toNat act fun t => (rel t).1, joinFlags act fun t => (rel t).2)

def execFset (f : FmtV) (s : State) : Host.Outcome State Fault Refusal :=
  issueP (.fset f) (fun s k w =>
    let fmt := f.fmt.toNat
    let v (x : Src) (t slot : Nat) : Nat := (srcUnit s w true false fmt x t 0 slot).toNat
    deliverRes s k (fsetWave w f.h f.d fun t => fSet f.subop.toNat fmt (v f.a t 0) (v f.b t 1))) s

def execFsetI (f : FmtI) (s : State) : Host.Outcome State Fault Refusal :=
  issueP (.fsetI f) (fun s k w =>
    let fmt := f.fmt.toNat
    let a (t : Nat) : Nat := (srcUnit s w true false fmt f.a t 0).toNat
    let b := (immUnit true fmt f.imm).toNat
    deliverRes s k (fsetWave w f.h f.d fun t =>
      if f.xsub.getLsbD 0 then fSet f.subop.toNat fmt b (a t) else fSet f.subop.toNat fmt (a t) b)) s

def execFcls (f : FmtV) (s : State) : Host.Outcome State Fault Refusal :=
  fpV (.fcls f) 1 f (fun fmt l => (fCls fmt (arg l 0), 0)) s

def execFrcp (f : FmtV) (s : State) : Host.Outcome State Fault Refusal := fpV (.frcp f) 1 f (un fRcp f.rnd) s
def execFrsq (f : FmtV) (s : State) : Host.Outcome State Fault Refusal := fpV (.frsq f) 1 f (un fRsq f.rnd) s
def execFsqrt (f : FmtV) (s : State) : Host.Outcome State Fault Refusal := fpV (.fsqrt f) 1 f (un fSqrt f.rnd) s
def execFexp2 (f : FmtV) (s : State) : Host.Outcome State Fault Refusal := fpV (.fexp2 f) 1 f (un fExp2 f.rnd) s
def execFlog2 (f : FmtV) (s : State) : Host.Outcome State Fault Refusal := fpV (.flog2 f) 1 f (un fLog2 f.rnd) s
def execFsin (f : FmtV) (s : State) : Host.Outcome State Fault Refusal := fpV (.fsin f) 1 f (un fSin f.rnd) s
def execFcos (f : FmtV) (s : State) : Host.Outcome State Fault Refusal := fpV (.fcos f) 1 f (un fCos f.rnd) s
def execFdivs (f : FmtV) (s : State) : Host.Outcome State Fault Refusal := fpV (.fdivs f) 2 f (bin fDiv f.rnd) s

end Sys2Proof.Machine
end

