-- ==== Sys2Proof/Machine/Convert.lean ====
section
/-! DEFINITION. CVT and the packing of BFP blocks: BPK, BUPK, SBPK, SBUPK (spec/09 R210 to R215). -/
namespace Sys2Proof.Machine

/-- The format family of a CVT code: its FP or integer FMT code (R47, R210). -/
def cvtFmt (c : Nat) : Nat :=
  if c < 4 then c
  else match c % 4 with
    | 0 => 3
    | 1 => 2
    | 2 => 0
    | _ => 1

/-- Whether a CVT code is a signed integer format (R210). -/
def cvtSigned (c : Nat) : Bool := 4 ≤ c && c ≤ 7

/-- An integer clamped to an integer format. -/
def cvtClamp (c : Nat) (v : Int) : Nat := clampTo (!cvtSigned c) (cvtWidth c) v

/-- Whether an integer lies in a format's range. -/
def cvtFits (c : Nat) (v : Int) : Bool :=
  let n := cvtWidth c
  if cvtSigned c then -(2 ^ (n - 1) : Nat) ≤ v && v ≤ (2 ^ (n - 1) : Nat) - 1 else 0 ≤ v && v ≤ (2 ^ n : Nat) - 1

/-- CVT of one element (R211). -/
def cvtElem (sc dc rnd : Nat) (sat : Bool) (x : Nat) : Nat × FFlags :=
  if sc < 4 then
    match decodeF sc x with
    | .nan sig => if dc < 4 then (defaultNaN dc, if sig then flNV else 0) else (0, flNV)
    | .inf neg => if dc < 4 then (infBits dc neg, 0) else (cvtClamp dc (if neg then -(2 ^ 64 : Nat) else (2 ^ 64 : Nat)), flNV)
    | .fin neg m e =>
      if dc < 4 then roundVal dc rnd (.fin neg m e)
      else
        let r := roundInt rnd neg m e
        let v := signed neg r.1
        if cvtFits dc v then (cvtClamp dc v, if r.2 then flNX else 0) else (cvtClamp dc v, flNV)
  else
    let v : Int := if cvtSigned sc then sgn (cvtWidth sc) x else x
    if dc < 4 then roundVal dc rnd (.fin (v < 0) v.natAbs 0)
    else (if sat then cvtClamp dc v else wrap (cvtWidth dc) v, 0)

/-- The source bits of CVT in its unit (R211). -/
def cvtTake (sc : Nat) (sh : Bool) (img : DWord) : Nat :=
  match cvtWidth sc with
  | 64 => img.toNat
  | 32 => img.toNat % 2 ^ 32
  | 16 => img.toNat / (if sh then 2 ^ 16 else 1) % 2 ^ 16
  | _ => img.toNat % 2 ^ 8

/-- The image that CVT writes: a register, a pair, or under U = 1 a scalar (R211). Under DH a signed scalar result is extended
from bit 31 (log 14). -/
def cvtImage (dc : Nat) (dh u : Bool) (old : Word) (v : Nat) : DWord :=
  let n := cvtWidth dc
  let img : Nat :=
    if n = 16 && dh then old.toNat % 2 ^ 16 + v * 2 ^ 16
    else if n = 8 && cvtSigned dc && !u then wrap 32 (sgn 8 v)
    else v
  if u && cvtSigned dc then BitVec.ofNat 64 (wrap 64 (sgn (if n = 16 && dh then 32 else n) img)) else BitVec.ofNat 64 img

/-- CVT (R210, R211): the destination's unit is a pair when it is 64 bits wide. -/
def cvtWave (s : State) (w : Wave) (f : FmtV) : Wave × FFlags :=
  let sc := cvtS f
  let dc := cvtD f
  let act := w.st.act f.h
  let dh := f.subop.getLsbD 1
  let one (t : Nat) : DWord × FFlags :=
    let src := srcUnit s w (sc < 4) f.h.u (cvtFmt sc) f.a t 0
    let old := (srcUnit s w false f.h.u 0 (dstSrc f.d) t 0 2).truncate 32
    let r := cvtElem sc dc f.rnd.toNat (f.subop.getLsbD 2) (cvtTake sc (f.subop.getLsbD 0) src)
    (cvtImage dc dh f.h.u old r.1, r.2)
  if f.h.u then
    if act = 0 then (w, 0) else ({ w with st := w.st.setS f.d.idx.toNat (one 0).1 }, (one 0).2)
  else
    (w.writeUnit (if cvtWidth dc = 64 then 1 else 0) f.d 0 act fun t => (one t).1, joinFlags act fun t => (one t).2)

def execCvt (f : FmtV) (s : State) : Host.Outcome State Fault Refusal :=
  issueP (.cvt f) (fun s k w => deliverRes s k (cvtWave s w f)) s

/-! Packing. -/

/-- `n` registers of a source in thread `t`, as one number, the first lowest (R212, R213); a level 0b11 source supplies the same
image to each (R66, R191). -/
def srcRegs (s : State) (w : Wave) (fp : Bool) (fmt : Nat) (f : Src) (n t : Nat) : Nat :=
  (List.range n).foldl (fun acc i => acc + (srcUnit s w fp false fmt f t i).toNat % 2 ^ 32 * 2 ^ (32 * i)) 0

/-- `n` consecutive registers written from one number in every active thread. -/
def Wave.writeRegs (w : Wave) (d : Dst) (n : Nat) (act : Word) (val : Nat → Nat) : Wave :=
  (List.range n).foldl (fun w i => w.setReg d.lvl.toNat (d.idx.toNat + i) act fun t =>
    BitVec.ofNat 32 (val t / 2 ^ (32 * i))) w

/-- The format trap of a block with a spare bit set, at the lowest active thread that reads one (R215). -/
def spareFail (w : Wave) (h : Hdr) (wd : Nat) (block : Nat → Nat) : Option Fail :=
  ((threads (w.st.act h)).find? fun t => bfpSpare wd (block t)).map fun t => ⟨16, 1, some t, none⟩

/-- BPK of one thread (R213). -/
def bpkBlock (wd bytes : Nat) : Nat :=
  bfpPack wd ((List.range (bfpMants wd)).map fun j => bfpClamp wd (sgn 8 (bytes / 2 ^ (8 * j) % 2 ^ 8)))

def execBpk (f : FmtV) (s : State) : Host.Outcome State Fault Refusal :=
  issueP (.bpk f) (fun s k w =>
    let wd := f.subop.toNat + 2
    .next (s.setWave k (w.writeRegs f.d 4 (w.st.act f.h) fun t => bpkBlock wd (srcRegs s w false 0 f.a (packRegs f false) t)))) s

/-- BUPK of one thread (R213): each mantissa in its byte. -/
def bupkBytes (wd block : Nat) : Nat :=
  (List.range (bfpMants wd)).foldl (fun acc j => acc + wrap 8 (bfpMant wd block j) * 2 ^ (8 * j)) 0

def execBupk (f : FmtV) (s : State) : Host.Outcome State Fault Refusal :=
  issueP (.bupk f) (fun s k w =>
    let wd := f.subop.toNat + 2
    match spareFail w f.h wd (srcRegs s w false 0 f.a 4) with
    | some e => .trap e
    | none => .next (s.setWave k (w.writeRegs f.d (packRegs f false) (w.st.act f.h) fun t => bupkBytes wd (srcRegs s w false 0 f.a 4 t)))) s

/-- Bits of an FP element on the packing's other side. -/
def packBits (fmt : Nat) : Nat := if fmt = 0 then 32 else 16

/-- The exponent X of a thread (R214). -/
def packExp (s : State) (w : Wave) (f : FmtV) (t : Nat) : Nat := (read32 s w f.b t 1).toNat % 256

/-- SBPK of one thread (R214): the block and its flags. -/
def sbpkBlock (wd fmt rnd x elems : Nat) : Nat × FFlags :=
  let ms := (List.range (bfpMants wd)).map fun j => sbpkMant wd fmt rnd x (elems / 2 ^ (packBits fmt * j) % 2 ^ packBits fmt)
  (bfpPack wd (ms.map Prod.fst), ms.foldl (fun a m => a ||| m.2) 0)

def execSbpk (f : FmtV) (s : State) : Host.Outcome State Fault Refusal :=
  issueP (.sbpk f) (fun s k w =>
    let act := w.st.act f.h
    let r (t : Nat) : Nat × FFlags :=
      sbpkBlock (f.subop.toNat + 2) f.fmt.toNat f.rnd.toNat (packExp s w f t) (srcRegs s w true f.fmt.toNat f.a (packRegs f true) t)
    deliverRes s k (w.writeRegs f.d 4 act fun t => (r t).1, joinFlags act fun t => (r t).2)) s

/-- SBUPK of one thread (R214): the elements and their flags. -/
def sbupkElems (wd fmt rnd x block : Nat) : Nat × FFlags :=
  (List.range (bfpMants wd)).foldl (fun acc j =>
    let r := sbupkElem wd fmt rnd x block j
    (acc.1 + r.1 * 2 ^ (packBits fmt * j), acc.2 ||| r.2)) (0, 0)

def execSbupk (f : FmtV) (s : State) : Host.Outcome State Fault Refusal :=
  issueP (.sbupk f) (fun s k w =>
    let act := w.st.act f.h
    let wd := f.subop.toNat + 2
    match spareFail w f.h wd (srcRegs s w false 0 f.a 4) with
    | some e => .trap e
    | none =>
      let r (t : Nat) : Nat × FFlags := sbupkElems wd f.fmt.toNat f.rnd.toNat (packExp s w f t) (srcRegs s w false 0 f.a 4 t)
      deliverRes s k (w.writeRegs f.d (packRegs f true) act fun t => (r t).1, joinFlags act fun t => (r t).2)) s

end Sys2Proof.Machine
end

