-- ==== Sys2Proof/Machine/CrossLane.lean ====
section
/-! DEFINITION. Cross-lane instructions and random numbers: XSEL, VOTE, BALL, SCAN, REDX, MATCH, RAND, RSEED (spec/09 R216 to
R219). -/
namespace Sys2Proof.Machine

/-- XSEL (R216). -/
def xselWave (s : State) (w : Wave) (f : FmtV) : Wave :=
  let fmt := f.fmt.toNat
  (w.elementwise false fmt f.d (w.st.act f.h) fun t off =>
    let b := (srcUnit s w false false 0 f.b t off 1).toNat
    (if b ≥ 32 || !bit w.st.live b then 0 else srcUnit s w false false fmt f.a b off (2 + t), 0)).1

def execXsel (f : FmtV) (s : State) : Host.Outcome State Fault Refusal :=
  issueP (.xsel f) (fun s k w => .next (s.setWave k (xselWave s w f))) s

/-- VOTE (R216): over the active threads' bits. -/
def voteResult (code : Nat) (act p : Word) : Bool :=
  match code with
  | 0 => p &&& act = act
  | 1 => p &&& act ≠ 0
  | _ => p &&& act = act || p &&& act = 0

def execVote (f : FmtV) (s : State) : Host.Outcome State Fault Refusal :=
  issueP (.vote f) (fun s k w =>
    let act := w.st.act f.h
    .next (s.setWave k (w.writePred f.d.idx.toNat act fun _ => voteResult f.subop.toNat act (w.st.p f.a.idx.toNat)))) s

def execBall (f : FmtV) (s : State) : Host.Outcome State Fault Refusal :=
  issueP (.ball f) (fun s k w =>
    let act := w.st.act f.h
    .next (s.setWave k (w.elementwise f.h.u 0 f.d act fun _ _ => ((act &&& w.st.p f.a.idx.toNat).zeroExtend 64, 0)).1)) s

/-- MATCH (R216): the mask is zero-extended, which for the high word of a 64-bit destination is DEDUCED (log 13). -/
def matchWave (s : State) (w : Wave) (f : FmtV) : Wave :=
  let fmt := f.fmt.toNat
  let act := w.st.act f.h
  let a (t off : Nat) : DWord := srcUnit s w false false fmt f.a t off
  (w.elementwise false fmt f.d act fun t off => ((maskOf fun u => bit act u && a u off = a t off).zeroExtend 64, 0)).1

def execMatchX (f : FmtV) (s : State) : Host.Outcome State Fault Refusal :=
  issueP (.matchX f) (fun s k w => .next (s.setWave k (matchWave s w f))) s

/-! SCAN and REDX. -/

/-- Combine of R217 on two elements. -/
def combineOp (code fmt rnd : Nat) (a b : Nat) : Nat × FFlags :=
  let bits := elemBits (code ≥ 5) fmt
  match code with
  | 0 => ((a + b) % 2 ^ bits, 0)
  | 1 => (if sgn bits a ≤ sgn bits b then a else b, 0)
  | 2 => (if sgn bits a ≥ sgn bits b then a else b, 0)
  | 3 => (min a b, 0)
  | 4 => (max a b, 0)
  | 5 => fAdd fmt rnd a b
  | 6 => fMinMax false fmt a b
  | _ => fMinMax true fmt a b

/-- Combine on whole units, element by element; an absent side gives the other (R217). -/
def combineUnit (code fmt rnd : Nat) (x y : Option DWord) : Option DWord × FFlags :=
  match x, y with
  | none, y => (y, 0)
  | x, none => (x, 0)
  | some a, some b =>
    let r := mapElems (unitBits fmt) (elemBits (code ≥ 5) fmt) (fun l => combineOp code fmt rnd (arg l 0) (arg l 1)) [a, b]
    (some r.1, r.2)

/-- One level of REDX's tree: neighbours combined (R217). -/
def redLevel (code fmt rnd : Nat) : List (Option DWord) → List (Option DWord) × FFlags
  | a :: b :: rest =>
    let r := combineUnit code fmt rnd a b
    let m := redLevel code fmt rnd rest
    (r.1 :: m.1, r.2 ||| m.2)
  | l => (l, 0)

/-- REDX's tree over the 32 threads. -/
def redTree (code fmt rnd : Nat) (l : List (Option DWord)) : DWord × FFlags :=
  let r := (List.range 5).foldl (fun (acc : List (Option DWord) × FFlags) _ =>
    let n := redLevel code fmt rnd acc.1
    (n.1, acc.2 ||| n.2)) (l, 0)
  ((r.1.head?.join).getD 0, r.2)

/-- SCAN's running values, one a thread (R217). -/
def scanList (code fmt rnd : Nat) : Option DWord → List (Option DWord) → List DWord × FFlags
  | _, [] => ([], 0)
  | acc, x :: rest =>
    let r := match x with
      | none => (acc, 0)
      | some _ => combineUnit code fmt rnd acc x
    let m := scanList code fmt rnd r.1 rest
    (r.1.getD 0 :: m.1, r.2 ||| m.2)

/-- The active threads' values of a unit. -/
def laneVals (s : State) (w : Wave) (f : FmtV) (act : Word) (off : Nat) : List (Option DWord) :=
  (List.range 32).map fun t =>
    if bit act t then some (srcUnit s w (f.subop.toNat ≥ 5) false f.fmt.toNat f.a t off) else none

/-- SCAN and REDX: one result for each unit, its flags joined once (R217, R239). -/
def laneWave (s : State) (w : Wave) (f : FmtV) (scan : Bool) : Wave × FFlags :=
  let fmt := f.fmt.toNat
  let act := w.st.act f.h
  let code := f.subop.toNat
  let unit (off : Nat) : (Nat → DWord) × FFlags :=
    let l := laneVals s w f act off
    if scan then
      let r := scanList code fmt f.rnd.toNat none l
      (fun t => (r.1[t]?).getD 0, r.2)
    else
      let r := redTree code fmt f.rnd.toNat l
      (fun _ => r.1, r.2)
  if act = 0 then (w, 0)
  else if f.h.u then ({ w with st := w.st.setS f.d.idx.toNat ((unit 0).1 0) }, (unit 0).2)
  else (unitOffs fmt f.d).foldl (fun acc off =>
    let r := unit off
    (acc.1.writeUnit fmt f.d off act r.1, acc.2 ||| r.2)) (w, 0)

def execScan (f : FmtV) (s : State) : Host.Outcome State Fault Refusal :=
  issueP (.scan f) (fun s k w => deliverRes s k (laneWave s w f true)) s

def execRedx (f : FmtV) (s : State) : Host.Outcome State Fault Refusal :=
  issueP (.redx f) (fun s k w => deliverRes s k (laneWave s w f false)) s

/-! Random numbers. -/

/-- The identifier of a thread (R218). -/
def drawId (s : State) (w : Wave) (t : Nat) : Nat :=
  let v (n : Nat) : Nat := (special s w n t).toNat
  ((v 69 * v 72 + v 68) * v 71 + v 67) * 1024 + v 66 * 32 + t

/-- One draw (R218). -/
def draw (seed : DWord) (id : Nat) (ctr : Nat) : DWord :=
  let x0 := seed ^^^ (BitVec.ofNat 64 id * 0x9E3779B97F4A7C15) ^^^ (BitVec.ofNat 64 ctr * 0xD1B54A32D192ED03)
  let x1 := (x0 ^^^ (x0 >>> 30)) * 0xBF58476D1CE4E5B9
  let x2 := (x1 ^^^ (x1 >>> 27)) * 0x94D049BB133111EB
  x2 ^^^ (x2 >>> 31)

/-- A draw as an element (R218): the FP forms are exact. -/
def drawElem (fp : Bool) (fmt : Nat) (x : DWord) : DWord :=
  match fp, fmt with
  | false, 1 => x
  | false, _ => x &&& 0xFFFFFFFF
  | true, 1 => BitVec.ofNat 64 (roundVal 1 0 (.fin false (x.toNat / 2 ^ 11) (-53))).1
  | true, _ => BitVec.ofNat 64 (roundVal 0 0 (.fin false (x.toNat / 2 ^ 40) (-24))).1

/-- The draw counter of a thread. -/
def WState.draws (st : WState) (t : Nat) : Nat := ((tget st.ctr t).getD 0).toNat

/-- RAND (R218): a draw for each unit in the linear order of the block. -/
def randWave (s : State) (w : Wave) (f : FmtV) : Wave :=
  let fmt := f.fmt.toNat
  let act := w.st.act f.h
  let offs := unitOffs fmt f.d
  let w1 := (offs.zipIdx).foldl (fun acc oj => acc.writeUnit fmt f.d oj.1 act fun t =>
    drawElem (f.subop.getLsbD 0) fmt (draw w.st.seed (drawId s w t) ((w.st.draws t + oj.2) % 2 ^ 32))) w
  let ctr := (threads act).foldl (fun c t => tset c t (BitVec.ofNat 32 (w.st.draws t + offs.length))) w.st.ctr
  { w1 with st := { w1.st with ctr := ctr } }

def execRand (f : FmtV) (s : State) : Host.Outcome State Fault Refusal :=
  issueP (.rand f) (fun s k w => .next (s.setWave k (randWave s w f))) s

/-- RSEED (R219). -/
def rseedWave (s : State) (w : Wave) (f : FmtV) : Wave :=
  let act := w.st.act f.h
  if act = 0 then w
  else { w with st := { w.st with
    seed := read64w s w f.a, ctr := (threads act).foldl (fun c t => tset c t 0) w.st.ctr } }

def execRseed (f : FmtV) (s : State) : Host.Outcome State Fault Refusal :=
  issueP (.rseed f) (fun s k w => .next (s.setWave k (rseedWave s w f))) s

end Sys2Proof.Machine
end

