-- ==== Sys2Proof/Machine/MemInstr.lean ====
section
/-! DEFINITION. Memory instructions LD, ST, LDC, PRF, LDP, STP, LDL, STL (spec/06 R120 to R138, spec/08 R179). -/
namespace Sys2Proof.Machine

/-! Addresses and data. -/

/-- The threads that a per-thread instruction accesses for: the active ones, under U = 1 one of them for the wave (R120,
R187). -/
def lanesOf (w : Wave) (h : Hdr) : List Nat :=
  let ts := threads (w.st.act h)
  if h.u then ts.take 1 else ts

/-- Whether a wave-level memory instruction acts: a thread is active, or U = 1 (R120). -/
def waveActs (w : Wave) (h : Hdr) : Bool := w.st.act h ≠ 0 || h.u

/-- Addr(t) of R130. `once` says that the wave reads its index once, where a special register that differs between threads has
no stated value (log 1). -/
def addrOf (s : State) (w : Wave) (once : Bool) (f : FmtM) (t : Nat) : DWord :=
  let ix : DWord := if f.sub.getLsbD 3 then ((srcUnit s w false once 0 f.b t 0 1).truncate 32).zeroExtend 64 else 0
  readBase s w f.a t + ix + f.ofs.signExtend 64

/-- The checks at issue of one access (R125, R130): canonical, then aligned to `u`. The address reported is the lowest that is not
canonical (R84). -/
def addrFail (t : Nat) (a : DWord) (size u : Nat) : Option Fail :=
  if !canonical a.toNat then some ⟨3, 1, some t, some a⟩
  else if !canonical (a.toNat + size - 1) then some ⟨3, 1, some t, some (BitVec.ofNat 64 vlim)⟩
  else if a.toNat % u ≠ 0 then some ⟨4, 1, some t, some a⟩
  else none

/-- The alignment unit of a size code (R129, R130). -/
def szUnit (sz : Nat) : Nat :=
  match sz with
  | 0 | 1 => 1
  | 2 | 3 => 2
  | 4 => 4
  | _ => 8

/-- Registers of a block. -/
def blockRegs (d : Dst) : Nat := (d.rows.toNat + 1) * (d.cols.toNat + 1)

/-- Bytes of one thread's access (R130). -/
def accSize (sz : Nat) (d : Dst) : Nat := if sz < 4 || d.lvl = 3 then szUnit sz else 4 * blockRegs d

/-- Bytes of a data block in thread `t`, register by register (R124). -/
def dataBytes (s : State) (w : Wave) (d : Dst) (t : Nat) : List Byte :=
  (blockOffs d).flatMap fun o => leBytes 4 (w.reg s d.lvl.toNat (d.idx.toNat + o) t (96 + t)).toNat

/-- A data field's bytes: a block's, or a scalar's eight (R121). -/
def storeData (s : State) (w : Wave) (d : Dst) (t n : Nat) : List Byte :=
  (if d.lvl = 3 then leBytes 8 (w.st.s d.idx.toNat).toNat else dataBytes s w d t).take n

/-- A sector that a queued entry of the strand will write (R126). -/
def markedFail (w : Wave) (q : Req) : Option Fail :=
  if (sectorsOf q.va q.n).any fun x => w.queue.any fun e => e.marks.contains x then
    some ⟨11, 3, some q.thr, some (BitVec.ofNat 64 q.va)⟩
  else none

/-- Loads of a list of threads: first the marked sectors of all (R126), then the accesses (the order of the two is DEDUCED, log 13). -/
def checkedLoads (s : State) (k : Nat) (w : Wave) (m : LoadMode) (reqs : List Req) : Except Fail (State × List (Nat × List Byte)) :=
  match reqs.findSome? (markedFail w) with
  | some f => .error f
  | none => loadLanes s s k w m reqs

/-- Whether an acquire of some threads' loads orders: one of them lies on a page that is not UO (R315). -/
def reqsOrder (s : State) (w : Wave) (reqs : List Req) : Bool :=
  reqs.any fun q => (partsOf q.va q.n).any fun x => match leafOf s (.lsu w.core) w.ctx (pageNo x.1) .load with
    | .ok y => pteOrd y.pte ≠ 2
    | .error _ => true

/-- The bytes of a thread among the answers of a load. -/
def bytesOf (vals : List (Nat × List Byte)) (t : Nat) : List Byte := (vals.filter fun e => e.1 = t).flatMap Prod.snd

/-- Word `j` of some bytes; past the end zero. -/
def wordAt (bs : List Byte) (j : Nat) : Word := BitVec.ofNat 32 (leNat ((bs.drop (4 * j)).take 4))

/-- The value that a load of a size code delivers (R130): 32 bits, or 64 for a scalar. -/
def loadedValue (sz : Nat) (bs : List Byte) : DWord :=
  let v := leNat bs
  match sz with
  | 1 => BitVec.ofNat 64 (wrap 64 (sgn 8 v))
  | 3 => BitVec.ofNat 64 (wrap 64 (sgn 16 v))
  | _ => BitVec.ofNat 64 v

/-- A load's delivery to its destination (R124, R130). -/
def deliverLoad (w : Wave) (h : Hdr) (d : Dst) (sz : Nat) (vals : Nat → List Byte) : Wave :=
  let act := w.st.act h
  if h.u then
    match lanesOf w h with
    | [] => w
    | t :: _ => { w with st := w.st.setS d.idx.toNat (loadedValue sz (vals t)) }
  else if sz < 4 then w.writeBlockWords d act fun t _ => (loadedValue sz (vals t)).truncate 32
  else w.writeBlockWords d act fun t j => wordAt (vals t) j

/-! LD and ST. -/

/-- LD (R130, R131). -/
def ldEff (s : State) (k : Nat) (w : Wave) (f : FmtM) : Eff :=
  let sz := f.sub.toNat / 16
  let acq := f.sub.toNat / 2 % 4 = 1
  let n := accSize sz f.d
  let reqs := (lanesOf w f.h).map fun t => (t, addrOf s w f.h.u f t)
  match reqs.findSome? fun e => addrFail e.1 e.2 n (szUnit sz) with
  | some e => .trap e
  | none =>
    let ls : List Req := reqs.map fun e => ⟨e.1, e.2.toNat, n⟩
    match checkedLoads s k w ⟨f.byp || acq, true, true, if acq then some f.scope.toNat else none⟩ ls with
    | .error e => .trap e
    | .ok (s1, vals) =>
      let s2 := s1.setWave k (deliverLoad w f.h f.d sz (bytesOf vals))
      let s3 := if !acq || reqs = [] then s2
        else if reqsOrder s w ls then acquireAt s2 k w.core f.scope.toNat false else raceAcquire s2 k false
      .next (turnover s3 w.core)

def execLd (f : FmtM) (s : State) : Host.Outcome State Fault Refusal := issueP (.ld f) (fun s k w => ldEff s k w f) s

/-- The plan of a queued store of byte runs. -/
def storePlan (s : State) (kind : StoreKind) (rel : Bool) (scope : Nat) (ls : List LaneBytes) : Plan :=
  ⟨s, .store kind rel scope ls, ls.flatMap fun l => sectorsOf l.va l.bytes.length⟩

/-- ST at issue (R130). -/
def stPlan (s : State) (w : Wave) (f : FmtM) : Except Fail Plan :=
  let sz := f.sub.toNat / 16
  let n := accSize sz f.d
  let ls := (lanesOf w f.h).map fun t => (t, addrOf s w f.h.u f t)
  match ls.findSome? fun e => addrFail e.1 e.2 n (szUnit sz) with
  | some e => .error e
  | none => .ok (storePlan s .st (f.sub.toNat / 2 % 4 = 1) f.scope.toNat
      (ls.map fun e => ⟨e.1, e.2.toNat, storeData s w f.d e.1 n⟩))

def execSt (f : FmtM) (s : State) : Host.Outcome State Fault Refusal := issueQ (.st f) (fun s _ w _ => stPlan s w f) s

/-! LDC and PRF. -/

/-- LDC (R133): read once for the wave, also under U = 1 with no active thread (R120); its faults are the wave's, so no thread is named
(R120, R366; DEDUCED, log 17). -/
def ldcEff (s : State) (k : Nat) (w : Wave) (f : FmtM) : Eff :=
  let sz := f.sub.toNat / 16
  let n := accSize sz f.d
  if !waveActs w f.h then .next s
  else
    let t := lowestThread (w.st.act f.h)
    let a := addrOf s w true f t
    match addrFail t a n (szUnit sz) with
    | some e => .trap { e with thr := none }
    | none =>
      match loadLanes s s k w ⟨false, true, true, none⟩ [⟨t, a.toNat, n⟩] with
      | .error e => .trap { e with thr := none }
      | .ok (s1, vals) =>
        let w1 := if f.h.u then { w with st := w.st.setS f.d.idx.toNat (loadedValue sz (bytesOf vals t)) }
          else deliverLoad w f.h f.d sz fun _ => bytesOf vals t
        .next (turnover (s1.setWave k w1) w.core)

def execLdc (f : FmtM) (s : State) : Host.Outcome State Fault Refusal := issueP (.ldc f) (fun s k w => ldcEff s k w f) s

/-- One thread's prefetch (R134), translated in the state `tr` as the instruction begins (R87): every failure but a lock is dropped. -/
def prefetchOne (tr s : State) (k : Nat) (w : Wave) (l2 : Bool) (va : Nat) : State :=
  match xlate tr (.lsu w.core) w.ctx va .load with
  | .error _ => s
  | .ok p =>
    let s1 := useXlat s (.lsu w.core) w.ctx va p.x
    if l2 then homeFill s1 (pteCmp p.pte) p.pa
    else match loadPart s1 k w false ⟨va, 1, p⟩ with
      | .error _ => s1
      | .ok (s2, _) => s2

/-- PRF (R126, R134). -/
def prfEff (s : State) (k : Nat) (w : Wave) (f : FmtM) : Eff :=
  let reqs : List Req := (lanesOf w f.h).map fun t => ⟨t, (addrOf s w false f t).toNat, 1⟩
  let fail (q : Req) : Option Fail :=
    match markedFail w q with
    | some e => some e
    | none => (lockFail s w.ctx (dieOfCore w.core) q.va 1 false).map fun n => ⟨9, n, some q.thr, some (BitVec.ofNat 64 q.va)⟩
  match reqs.findSome? fail with
  | some e => .trap e
  | none => .next (turnover (reqs.foldl (fun s' q => prefetchOne s s' k w (f.sub.toNat / 32 = 1) q.va) s) w.core)

def execPrf (f : FmtM) (s : State) : Host.Outcome State Fault Refusal := issueP (.prf f) (fun s k w => prfEff s k w f) s

/-! LDP and STP. -/

/-- The five coordinates of a thread (R135). -/
def coordsOf (s : State) (w : Wave) (f : FmtM) (t : Nat) : List Int :=
  (List.range 5).map fun k =>
    if k ≥ layoutCoords f.sub then 0
    else
      let v : Word := if f.b.lvl = 3 then (w.st.s (f.b.idx.toNat + k)).truncate 32 else (srcUnit s w false false 0 f.b t k 1).truncate 32
      v.toInt + (if k = 0 then f.ofs.toInt else 0)

/-- Where one thread's element lies: an address, or the padding value's bytes (R114, R136). -/
inductive ElemAt where
  | at' (va es fmt : Nat)
  | pad (bs : List Byte) (fmt : Nat)

/-- LDP's elements located, thread by thread (R114, R115, R136): these checks of all threads come before the accesses' own, DEDUCED
(log 13). -/
def ldpLocate (s : State) (w : Wave) (f : FmtM) : List Nat → Except Fail (State × List (Nat × ElemAt))
  | [] => .ok (s, [])
  | t :: rest =>
    match layUse s w.core w.ctx (read32 s w f.a t).toNat with
    | .error e => .error (e.at t)
    | .ok (s1, r) =>
      let es := layEs (layFmt r)
      let here : Except Fail ElemAt := match layElem r (coordsOf s w f t) with
        | none => .ok (.pad (layPad r) (layFmt r))
        | some a => match elemAddr a es with
          | .error e => .error (e.at t)
          | .ok va => .ok (.at' va es (layFmt r))
      match here with
      | .error e => .error e
      | .ok x =>
        match ldpLocate s1 w f rest with
        | .error e => .error e
        | .ok (s2, more) => .ok (s2, (t, x) :: more)

/-- An element widened (R136): one or two bytes to 32 bits, i8 and i16 by sign. -/
def widen (fmt : Nat) (bs : List Byte) : List Byte :=
  match fmt with
  | 4 => leBytes 4 (wrap 32 (sgn 8 (leNat bs)))
  | 5 => leBytes 4 (wrap 32 (sgn 16 (leNat bs)))
  | _ => bs

/-- LDP (R136). The layout and canonical checks of all threads (`ldpLocate`) come before any thread's marks, translation, seal and lock
checks, so that a higher thread's layout fault is reported before a lower thread's page fault: DEDUCED (log 13). -/
def ldpEff (s : State) (k : Nat) (w : Wave) (f : FmtM) : Eff :=
  match ldpLocate s w f (lanesOf w f.h) with
  | .error e => .trap e
  | .ok (s1, els) =>
    let reqs : List Req := els.filterMap fun e => match e.2 with
      | .at' va es _ => some ⟨e.1, va, es⟩
      | .pad .. => none
    match checkedLoads s1 k w ⟨f.byp, true, true, none⟩ reqs with
    | .error e => .trap e
    | .ok (s2, vals) =>
      let val (t : Nat) : List Byte := match (els.find? fun e => e.1 = t).map Prod.snd with
        | none => []
        | some (.at' _ _ fmt) => widen fmt (bytesOf vals t)
        | some (.pad bs fmt) => widen fmt bs
      .next (turnover (s2.setWave k (w.writeBlockWords f.d (w.st.act f.h) fun t j => wordAt (val t) j)) w.core)

def execLdp (f : FmtM) (s : State) : Host.Outcome State Fault Refusal := issueP (.ldp f) (fun s k w => ldpEff s k w f) s

/-- The sectors that a queued STP marks at its issue (R126); a thread that fails marks nothing. -/
def stpMarks (s : State) (w : Wave) : List LaneCoord → State × List Nat
  | [] => (s, [])
  | l :: rest =>
    match layUse s w.core w.ctx l.handle with
    | .error _ => stpMarks s w rest
    | .ok (s1, r) =>
      let r2 := stpMarks s1 w rest
      match layElem r l.coord with
      | none => r2
      | some a => match elemAddr a (layEs (layFmt r)) with
        | .error _ => r2
        | .ok va => (r2.1, sectorsOf va (layEs (layFmt r)) ++ r2.2)

def stpPlan (s : State) (w : Wave) (f : FmtM) : Plan :=
  let ls : List LaneCoord := (lanesOf w f.h).map fun t =>
    ⟨t, (read32 s w f.a t).toNat, coordsOf s w f t, storeData s w f.d t 64⟩
  let m := stpMarks s w ls
  ⟨m.1, .storeLayout ls, m.2⟩

def execStp (f : FmtM) (s : State) : Host.Outcome State Fault Refusal := issueQ (.stp f) (fun s _ w _ => .ok (stpPlan s w f)) s

/-! LDL and STL. -/

/-- The private word limit of a wave (R137, R339); a wave without a frame has 0. -/
def wordLimit (s : State) (w : Wave) : Nat :=
  match w.frameNo with
  | none => 0
  | some _ => min w.pwlim ((s.ctxReg w.ctx 0x44).toNat % 2 ^ 32 * 384)

/-- The word index of register `j` in thread `t` (R137). -/
def wordIndex (s : State) (w : Wave) (f : FmtM) (t j : Nat) : Int := ((read32 s w f.a t).toNat : Int) + f.ofs.toInt + j

/-- The check of one word (R137): the fault address is its index. -/
def wordFail (s : State) (w : Wave) (t : Nat) (x : Int) : Option Fail :=
  if x < 0 then some ⟨5, 2, some t, some (BitVec.ofInt 64 x)⟩
  else if x ≥ (wordLimit s w : Int) then some ⟨5, 1, some t, some (BitVec.ofInt 64 x)⟩ else none

/-- The address of a private word (R137). -/
def wordAddr (s : State) (w : Wave) (t : Nat) (x : Int) : Nat :=
  (s.ctxReg w.ctx 0x43).toNat + w.frameNo.getD 0 * ((s.ctxReg w.ctx 0x44).toNat % 2 ^ 32) * pageBytes + (x.toNat * 32 + t) * 4

/-- Every word of an LDL or STL: thread, register number, index. -/
def privWords (s : State) (w : Wave) (f : FmtM) : List (Nat × Nat × Int) :=
  let n := if f.d.lvl = 3 then 1 else blockRegs f.d
  (lanesOf w f.h).flatMap fun t => (List.range n).map fun j => (t, j, wordIndex s w f t j)

/-- An address of a private word that is not canonical (R84). -/
def privAddrFail (s : State) (w : Wave) (e : Nat × Nat × Int) : Option Fail := addrFail e.1 (BitVec.ofNat 64 (wordAddr s w e.1 e.2.2)) 4 1

def privFail (s : State) (w : Wave) (f : FmtM) : Option Fail :=
  (privWords s w f).findSome? fun e => match wordFail s w e.1 e.2.2 with
    | some x => some x
    | none => privAddrFail s w e

/-- LDL (R137); its accesses are those of an LD (R138). -/
def ldlEff (s : State) (k : Nat) (w : Wave) (f : FmtM) : Eff :=
  match privFail s w f with
  | some e => .trap e
  | none =>
    match checkedLoads s k w ⟨false, true, true, none⟩ ((privWords s w f).map fun e => ⟨e.1, wordAddr s w e.1 e.2.2, 4⟩) with
    | .error e => .trap e
    | .ok (s1, vals) =>
      .next (turnover (s1.setWave k (w.writeBlockWords f.d (w.st.act f.h) fun t j => wordAt (bytesOf vals t) j)) w.core)

def execLdl (f : FmtM) (s : State) : Host.Outcome State Fault Refusal := issueP (.ldl f) (fun s k w => ldlEff s k w f) s

def stlPlan (s : State) (w : Wave) (f : FmtM) : Except Fail Plan :=
  match privFail s w f with
  | some e => .error e
  | none =>
    .ok (storePlan s .stl false 0 ((privWords s w f).map fun e =>
      ⟨e.1, wordAddr s w e.1 e.2.2, ((storeData s w f.d e.1 64).drop (4 * e.2.1)).take 4⟩))

def execStl (f : FmtM) (s : State) : Host.Outcome State Fault Refusal := issueQ (.stl f) (fun s _ w _ => stlPlan s w f) s

end Sys2Proof.Machine
end

