-- ==== Sys2Proof/Machine/TileInstr.lean ====
section
/-! DEFINITION. Tiles, layout records, seals and cache control: TLD, TST, TALC, TFREE, TINFO, LAYSET, LAYINV, SEAL, UNSEAL, INVL1,
WBL2 (spec/06 R139 to R147, spec/05 R106 to R109). -/
namespace Sys2Proof.Machine

/-! TLD and TST. -/

/-- Row of a thread (R139). -/
def tileRow (s : State) (w : Wave) (f : FmtE) (t : Nat) : Nat := ((srcUnit s w false f.h.u 0 f.a t 0).truncate 32 : Word).toNat
/-- COL: the sum of R139, which is not cut to 32 bits, DESIGN CHOICE (log 13): R139 does not say whether it wraps. -/
def tileCol (s : State) (w : Wave) (f : FmtE) (t : Nat) : Nat :=
  ((srcUnit s w false f.h.u 0 f.b t 0 1).truncate 32 : Word).toNat + f.imm.toNat

/-- Bytes that one thread moves: 8 for a scalar (R139). -/
def tileBytes (d : Dst) : Nat := if d.lvl = 3 then 8 else 4 * blockRegs d

/-- Whether a run of a tile meets one that a queued TST will write (R126): one that leaves the tile writes nothing. -/
def tileMarked (s : State) (w : Wave) (id : Nat) (t : Tile) (off n : Nat) : Bool :=
  w.queue.any fun e => match e.op with
    | .tileStore h lvl lanes =>
      (match findTile s w.block h with
       | none => false
       | some (id', _) => id' = id && lvl = t.lvl && lanes.any fun x =>
           let a := (x.2.1 * t.cols + x.2.2.1) * ewBytes t.ew
           x.2.1 < t.rows && x.2.2.1 < t.cols && x.2.2.1 * ewBytes t.ew + x.2.2.2.length ≤ t.cols * ewBytes t.ew &&
             a < off + n && off < a + x.2.2.2.length)
    | _ => false

/-- One thread's read of a tile: the tile fault, then the marks, then an uncorrectable error. -/
def tldOne (s : State) (w : Wave) (f : FmtE) (t : Nat) : Except Fail (List Byte) :=
  let n := tileBytes f.d
  match tilePlace s w f.t.toNat f.lvl.toNat (tileRow s w f t) (tileCol s w f t) n false with
  | .error x => .error ⟨7, x, some t, none⟩
  | .ok (id, off) =>
    let marked := match tget s.tiles id with
      | none => false
      | some y => tileMarked s w id y off n
    if marked then .error ⟨11, 4, some t, none⟩
    else if tileWordsBad s id off n then .error ⟨26, 3, some t, none⟩
    else .ok (tileRead s id off n t)

def tldAll (s : State) (w : Wave) (f : FmtE) : List Nat → Except Fail (List (Nat × List Byte))
  | [] => .ok []
  | t :: rest =>
    match tldOne s w f t with
    | .error e => .error e
    | .ok bs => match tldAll s w f rest with
      | .error e => .error e
      | .ok more => .ok ((t, bs) :: more)

def tldEff (s : State) (k : Nat) (w : Wave) (f : FmtE) : Eff :=
  match tldAll s w f (lanesOf w f.h) with
  | .error e => .trap e
  | .ok vals => .next (s.setWave k (deliverLoad w f.h f.d 5 (bytesOf vals)))

def execTld (f : FmtE) (s : State) : Host.Outcome State Fault Refusal := issueP (.tld f) (fun s k w => tldEff s k w f) s

def execTst (f : FmtE) (s : State) : Host.Outcome State Fault Refusal :=
  issueQ (.tst f) (fun s _ w _ => .ok ⟨s, .tileStore f.t.toNat f.lvl.toNat ((lanesOf w f.h).map fun t =>
    (t, tileRow s w f t, tileCol s w f t, storeData s w f.d t (tileBytes f.d))), []⟩) s

/-! TALC, TFREE, TINFO. -/

/-- Bytes of tiles that a core holds in its scratchpad, or in its accumulator storage. -/
def tileUse (s : State) (core : Nat) (ma : Bool) : Nat :=
  ((tvals s.tiles).filter fun t => t.cores.contains core && (decide (t.lvl = 2) == ma)).foldl (fun n t => n + t.bytes) 0

/-- Tile-table entries of a core. -/
def tileCount (s : State) (core : Nat) : Nat := ((tvals s.tiles).filter fun t => t.cores.contains core).length

/-- Whether a core has room for a tile of a level (R107). -/
def tileRoom (s : State) (core lvl bytes : Nat) : Bool :=
  if lvl = 2 then tileUse s core true + bytes ≤ 196608 else tileUse s core false + bytes ≤ (s.core core).splitS * 49152

/-- The cores of a block's cluster, in %cid order (R107). -/
def clusterCores (s : State) (b : Block) : List Nat :=
  sortBy (fun x y => decide (x ≤ y))
    ((s.blocks.filterMap fun e => if e.2.launch = b.launch && e.2.cluster = b.cluster && e.2.status ≠ .retired then some e.2.core
      else none).eraseDups)

def roundTo192 (n : Nat) : Nat := (n + 191) / 192 * 192

/-- TALC (R140): its status and the state after it. When several statuses apply the lowest is returned (log 13). -/
def talcRun (s : State) (w : Wave) (h lvl : Nat) (shape : Word) : State × Nat :=
  let n := shape.toNat
  let ew := bitsOf n 22 20
  let rows := bitsOf n 9 0 + 1
  let cols := bitsOf n 19 10 + 1
  match tget s.blocks w.block with
  | none => (s, 4)
  | some b =>
    match findTile s w.block h with
    | some (_, t) => if t.lvl = lvl && t.ew = ew && t.rows = rows && t.cols = cols && bitsOf n 31 23 = 0 then (s, 0) else (s, 1)
    | none =>
      if bitsOf n 31 23 ≠ 0 || ew > 4 || (lvl = 2 && (ew = 0 || ew = 4 || rows % 32 ≠ 0 || cols % 32 ≠ 0)) then (s, 2)
      else
        let cores := if lvl = 1 then clusterCores s b else [b.core]
        let per := if lvl = 1 then (rows + cores.length - 1) / cores.length else rows
        let bytes := roundTo192 (per * cols * ewBytes ew)
        if cores.any fun c => !tileRoom s c lvl bytes then (s, 3)
        else if cores.any fun c => tileCount s c ≥ 256 then (s, 4)
        else
          let t : Tile :=
            { owner := if lvl = 1 then .cluster b.launch b.cluster else .block w.block, handle := h, lvl := lvl, ew := ew
              rows := rows, cols := cols, cores := cores, bytes := bytes, bd := 0, bs := 0, data := [], cleared := false
              poison := false }
          ({ s with tiles := tset s.tiles (tfresh s.tiles) t }, 0)

def talcEff (s : State) (k : Nat) (w : Wave) (f : FmtE) : State :=
  if !waveActs w f.h then s
  else
    let r := talcRun s w f.t.toNat f.lvl.toNat (read32w s w f.a)
    r.1.setWave k (w.writeStatus f.h.u f.d (w.st.act f.h) (BitVec.ofNat 64 r.2))

def execTalc (f : FmtE) (s : State) : Host.Outcome State Fault Refusal :=
  issueP (.talc f) (fun s k w => .next (talcEff s k w f)) s

def execTfree (f : FmtE) (s : State) : Host.Outcome State Fault Refusal :=
  issueQ (.tfree f) (fun s _ _ _ => .ok ⟨s, .tileFree f.t.toNat f.lvl.toNat, []⟩) s

/-- The table entry of a handle as TINFO returns it (R106, R142). -/
def tileInfo (s : State) (w : Wave) (h : Nat) : DWord :=
  match findTile s w.block h with
  | none => 0
  | some (_, t) => BitVec.ofNat 64 (tileWord t)

def execTinfo (f : FmtE) (s : State) : Host.Outcome State Fault Refusal :=
  issueP (.tinfo f) (fun s k w =>
    .next (if waveActs w f.h then s.setWave k (w.writeStatus f.h.u f.d (w.st.act f.h) (tileInfo s w f.t.toNat)) else s)) s

/-! LAYSET and LAYINV. -/

/-- LAYSET at issue (R143): the six scalars as the record; the sector that it will write is marked (R126). -/
def laysetPlan (s : State) (w : Wave) (f : FmtM) : Plan :=
  let h := (read32w s w f.a).toNat
  let marks := match layAddr s w.ctx h with
    | .error _ => []
    | .ok va => sectorsOf va 48
  ⟨s, .laySet h ((List.range 6).flatMap fun i => leBytes 8 (w.st.s (f.d.idx.toNat + i)).toNat), marks⟩

def execLayset (f : FmtM) (s : State) : Host.Outcome State Fault Refusal :=
  issueQ (.layset f) (fun s _ w _ => .ok (laysetPlan s w f)) s

/-- LAYINV (R144): one handle, or with all ones every entry of the context, in this core's cache. -/
def layinvRun (s : State) (core ctx : Nat) (h : Word) : State :=
  let c := s.core core
  s.setCore core { c with layouts := c.layouts.filter fun e => !(e.ctx = ctx && (h = 0xFFFFFFFF || e.handle = h.toNat)) }

def execLayinv (f : FmtM) (s : State) : Host.Outcome State Fault Refusal :=
  issueP (.layinv f) (fun s _ w =>
    .next (if w.st.act f.h = 0 then s else layinvRun s w.core w.ctx (read32w s w f.a))) s

/-! SEAL, UNSEAL, INVL1, WBL2. -/

def execSeal (f : FmtM) (s : State) : Host.Outcome State Fault Refusal :=
  issueQ (.seal f) (fun s _ w _ => .ok ⟨s, .sealRange (w.st.s f.a.idx.toNat).toNat (read64w s w f.b).toNat f.d f.h.u, []⟩) s

def execUnseal (f : FmtM) (s : State) : Host.Outcome State Fault Refusal :=
  issueQ (.unseal f) (fun s _ w _ => .ok ⟨s, .unsealRange (w.st.s f.a.idx.toNat).toNat (read64w s w f.b).toNat f.d f.h.u, []⟩) s

/-- INVL1 (R146): every L1 sector but the private ones. -/
def execInvl1 (f : FmtM) (s : State) : Host.Outcome State Fault Refusal :=
  issueP (.invl1 f) (fun s _ w =>
    .next (if w.st.act f.h = 0 then s else s.setCore w.core { s.core w.core with l1 := [] })) s

/-- The first page of a range that a wave may not read, lowest address first (R84, R147). -/
def readableFail (s : State) (w : Wave) (va n : Nat) : Option Fail :=
  (List.range (pageNo (va + n - 1) + 1 - pageNo va)).findSome? fun i =>
    let a := if i = 0 then va else (pageNo va + i) * pageBytes
    match xlate s (.lsu w.core) w.ctx a .load with
    | .error e => some (pageFail e a)
    | .ok _ => none

/-- Dirty sectors of a virtual range (R147). -/
def dirtyIn (s : State) (w : Wave) (va n : Nat) : List Nat :=
  (s.l2.flatMap fun l => (l.2.sects.filter fun x => x.2.dirty).map fun x => 4 * l.1 + x.1).filter fun x => (List.range (pageNo (va + n - 1) + 1 - pageNo va)).any fun i =>
    let a := if i = 0 then va else (pageNo va + i) * pageBytes
    let stop := min (va + n) ((pageNo va + i + 1) * pageBytes)
    match xlate s (.lsu w.core) w.ctx a .load with
    | .error _ => false
    | .ok p => p.pa / 48 ≤ x && x < (p.pa + (stop - a)) / 48

/-- One dirty sector written back to its tier: it stays present and becomes clean (R147). One found uncorrectable keeps its error, and
its tier's copy enters the poison list, as at an eviction (R440; log 23). -/
def cleanSector (s : State) (sector : Nat) : State :=
  match tget s.l2 (sector / 4), l2At s sector with
  | some l, some x =>
    let s1 := evictL2 s sector
    let bad := s.errs.contains (.l2 sector)
    { s1 with
      l2 := tset s1.l2 (sector / 4) { l with sects := tset ((tget s1.l2 (sector / 4)).map L2Line.sects |>.getD []) (sector % 4) { x with dirty := false } }
      errs := if bad then s1.errs ++ [.l2 sector] else s1.errs }
  | _, _ => s

/-- WBL2 (R147). A base that is not a multiple of 192 faults before a length of 0 does nothing: DESIGN CHOICE (log 13), as R147 does not
order the two. -/
def wbl2Eff (s : State) (w : Wave) (f : FmtM) : Eff :=
  let va := (w.st.s f.a.idx.toNat).toNat
  let n := 192 * (read64w s w f.b).toNat
  if !waveActs w f.h then .next s
  else if va % 192 ≠ 0 then .trap ⟨4, 1, none, some (BitVec.ofNat 64 va)⟩
  else if n = 0 then .next s
  else match readableFail s w va n with
    | some e => .trap e
    | none => .next ((dirtyIn s w va n).foldl cleanSector s)

def execWbl2 (f : FmtM) (s : State) : Host.Outcome State Fault Refusal := issueP (.wbl2 f) (fun s _ w => wbl2Eff s w f) s

end Sys2Proof.Machine
end

