-- ==== Sys2Proof/Machine/EngineInstr.lean ====
section
/-! DEFINITION. Engine and spawn instructions at issue: BULK, BCOPY, KICK, TEND, ECHK (spec/07 R156 to R168), SPAWN, BINCFG, LAUNCH
(spec/16 R357 to R360). -/
namespace Sys2Proof.Machine

/-- `n` scalars from index `i`. -/
def scalars (w : Wave) (i n : Nat) : List DWord := (List.range n).map fun k => w.st.s (i + k)

/-- Whether a thread is a taper (R162). -/
def isTaper (w : Wave) (t : Nat) : Bool := ((tget w.born t).map Born.taper).getD false

/-- The first active taper of an instruction that R165 forbids to tapers. -/
def taperFail (w : Wave) (h : Hdr) (sub : Nat) : Option Fail :=
  ((threads (w.st.act h)).find? (isTaper w)).map fun t => ⟨14, sub, some t, none⟩

def execBulk (f : FmtE) (s : State) : Host.Outcome State Fault Refusal :=
  issueQ (.bulk f) (fun s _ w _ => .ok
    ⟨s, .bulk (read32w s w f.a).toNat f.scope.toNat (scalars w f.d.idx.toNat 6) (scalars w f.b.idx.toNat 2), []⟩) s

def execBcopy (f : FmtE) (s : State) : Host.Outcome State Fault Refusal :=
  issueQ (.bcopy f) (fun s _ w _ => .ok
    ⟨s, .bcopy (read32w s w f.a).toNat f.t.toNat f.lvl.toNat f.scope.toNat (f.sub.getLsbD 0) (w.st.s f.d.idx.toNat)
      (scalars w f.b.idx.toNat 3), []⟩) s

def execKick (f : FmtE) (s : State) : Host.Outcome State Fault Refusal :=
  issueQ (.kick f) (fun s _ w _ => .ok
    ⟨s, .kick f.t.toNat f.lvl.toNat (read32w s w f.a).toNat (read32w s w f.b).toNat, []⟩) s

/-- TEND's checks at issue (R167, R265): every active thread is a taper. -/
def tendFail (w : Wave) (h : Hdr) : Option Fail :=
  match (threads (w.st.act h)).find? fun t => !isTaper w t with
  | some t => some ⟨14, 1, some t, none⟩
  | none => chainEnds w h

def execTend (f : FmtE) (s : State) : Host.Outcome State Fault Refusal :=
  issueB (.tend f) none (fun _ _ w => tendFail w f.h) s

/-- The core's engine fault record of a context (R168). -/
def engineRecord (s : State) (core ctx : Nat) : EFault := (tget (s.core core).efaults ctx).getD ⟨false, false, 0, 0, 0, 0⟩

/-- ECHK's status word (R168). -/
def engineStatus (s : State) (core ctx : Nat) : DWord :=
  let e := engineRecord s core ctx
  let pend := ((tvals s.engops).filter fun o => o.ctx = ctx && o.core = core && !o.suspended).length
  BitVec.ofNat 64 ((if e.v then 2 ^ 63 else 0) + (if e.ovf then 2 ^ 62 else 0) + e.op % 4 * 2 ^ 60 + e.fault % 16 * 2 ^ 56 +
    e.subc % 16 * 2 ^ 52 + pend % 2 ^ 16)

def echkEff (s : State) (k : Nat) (w : Wave) (f : FmtE) : State :=
  if w.st.act f.h = 0 then s
  else
    let v := if f.sub.getLsbD 0 then BitVec.ofNat 64 (engineRecord s w.core w.ctx).addr else engineStatus s w.core w.ctx
    let x := s.core w.core
    let s1 := if f.sub.getLsbD 1 then s.setCore w.core { x with efaults := terase x.efaults w.ctx } else s
    s1.setWave k (w.writeStatus f.h.u f.d (w.st.act f.h) v)

def execEchk (f : FmtE) (s : State) : Host.Outcome State Fault Refusal :=
  issueP (.echk f) (fun s k w => .next (echkEff s k w f)) s

/-- SPAWN at issue (R358): the argument registers of every active thread. -/
def spawnPlan (s : State) (w : Wave) (f : FmtE) : Except Fail Plan :=
  match taperFail w f.h 4 with
  | some e => .error e
  | none =>
    .ok ⟨s, .spawn (w.st.s f.a.idx.toNat) ((threads (w.st.act f.h)).map fun t =>
      (t, (List.range f.imm.toNat).map fun j => (srcUnit s w false false 0 f.b t j 1).truncate 32)), []⟩

def execSpawn (f : FmtE) (s : State) : Host.Outcome State Fault Refusal :=
  issueQ (.spawn f) (fun s _ w _ => spawnPlan s w f) s

/-- BINCFG (R359). A flushed bin that was refused admission already has expired. -/
def bincfgEff (s : State) (w : Wave) (f : FmtE) : State :=
  if w.st.act f.h = 0 then s
  else
    let s1 := if f.sub.getLsbD 1 then
        s.modBlock w.block fun b => { b with binTimer := (read32w s w f.b).toNat % 2 ^ 16 }
      else s
    if f.sub.getLsbD 0 then
      match (s1.core w.core).bins.find? fun e => e.2.block = w.block && e.2.entry = (w.st.s f.a.idx.toNat).toNat with
      | none => s1
      | some (i, b) => if b.refused.isSome then s1 else formBin s1 w.core i
    else s1

def execBincfg (f : FmtE) (s : State) : Host.Outcome State Fault Refusal :=
  issueP (.bincfg f) (fun s _ w => .next (bincfgEff s w f)) s

/-- LAUNCH at issue (R360): its address is a multiple of 192. -/
def launchPlan (s : State) (w : Wave) (f : FmtM) : Except Fail Plan :=
  let va := w.st.s f.a.idx.toNat
  if w.st.act f.h ≠ 0 && va.toNat % 192 ≠ 0 then .error ⟨4, 1, none, some va⟩
  else .ok ⟨s, .launch va.toNat (read32w s w f.b).toNat f.scope.toNat f.d.idx.toNat, []⟩

def execLaunch (f : FmtM) (s : State) : Host.Outcome State Fault Refusal :=
  issueQ (.launch f) (fun s _ w _ => launchPlan s w f) s

end Sys2Proof.Machine
end

