-- ==== Sys2Proof/Machine/EvWait.lean ====
section
/-! DEFINITION. Steps of the device on waiting waves: STRAND_BOUNDARY_RESUME, TRANSLATION_INVALIDATION, MATRIX_STEP_EXECUTE,
PATCH_ENGINE_COPY, WAKE_DELIVERY, VIGIL_BUDGET_EXPIRY, VIGIL_WITHDRAWAL, QUIESCENCE_LIMIT, LAUNCH_QUIESCENT, LAZY_FILL,
PARITY_ROLLBACK. A step that is not enabled changes nothing. -/
namespace Sys2Proof.Machine

/-- Whether a wave's block is on a core. -/
def onCore (s : State) (w : Wave) : Bool := s.residentBlock w.block

/-! STRAND_BOUNDARY_RESUME. -/

/-- Whether a wave waits in a boundary that may be looked at again (R150, R182). -/
def boundaryWaits (w : Wave) : Bool :=
  match w.wait with
  | .boundary | .steps | .latch | .patch | .inval => true
  | _ => false

def resumeRun (s : State) (k : Nat) : State :=
  match s.wave k with
  | none => s
  | some w => if boundaryWaits w && s.blockRuns w.block then resumeBoundary s k else s

def execStrandBoundaryResume (wave : Nat) (s : State) : Host.Outcome State Fault Refusal := .next (resumeRun s wave)

/-! TRANSLATION_INVALIDATION. -/

/-- Whether bytes of an invalidation's range are reached by some run of bytes (R89). -/
def XlInv.meets (x : XlInv) (va n : Nat) : Bool :=
  x.count = 0 || (n ≠ 0 && pageNo va < x.base + x.count && x.base ≤ pageNo (va + n - 1))

/-- Whether a cached translation maps a page of the range (R89). -/
def XlInv.drops (x : XlInv) (e : TEntry) : Bool :=
  e.ctx = x.ctx && (x.count = 0 || (e.base < x.base + x.count && x.base < e.base + leafPages e.x.level))

/-- The runs of memory that an engine operation reads or writes, and its barrier object. -/
def opSpans (s : State) (o : EngOp) : List (Nat × Nat) :=
  let m (e : EndPt) (n : Nat) : List (Nat × Nat) := match e with
    | .mem va => [(va, n)]
    | .tile .. => []
  let bar : List (Nat × Nat) := match o.bar with
    | .mem va => [(va, 16)]
    | _ => []
  bar ++ match o.kind with
  | .record a b len => m a len ++ m b len
  | .bcopy r t origin _ =>
    let y := (tget s.tiles t).map fun (y : Tile) => (y.rows * y.cols, y.cols)
    let z := y.getD (0, 1)
    (List.range z.1).filterMap fun e => (layElem r (coordPlus origin (e % z.2) (e / z.2) 0)).map fun a => (a.toNat, layEs (layFmt r))
  | .bulk r origin ext _ _ _ _ _ =>
    (List.range o.total).filterMap fun i => (itemLen s o i).map fun n =>
      let x := bulkRow r origin ext i
      ((x.2.2.2 + x.2.2.1).toNat, n)

/-- Whether an engine operation that has not finished still uses the range (R89): its bytes, its locks, its barrier object. -/
def invalBusy (s : State) (x : XlInv) : Bool :=
  (s.locks.any fun l => l.ctx = x.ctx && x.meets (48 * l.lo) (48 * (l.hi + 1 - l.lo))) ||
  (tvals s.engops).any fun o => o.ctx = x.ctx && (opSpans s o).any fun y => x.meets y.1 y.2

/-- A swapped-out wave's records changed so that it registers again once restored (R89); a wave formed from a bin has none. -/
def rewindRecords (s : State) (w : Wave) (pc : Nat) : Except (Nat × SaFail) State :=
  if w.isBin || onCore s w then .ok s
  else match tget s.ctxs w.ctx, tget s.blocks w.block with
    | some c, some b =>
      (match saWrites s w.ctx [(saAddr c 3 b.slot (192 + 3840 * w.wid + 568), leBytes 8 pc),
          (saAddr c 6 b.slot (48 * w.wid + 40), List.replicate 8 0)] with
       | .ok s1 => .ok s1
       | .error e => .error (b.slot, e))
    | _, _ => .ok s

/-- A vigil withdrawn by an invalidation (R89, R290): the wave's PC becomes the VIGIL's, and it registers again. -/
def rewindVigil (s : State) (v : Vigil) : Except (Nat × SaFail) State :=
  match v.waiter with
  | .dispatcher _ => .ok s
  | .wave k =>
    match s.wave k with
    | none => .ok (dropVigil s v)
    | some w =>
      let pc := (w.vpend.map VPend.pc).getD w.head.pc.toNat
      match rewindRecords (withdrawVigil s v) w pc with
      | .error e => .error e
      | .ok s1 =>
        let p := BitVec.ofNat 64 pc
        let s2 := s1.modWave k fun w => { w with
          wait := .none, vpend := none, st := { w.st with pc := p }, head := { w.head with pc := p } }
        .ok (settle (noteBusy s2 w.block) k)

def rewindVigils (s : State) : List Vigil → Except (Nat × SaFail) State
  | [] => .ok s
  | v :: rest =>
    match rewindVigil s v with
    | .error e => .error e
    | .ok s1 => rewindVigils s1 rest

/-- The vigils that were registered through a translation of the range (R89). -/
def invalVigils (s : State) (x : XlInv) : List Vigil :=
  (tvals s.vigils).filter fun v => v.ctx = x.ctx && x.meets v.va v.width && (match v.loc with
    | .mem _ => true
    | .tile .. => false)

/-- Every vigil of the range withdrawn (R89). -/
def invalRewind (s : State) (x : XlInv) : Except (Nat × SaFail) State := rewindVigils s (invalVigils s x)

/-- The invalidation completed (R89): every write of the context that has been sent is performed, no cache holds a translation of the
range, the invalidation no longer exists, its host is answered. -/
def finishInval (s : State) (x : XlInv) : State :=
  let s1 := flushSent s fun y => y.ctx = x.ctx
  { s1 with
    tlb := s1.tlb.filter fun e => !x.drops e
    xlinvs := s1.xlinvs.filter fun y => y.id ≠ x.id
    outbox := s1.outbox ++ x.reply.toList }

/-- Whether a failed access of a context waits for RUNCTX (R442). -/
def knownFailed (s : State) (ctx : Nat) (redo : SaRedo) : Bool :=
  ((tget s.ctxs ctx).map fun c => c.failed.any fun f => f.redo = redo).getD false

/-- An invalidation completes (R89). A save-area write that fails on its way, which R442 does not list, halts the context as a wake's
does, and the invalidation waits for RUNCTX: DESIGN CHOICE (log 21). -/
def invalRun (s : State) (id : Nat) : State :=
  match s.xlinvs.find? fun x => x.id = id with
  | none => s
  | some x =>
    if invalBusy s x || knownFailed s x.ctx (.rewind id) then s
    else match invalRewind s x with
      | .error (slot, e) => saFailed s x.ctx slot e (.rewind id)
      | .ok s1 => finishInval s1 x

def execTranslationInvalidation (k : Nat) (s : State) : Host.Outcome State Fault Refusal := .next (invalRun s k)

/-! MATRIX_STEP_EXECUTE. -/

def stepRun (s : State) (id : Nat) : State :=
  match s.cores.find? fun c => c.2.steps.any fun st => st.id = id with
  | none => s
  | some (c, x) =>
    match x.steps.find? fun st => st.id = id with
    | none => s
    | some st => if stepReady x.steps st then completeStep s c st else s

def execMatrixStepExecute (step : Nat) (s : State) : Host.Outcome State Fault Refusal := .next (stepRun s step)

/-! PATCH_ENGINE_COPY. -/

/-- The cores of the instance of a scope that contains a core (R19). -/
def scopeCores (scope core : Nat) : List Nat := (List.range 192).filter fun c => c = core || inScope scope core c

/-- The lit waves that a patch parks as it begins (R383 step 2), and which stay parked wherever their rollback takes them. -/
def parkedNow (s : State) (p : Patch) : List Nat := (s.waves.filter fun e => isLit s e.2 && p.parks e.1 e.2).map Prod.fst

/-- Every wave that a patch parks while it is lit is rolled back (R383 step 2). -/
def parkWaves (s : State) (p : Patch) : State :=
  s.waves.foldl (fun s e => if isLit s e.2 && p.parks e.1 e.2 then s.setWave e.1 e.2.rollback else s) s

/-- Steps 1 and 2 of a patch (R383): from now on it holds fetches of its range. -/
def patchBegin (s : State) (k : Nat) (w : Wave) (scope dst n : Nat) : State :=
  let p : Patch := ⟨w.ctx, scopeCores scope w.core, dst, dst + 12 * n, []⟩
  parkWaves { s with patches := tset s.patches k { p with parked := parkedNow s p } } p

/-- Bytes read through a translation, part by part; a part that fails to translate or is uncorrectable gives none. -/
def virtRead (s : State) (ctx va n : Nat) : List Byte :=
  (partsOf va n).flatMap fun p => match xlate s .hub ctx p.1 .load with
    | .error _ => []
    | .ok x => if uncorrectable s x.pa then [] else memRead s.mem x.pa p.2

/-- One instruction copied to its place, seals ignored, with the shadow record of its sector (R327, R383 step 3). The patch engine's
translations are the hub's (log 21). -/
def patchOne (s : State) (ctx dst src : Nat) : State :=
  let bs := virtRead s ctx src 12
  match xlate s .hub ctx dst .fetch with
  | .error _ => s
  | .ok p => if bs.length = 12 then raceCleared (homeWrite (useXlat s .hub ctx dst p.x) ctx p.pa bs (pteCmp p.pte)) .hub ctx dst 12 p.pte else s

/-- The lines of the range dropped from every instruction cache in scope (R383 step 4). -/
def patchInval (s : State) (p : Patch) : State :=
  let lines := (List.range ((p.hi - p.lo) / 12)).filterMap fun i => match xlate s .hub p.ctx (p.lo + 12 * i) .fetch with
    | .error _ => none
    | .ok x => some (x.pa / 192)
  { s with cores := s.cores.map fun e =>
      if p.cores.contains e.1 then (e.1, { e.2 with icache := e.2.icache.filter fun l => !lines.contains l.1 }) else e }

/-- A patch no longer parks the waves of a block; PARKED is cleared with the last that did (R379, R383 step 5). -/
def unparkBlock (s : State) (b k : Nat) : State :=
  match tget s.blocks b with
  | none => s
  | some x =>
    if !x.parked.contains k then s
    else
      let s1 := s.setBlock b { x with parked := x.parked.filter (· ≠ k) }
      if x.parked.all (· = k) then writeHeader s1 b else s1

/-- Step 5 of a patch (R383): the parked waves are released. -/
def unparkAll (s : State) (k : Nat) : State := (s.blocks.map Prod.fst).foldl (fun s b => unparkBlock s b k) s

/-- Steps 3 to 5 of a patch (R383). -/
def patchEnd (s : State) (k : Nat) (p : Patch) (src : Nat) : State :=
  let n := (p.hi - p.lo) / 12
  let s1 := (List.range n).foldl (fun s i => patchOne s p.ctx (p.lo + 12 * i) (src + 12 * i)) s
  let s2 := patchInval s1 p
  unparkAll { s2 with patches := terase s2.patches k } k

/-- The patch engine's two moves on a wave's PATCH (R383): steps 1 and 2, then steps 3 to 5, after which the boundary goes on. -/
def patchRun (s : State) (k : Nat) : State :=
  match s.wave k with
  | none => s
  | some w =>
    match w.residual with
    | [] => s
    | e :: rest =>
      match e.op, e.stage with
      | .patch scope dst src cnt, some 1 =>
        (match tget s.patches k with
         | none => patchBegin s k w scope dst.toNat (cnt.toNat % 2 ^ 32)
         | some p => resumeRun ((patchEnd s k p src.toNat).modWave k fun w => { w with residual := { e with stage := some 2 } :: rest }) k)
      | _, _ => s

def execPatchEngineCopy (wave : Nat) (s : State) : Host.Outcome State Fault Refusal := .next (patchRun s wave)

/-! WAKE_DELIVERY. -/

/-- Whether a wave belongs to a grid-wide release and its batch has not come (R406). -/
def inRelease (s : State) (k : Nat) : Bool := s.releases.any fun r => r.2.waves.any fun x => x.1 = k

/-- A wave that may run again, unless a release keeps it back (R350, R406). -/
def makeReady (s : State) (k : Nat) : State := if inRelease s k then s else settle s k

/-- A VIGIL's return to its wave (R279, R288, R290). -/
def vigilReturn (s : State) (k : Nat) (w : Wave) (value : DWord) (flag : Bool) (obs : Option WLoc) : State :=
  let s1 := match w.vpend with
    | none => s
    | some p => vigilResult s k w.core p flag value
  let s2 := (noteBusy s1 w.block).modWave k fun w => { w with wait := .none, vpend := none, vresult := none, vobs := none, waited := 0 }
  match obs with
  | none => s2
  | some loc => barObserve s2 w.ctx loc

/-- The end of a held ARV (R404): its result, and the boundary goes on. -/
def heldReturn (s : State) (k : Nat) (w : Wave) (value : DWord) : State :=
  match w.residual with
  | e :: rest =>
    (match e.op with
     | .arv _ _ _ dst pr =>
       (noteBusy s w.block).modWave k fun w => { w.arvResult dst pr value with wait := .boundary, vresult := none, residual := rest }
     | _ => s)
  | [] => s

/-- Whether a wave stands in the held ARV that a wake is for. -/
def heldHere (w : Wave) : Bool :=
  w.wait = .held && (match w.residual with
    | e :: _ => (match e.op with
      | .arv .. => e.stage.isSome
      | _ => false)
    | [] => false)

/-- A result written to a swapped-out wave's pending-vigil record, and its block's pending-wake bit (R279, R380). A wave formed from
a bin is the device's own part (log 10). -/
def recordResult (s : State) (w : Wave) (value : DWord) (flag : Bool) : Except (Nat × SaFail) State :=
  match tget s.ctxs w.ctx, tget s.blocks w.block with
  | some c, some b =>
    let s1 := s.setBlock w.block { b with pwake := true }
    let va := saAddr c 6 b.slot (48 * w.wid + 32)
    let old := match xlate s .hub w.ctx va .store with
      | .error _ => 0
      | .ok p => leNat (memRead s.mem (p.pa + 8) 8)
    let new := (old ||| 2) ||| (if flag then 4 else 0)
    let own := if w.isBin then [] else [(va, leBytes 8 value.toNat ++ leBytes 8 new)]
    (match saWrites s1 w.ctx (own ++ headerWrites s1 c { b with pwake := true }) with
     | .ok s2 => .ok s2
     | .error e => .error (b.slot, e))
  | _, _ => .ok s

/-- The wake with its entry taken off the list. -/
def dropWake (s : State) (i : Nat) : State := { s with wakes := s.wakes.eraseIdx i }

/-- A wake written to a swapped-out wave's record (R279): its result waits for the restore. -/
def wakeRecord (s : State) (i k : Nat) (x : Wake) (w : Wave) : Except (Nat × SaFail) State :=
  match recordResult (dropWake s i) w x.value x.flag with
  | .error e => .error e
  | .ok s1 => .ok ((noteBusy s1 w.block).modWave k fun w => { w with vresult := some (x.value, x.flag), vobs := x.observe })

/-- A wake for a wave delivered (R279); none when the wave cannot take it yet. One whose record cannot be written stays, and the
context is halted until RUNCTX writes it (R442). -/
def wakeWave (s : State) (i k : Nat) (x : Wake) (w : Wave) : Option State :=
  if onCore s w then
    if x.arv then (if heldHere w then some (resumeRun (heldReturn (dropWake s i) k w x.value) k) else none)
    else if w.wait = .vigil then some (makeReady (vigilReturn (dropWake s i) k w x.value x.flag x.observe) k)
    else none
  else if (w.wait ≠ .vigil && !heldHere w) || knownFailed s w.ctx (.wake k) then none
  else match wakeRecord s i k x w with
    | .error (slot, e) => some (saFailed s w.ctx slot e (.wake k))
    | .ok s1 => some s1

/-- A wake delivered (R279): to a wave, or to the dispatcher, which takes the TAIL (R332). -/
def wakeRun (s : State) (i : Nat) : State :=
  match s.wakes[i]? with
  | none => s
  | some x =>
    match x.waiter with
    | .dispatcher q =>
      if (tget s.queues q).isNone then dropWake s i
      else watchTail ((dropWake s i).modQueue q fun y => { y with taken := x.value.toNat }) q x.value.toNat
    | .wave k =>
      match s.wave k with
      | none => dropWake s i
      | some w => (wakeWave s i k x w).getD s

def execWakeDelivery (k : Nat) (s : State) : Host.Outcome State Fault Refusal := .next (wakeRun s k)

/-! Withdrawals. -/

def budgetRun (s : State) (k : Nat) : State :=
  match vigilOf s k with
  | none => s
  | some v => if v.timed && v.budget = 0 then { s with vigils := tset s.vigils v.id { v with withdraw := true } } else s

def execVigilBudgetExpiry (wave : Nat) (s : State) : Host.Outcome State Fault Refusal := .next (budgetRun s wave)

/-- A withdrawal taken by the slice (R283): the word as it is, the flag false. -/
def withdrawRun (s : State) (k : Nat) : State :=
  match vigilOf s k with
  | none => s
  | some v =>
    if v.withdraw then
      let s1 := withdrawVigil s v
      { s1 with wakes := s1.wakes ++ [⟨.wave k, v.va, v.value s, false, none, false, none⟩] }
    else s

def execVigilWithdrawal (wave : Nat) (s : State) : Host.Outcome State Fault Refusal := .next (withdrawRun s wave)

/-! Quiescence. -/

/-- The quiescence fault of a wave on its core (R354): at its VIGIL, or, where there is none, at its waiting entry, whose residual
queue it keeps. -/
def quiesceFault (s : State) (k : Nat) (w : Wave) (sub : Nat) : State :=
  let f : Fail := ⟨23, sub, none, none⟩
  let s1 := match w.vpend with
    | some p => trapAtVigil s k { w with vpend := none, qdue := 0, waited := 0 } f (BitVec.ofNat 64 p.pc)
    | none => takeTrap s k { w with wait := .none, qdue := 0, waited := 0 }
        ⟨23, sub, 2, none, ((w.residual.head?).map QEntry.pc).getD w.head.pc, w.head.pc, eaddrOf f⟩
  settle (noteBusy s1 w.block) k

/-- A waiting wave withdrawn (R354, R355): at once on its core, or when it is restored. -/
def quiesceWave (s : State) (k sub : Nat) : State :=
  match s.wave k with
  | none => s
  | some w =>
    let s1 := match vigilOf s k with
      | none => s
      | some v => withdrawVigil s v
    if onCore s w then quiesceFault s1 k w sub
    else s1.modWave k fun w => { w with qdue := sub }

/-- The limit of an untimed wait reached (R339, R354). -/
def limitRun (s : State) (k : Nat) : State :=
  match vigilOf s k, s.wave k with
  | some v, some w =>
    let lim := (s.ctxReg w.ctx 0x4E).toNat % 2 ^ 32
    if !v.timed && lim ≠ 0 && w.waited ≥ lim then quiesceWave s k 1 else s
  | _, _ => s

def execQuiescenceLimit (wave : Nat) (s : State) : Host.Outcome State Fault Refusal := .next (limitRun s wave)

/-- Whether a wave waits as R355 names it. -/
def quiescentWave (s : State) (k : Nat) (w : Wave) : Bool := waitsIn s true k w

/-- Whether a launch is quiescent now (R355): no cluster of it can be admitted, for want of slots or frames or because none is left
(R399). -/
def quiescent (s : State) (l : Nat) : Bool :=
  match tget s.launches l with
  | none => false
  | some la =>
    let mine (b : Nat) : Bool := ((tget s.blocks b).map fun (x : Block) => decide (x.launch = l)).getD false
    let ws := s.waves.filter fun e => mine e.2.block && e.2.wait ≠ .ended
    !la.clusterReady s && ws ≠ [] && ws.all (fun e => quiescentWave s e.1 e.2) &&
    !(ws.any fun e => (threads e.2.st.live).any fun t => ((tget e.2.born t).map Born.taper).getD false) &&
    !((tvals s.engops).any fun o => o.launch = l) &&
    !((tvals s.cores).any fun c => (tvals c.bins).any (fun y => mine y.block) || c.retbuf.any fun p => mine p.block) &&
    !(s.blocks.any fun e => e.2.launch = l && (e.2.bins ≠ [] || e.2.pieces ≠ []))

/-- A quiescent launch's waves withdrawn (R355). -/
def quiescentRun (s : State) (l : Nat) : State :=
  match tget s.launches l with
  | none => s
  | some la =>
    if la.quiet ≥ 100 && quiescent s l then
      let ks := (s.waves.filter fun e =>
        ((tget s.blocks e.2.block).map fun (x : Block) => decide (x.launch = l)).getD false && e.2.wait ≠ .ended).map Prod.fst
      (ks.foldl (fun s k => quiesceWave s k 2) s).modLaunch l fun la => { la with quiet := 0 }
    else s

def execLaunchQuiescent (launch : Nat) (s : State) : Host.Outcome State Fault Refusal := .next (quiescentRun s launch)

/-! LAZY_FILL and PARITY_ROLLBACK. -/

/-- An absent granule filled (R188). A fill whose read fails translation halts the context (R442); an uncorrectable error fills nothing
here: it is the fault of the instruction that accesses the granule, whose own fill meets it. -/
def lazyRun (s : State) (k g : Nat) : State :=
  match s.wave k with
  | none => s
  | some w =>
    if onCore s w && w.absent.contains g && !knownFailed s w.ctx (.read 1) then
      match fillGranule s k g with
      | .filled s1 => s1
      | .failed s1 => s1
      | .bad _ _ => s
    else s

def execLazyFill (wave granule : Nat) (s : State) : Host.Outcome State Fault Refusal := .next (lazyRun s wave granule)

/-- A parity error in the near file or the wick of a lit wave (R184), counted with the corrected errors (log 23). -/
def parityRun (s : State) (k : Nat) : State :=
  match s.wave k with
  | none => s
  | some w =>
    if !isLit s w then s
    else
      let s1 := correctError s (dieOfCore w.core)
      if w.parity + 1 < 3 then s1.setWave k { w.rollback with parity := w.parity + 1 } else trapNoCause s1 k w 26 1

def execParityRollback (wave : Nat) (s : State) : Host.Outcome State Fault Refusal := .next (parityRun s wave)

end Sys2Proof.Machine
end

