-- ==== Sys2Proof/Machine/EvEngine.lean ====
section
/-! DEFINITION. Steps of the request and bulk engines: ENGINE_READ_START, ENGINE_READS_COMPLETE, ENGINE_BYTES_LANDED, ENGINE_FAULT,
BULK_PIECE_RETURN, BIN_TIMER_EXPIRY (spec/07 R150 to R166, spec/05 R117). An operation moves in items: a run of bytes of a record
up to the next sector boundary of either end, the elements of a BCOPY in one sector, a piece of a BULK. A step that is not enabled changes
nothing. -/
namespace Sys2Proof.Machine

/-- An engine fault: its class, its sub-cause, its address (R153, R168). -/
abbrev EngFail := Nat × Nat × Nat

/-- Bytes of memory as an engine reads them, past every L1 (R96), what a release has ordered before them performed (R131). An uncorrectable
source has sub-cause 3 in the record, that of R365 for main memory, as R168 names none: DEDUCED (log 23). -/
def engRead (s : State) (core ctx va n : Nat) : Except EngFail (State × List Byte) :=
  match xlate s (.core core) ctx va .load with
  | .error e => .error (if e = 0 then (2, 3, va) else (0, e, va))
  | .ok p =>
    let s1 := flushReleased s core p.pa
    if uncorrectable s1 p.pa then .error (2, 3, va) else .ok (useRead s1 (.core core) ctx va p, memRead s1.mem p.pa n)

/-- Bytes of memory as an engine writes them (R105). -/
def engWrite (s : State) (core ctx va : Nat) (bs : List Byte) : Except EngFail State :=
  match xlate s (.core core) ctx va .store with
  | .error e => .error (if e = 0 then (2, 3, va) else (0, e, va))
  | .ok p =>
    if sealedBy s ctx va bs.length then .error (1, 1, va)
    else if vigilErr s (.mem p.pa) bs.length then .error (2, 3, va)
    else .ok (raceCleared (homeWrite (useXlat s (.core core) ctx va p.x) ctx p.pa bs (pteCmp p.pte)) (.core core) ctx va bs.length p.pte)

/-- An element's address, or the page fault of one that is not canonical (R84, R114). -/
def engAddr (a : Int) (n : Nat) : Except EngFail Nat :=
  match elemAddr a n with
  | .error f => .error (0, f.sub, (f.addr.getD 0).toNat)
  | .ok va => .ok va

/-- Bytes of an element, or of a run of elements, read at their address. -/
def engReadAt (s : State) (core ctx : Nat) (a : Int) (n : Nat) : Except EngFail (State × List Byte) :=
  match engAddr a n with
  | .error e => .error e
  | .ok va => engRead s core ctx va n

def engWriteAt (s : State) (core ctx : Nat) (a : Int) (bs : List Byte) : Except EngFail State :=
  match engAddr a bs.length with
  | .error e => .error e
  | .ok va => engWrite s core ctx va bs

/-- Bytes of a tile as an engine reads them. An uncorrectable one has no virtual address; its record has sub-cause 3 and address 0: DESIGN
CHOICE (log 23). -/
def engTileRead (s : State) (t off n : Nat) : Except EngFail (State × List Byte) :=
  if tileWordsBad s t off n then .error (2, 3, 0) else .ok (s, tileRead s t off n)

/-- Bytes of a list of elements, one after another. -/
def elemsRead (s : State) (rd : State → Nat → Except EngFail (State × List Byte)) : List Nat → Except EngFail (State × List Byte)
  | [] => .ok (s, [])
  | e :: rest =>
    match rd s e with
    | .error f => .error f
    | .ok (s1, bs) => match elemsRead s1 rd rest with
      | .error f => .error f
      | .ok (s2, more) => .ok (s2, bs ++ more)

/-- Bytes of a list of elements written, none of them where one fails (R153). -/
def elemsWrite (s : State) (wr : State → Nat → List Byte → Except EngFail State) (es : Nat) (bs : List Byte) :
    List Nat → Except EngFail State
  | [] => .ok s
  | e :: rest =>
    match wr s e (bs.take es) with
    | .error f => .error f
    | .ok s1 => elemsWrite s1 wr es (bs.drop es) rest

/-- An item's bytes read (R114, R159, R161). -/
def itemRead (s : State) (o : EngOp) (i n : Nat) : Except EngFail (State × List Byte) :=
  match o.kind with
  | .record (.mem va) _ _ => engRead s o.core o.ctx (va + i) n
  | .record (.tile t off) _ _ => engTileRead s t (off + i) n
  | .bcopy r t origin st =>
    let es := layEs (layFmt r)
    (match tget s.tiles t with
     | none => .ok (s, [])
     | some y => elemsRead s (fun s e =>
         if st then engTileRead s t (e * es) es
         else match layElem r (bcopyCoord origin y.cols e) with
           | none => .ok (s, layPad r)
           | some a => engReadAt s o.core o.ctx a es) (bcopyItem r origin y.rows y.cols i))
  | .bulk r origin ext _ _ _ _ _ =>
    let x := bulkRow r origin ext i
    engReadAt s o.core o.ctx (x.2.2.2 + x.2.2.1) n

/-- An item's bytes written (R155, R159). -/
def itemWrite (s : State) (o : EngOp) (i : Nat) (bs : List Byte) : Except EngFail State :=
  match o.kind with
  | .record _ (.mem va) _ => engWrite s o.core o.ctx (va + i) bs
  | .record _ (.tile t off) _ => .ok (tileWrite s t (off + i) bs)
  | .bcopy r t origin st =>
    let es := layEs (layFmt r)
    (match tget s.tiles t with
     | none => .ok s
     | some y => elemsWrite s (fun s e bs =>
         if !st then .ok (tileWrite s t (e * es) bs)
         else match layElem r (bcopyCoord origin y.cols e) with
           | none => .ok s
           | some a => engWriteAt s o.core o.ctx a bs) es bs (bcopyItem r origin y.rows y.cols i))
  | .bulk .. => .ok s

/-! ENGINE_READ_START and ENGINE_READS_COMPLETE. -/

/-- Whether an operation may start: every earlier one of its core has (R150), but for a BULK that a full return buffer holds back, which
never blocks a KICK or a BCOPY (R164). -/
def startsInOrder (s : State) (id : Nat) (o : EngOp) : Bool :=
  let full := returnUse s o.core ≥ 256
  o.items ≠ [] || s.engops.all fun e => e.1 ≥ id || e.2.core ≠ o.core || e.2.suspended || e.2.failed || e.2.items ≠ [] ||
    (full && isBulk e.2 && !isBulk o)

/-- Whether an item may be read now. -/
def mayRead (s : State) (id : Nat) (o : EngOp) (i : Nat) : Option Nat :=
  if o.suspended || o.failed || (tget o.items i).isSome || !startsInOrder s id o || (isBulk o && returnUse s o.core ≥ 256) then none
  else itemLen s o i

def readRun (s : State) (id i : Nat) : State :=
  match tget s.engops id with
  | none => s
  | some o =>
    match mayRead s id o i with
    | none => s
    | some n =>
      match itemRead s o i n with
      | .error _ => s
      | .ok (s1, bs) => s1.modOp id fun o => { o with items := tset o.items i (.read bs) }

def execEngineReadStart (op item : Nat) (s : State) : Host.Outcome State Fault Refusal := .next (readRun s op item)

def readsDoneRun (s : State) (id : Nat) : State :=
  match tget s.engops id with
  | none => s
  | some o => if !o.suspended && readBytes s o = o.total then releaseSources s id o else s

def execEngineReadsComplete (op : Nat) (s : State) : Host.Outcome State Fault Refusal := .next (readsDoneRun s op)

/-! ENGINE_BYTES_LANDED and ENGINE_FAULT. -/

def landRun (s : State) (id i : Nat) : State :=
  match tget s.engops id with
  | none => s
  | some o =>
    match tget o.items i with
    | some (.read bs) =>
      if o.suspended || isBulk o then s
      else match itemWrite s o i bs with
        | .error _ => s
        | .ok s1 => countBytes (s1.modOp id fun o => { o with items := tset o.items i .gone }) id bs.length false
    | _ => s

def execEngineBytesLanded (op item : Nat) (s : State) : Host.Outcome State Fault Refusal := .next (landRun s op item)

/-- The fault that the next action on an item meets (R153), if it meets one. -/
def itemFails (s : State) (id : Nat) (o : EngOp) (i : Nat) : Option EngFail :=
  match tget o.items i with
  | some (.read bs) =>
    if o.suspended || o.failed || isBulk o then none
    else match itemWrite s o i bs with
      | .error e => some e
      | .ok _ => none
  | some .gone => none
  | none =>
    match mayRead s id o i with
    | none => none
    | some n => match itemRead s o i n with
      | .error e => some e
      | .ok _ => none

/-- An engine fault (R153): what is left is counted as landed, with EFLT; the pieces of a BULK that were read go on. -/
def faultRun (s : State) (id i : Nat) : State :=
  match tget s.engops id with
  | none => s
  | some o =>
    match itemFails s id o i with
    | none => s
    | some e =>
      let s1 := recordFault s o e.1 e.2.1 e.2.2
      let rest := if isBulk o then o.total - readBytes s o else o.total - o.counted
      let s2 := releaseSources s1 id o
      countBytes (s2.modOp id fun o => { o with failed := true, lost := true }) id rest true

def execEngineFault (op item : Nat) (s : State) : Host.Outcome State Fault Refusal := .next (faultRun s op item)

/-! BULK_PIECE_RETURN and BIN_TIMER_EXPIRY. -/

/-- A closing taper of an operation that waits in a return buffer is placed (R163, R166). -/
def closingReturn (s : State) (id : Nat) : State :=
  match s.cores.find? fun c => c.2.retbuf.any fun p => p.thread.born.op = id with
  | none => s
  | some (c, x) =>
    match x.retbuf.find? fun p => p.thread.born.op = id with
    | none => s
    | some p =>
      let s1 := s.setCore c { x with retbuf := x.retbuf.erase p }
      (placeThread s1 c p.block p.entry p.thread).getD s

def pieceRun (s : State) (id i : Nat) : State :=
  match tget s.engops id with
  | none => closingReturn s id
  | some o =>
    match tget o.items i with
    | some (.read bs) =>
      if o.suspended then s
      else match pieceThread o id i bs with
        | none => s
        | some (entry, th) =>
          match placeThread s o.core o.block entry th with
          | none => s
          | some s1 => s1.modOp id fun o => { o with items := tset o.items i .gone }
    | _ => closingReturn s id

def execBulkPieceReturn (op item : Nat) (s : State) : Host.Outcome State Fault Refusal := .next (pieceRun s op item)

/-- A bin's timer expires (R163, R359). A bin that was refused is tried again, in the order of the refusals: space that a
swap-out released may be there. -/
def binRun (s : State) (c i : Nat) : State :=
  match tget (s.core c).bins i with
  | none => s
  | some b =>
    if b.refused.isSome then retryBins s c
    else if b.expired || (s.core c).cycles < b.started + b.limit then s
    else
      let x := s.core c
      formBin (s.setCore c { x with bins := tset x.bins i { b with expired := true } }) c i

def execBinTimerExpiry (core bin : Nat) (s : State) : Host.Outcome State Fault Refusal := .next (binRun s core bin)

end Sys2Proof.Machine
end

