-- ==== Sys2Proof/Machine/EvQueue.lean ====
section
/-! DEFINITION. Steps of the dispatcher on launch queues: LAUNCH_RECORD_START, LAUNCH_COMPLETION, DISPATCHER_GRANT,
QUANTUM_EXPIRY (spec/16 R329 to R345, R352, R353, spec/15 R322, spec/20 R402, R403). A step that is not enabled changes
nothing. -/
namespace Sys2Proof.Machine

/-! LAUNCH_RECORD_START. -/

/-- A queue stopped (R335, R353): STOP and QERR in its descriptor and in the dispatcher's copy, and a notify. -/
def stopQueue (s : State) (q qerr sub : Nat) : State :=
  let d := queueDesc s q
  let s1 := writeQueueFlags s q (qdEn d) true qerr
  let s2 := s1.modQueue q fun x => { x with desc := x.desc - bitsOf x.desc 223 219 * 2 ^ 219 + (qerr % 16 + 16) * 2 ^ 219 }
  let ctx := ((tget s.queues q).map fun x => qdCtx x.desc).getD 0
  s2.notify ctx 0x40 (BitVec.ofNat 64 (q + qerr % 16 * 2 ^ 10 + sub % 16 * 2 ^ 14)) []

/-- A malformed record (R335, QERR 1). -/
def recordBad (r : Nat) : Bool :=
  let f (hi lo : Nat) : Nat := bitsOf r hi lo
  let cl := [f 349 347, f 352 350, f 355 353]
  let gd := [f 479 448, f 511 480, f 543 512]
  f 703 697 ≠ 0 || f 447 441 ≠ 0 || f 383 371 ≠ 0 || f 346 0 ≠ 0 || f 361 356 = 0 || f 361 356 > 32 || f 367 362 = 0 ||
  f 367 362 > 32 || cl.any (fun c => c = 0 || c > 4) || cl.foldl (· * ·) 1 > 4 || (gd.zip cl).any (fun x => x.1 % x.2 ≠ 0) ||
  f 370 368 < 2 || !canonical (f 696 640)

/-- A malformed descriptor (R334, R335, QERR 2). -/
def descriptorBad (d : Nat) : Bool :=
  let f (hi lo : Nat) : Nat := bitsOf d hi lo
  let h (k : Nat) : Nat := f (64 * k + 831) (64 * k + 768)
  f 767 761 ≠ 0 || f 699 696 ≠ 0 || f 667 0 ≠ 0 || f 703 700 > 12 ||
  (List.range 12).any (fun k => if k < f 703 700 then h k / 2 ^ 61 ≠ 0 || bitsOf (h k) 60 57 = 0 || bitsOf (h k) 56 0 % 192 ≠ 0
    else h k ≠ 0) ||
  f 695 688 % 16 ≠ 0 || f 695 688 < 16 || f 695 688 > 240 || f 760 704 % 192 ≠ 0 ||
  f 687 683 + f 682 678 + f 677 673 ≠ 32 || f 687 683 < 2 || f 677 673 < 1

/-- A block that cannot fit a core (R335, QERR 4). -/
def fitBad (s : State) (la : Launch) : Bool :=
  la.bdim * farBytes la.farRegs > la.split.1 * 49152 ||
  (la.needsFrames s && (s.ctxReg la.ctx 0x45).toNat % 2 ^ 32 < la.bdim)

/-- A line read by the dispatcher through the context's translation, the hub's (R86, R335). -/
def dispatcherLine (s : State) (ctx va : Nat) : Option Nat :=
  match saRead s ctx va 192 with
  | .error _ => none
  | .ok bs => some (leNat bs)

/-- The checks of R335 in their order: the launch, or the QERR of the first that fails. -/
def readLaunch (s : State) (q : Nat) (x : Queue) : Except Nat Launch :=
  let ctx := qdCtx x.desc
  match dispatcherLine s ctx (qdBase x.desc + 192 * (qdHead x.desc % 2 ^ qdLsize x.desc)) with
  | none => .error 3
  | some r =>
    if recordBad r then .error 1
    else match dispatcherLine s ctx (bitsOf r 440 384) with
      | none => .error 3
      | some d =>
        if descriptorBad d then .error 2
        else
          let la : Launch :=
            { queue := q, ctx := ctx, index := qdHead x.desc, record := r, desc := d, admitted := [], retired := [], finished := []
              token := 0, deferred := [], quiet := 0 }
          if fitBad s la then .error 4 else .ok la

/-- What a record start leaves in the hub's cache and the slices: the reads of the record and its descriptor. -/
def recordTouch (s : State) (x : Queue) (la : Launch) : State :=
  saTouch (saTouch s la.ctx (qdBase x.desc + 192 * (qdHead x.desc % 2 ^ qdLsize x.desc)) 192) la.ctx (bitsOf la.record 440 384) 192

/-- The oldest record of a queue started, or its queue stopped (R331, R335, R374). -/
def recordStart (s : State) (q : Nat) : State :=
  match tget s.queues q with
  | none => s
  | some x =>
    if !qdEn x.desc || qdStop x.desc then s
    else if x.backlog > 2 ^ qdLsize x.desc then stopQueue s q 5 0
    else if x.running.isSome || x.backlog = 0 || !ctxRuns s (qdCtx x.desc) then s
    else match readLaunch s q x with
      | .error e => stopQueue s q e 0
      | .ok la =>
        let s1 := recordTouch s x la
        let l := tfresh s1.launches
        { s1 with launches := tset s1.launches l la }.modQueue q fun x => { x with running := some l }

def execLaunchRecordStart (queue : Nat) (s : State) : Host.Outcome State Fault Refusal := .next (recordStart s queue)

/-! LAUNCH_COMPLETION. -/

/-- The engine fault records of a context that are still valid, sent to its owner and cleared (R372, R434). -/
def reportFaults (s : State) (ctx : Nat) : State :=
  s.cores.foldl (fun s e =>
    let r := engineRecord s e.1 ctx
    if r.v then
      let s1 := s.notify ctx 30 0 (leBytes 8 (engineStatus s e.1 ctx).toNat ++ leBytes 8 r.addr ++ List.replicate 8 0)
      s1.setCore e.1 { s1.core e.1 with efaults := terase (s1.core e.1).efaults ctx }
    else s) s

/-- The completion store (R322, R323, R353): the state after it, or the sub-cause of its failure. -/
def completionStore (s : State) (la : Launch) : Except Nat State :=
  match xlate s .hub la.ctx la.cwaddr .store with
  | .error n => .error (if n = 0 then 10 else n)
  | .ok p =>
    if sealedBy s la.ctx la.cwaddr 8 then .error 9
    else if uncorrectable s p.pa || vigilErr s (.mem p.pa) 8 then .error 10
    else .ok (homeWrite (raceRelease (useXlat s .hub la.ctx la.cwaddr p.x) la.ctx) la.ctx p.pa (leBytes 8 la.cseq) (pteCmp p.pte))

/-- Whether every block of a launch has retired (R322, R352). -/
def Launch.over (s : State) (l : Nat) (la : Launch) : Bool :=
  la.admitted.length = la.clusters && s.blocks.all fun e => e.2.launch ≠ l || e.2.status = .retired

/-- HEAD advanced in memory and in the dispatcher's copy (R331); a queue that was disabled meanwhile leaves the dispatcher. -/
def advanceHead (s : State) (q : Nat) : State :=
  match tget s.queues q with
  | none => s
  | some x =>
    let h := (qdHead x.desc + 1) % 2 ^ 32
    let s1 := homeWrite s 4095 (s.qtBase + 48 * q + 40) (leBytes 4 h)
    s1.modQueue q fun y => { y with desc := y.desc - bitsOf y.desc 351 320 * 2 ^ 320 + h * 2 ^ 320, running := none }

def dropDisabled (s : State) (q : Nat) : State :=
  match tget s.queues q with
  | none => s
  | some x => if qdEn x.desc || x.running.isSome then s else { s with queues := terase s.queues q }

/-- A launch and its retired blocks taken out of the machine; its waves have left every release. -/
def eraseLaunch (s : State) (l : Nat) : State :=
  { s with launches := terase s.launches l, blocks := s.blocks.filter fun e => e.2.launch ≠ l }

/-- A launch that is over completed (R322, R323, R331, R352, R353). -/
def completeRun (s : State) (l : Nat) : State :=
  match tget s.launches l with
  | none => s
  | some la =>
    if !la.over s l || ((tget s.queues la.queue).bind Queue.running) ≠ some l then s
    else
      let s0 := tokenRun s l
      let s1 := (sortBy (fun p q => !keyLt q.key p.key) la.deferred).foldl applyContrib s0
      let s2 := reportFaults s1 la.ctx
      let (s3, sub) := match completionStore s2 la with
        | .ok t => (t, 0)
        | .error n => (s2, n)
      let s4 := eraseLaunch (advanceHead s3 la.queue) l
      dropDisabled (if sub = 0 then s4 else stopQueue s4 la.queue 6 sub) la.queue

def execLaunchCompletion (launch : Nat) (s : State) : Host.Outcome State Fault Refusal := .next (completeRun s launch)

/-! Clusters of a launch (R336, R337, R398). -/

def Launch.dims (la : Launch) : Nat × Nat × Nat := (la.gdx / max la.clx 1, la.gdy / max la.cly 1, la.gdz / max la.clz 1)

/-- The cluster with number (cz × Y + cy) × X + cx (R347). -/
def Launch.clusterPos (la : Launch) (c : Nat) : Nat × Nat × Nat :=
  let d := la.dims
  (c % max d.1 1, c / max d.1 1 % max d.2.1 1, c / max (d.1 * d.2.1) 1)

/-- h(x, y) of R337; `fuel` bounds the halvings of s. -/
def hilbert (n : Nat) : Nat → Nat → Nat → Nat → Nat → Nat
  | 0, _, _, _, d => d
  | fuel + 1, sz, x, y, d =>
    if sz = 0 then d
    else
      let rx := if x &&& sz ≠ 0 then 1 else 0
      let ry := if y &&& sz ≠ 0 then 1 else 0
      let d := d + sz * sz * ((3 * rx) ^^^ ry)
      let (x, y) := if ry = 0 then (if rx = 1 then (n - 1 - y, n - 1 - x) else (y, x)) else (x, y)
      hilbert n fuel (sz / 2) x y d

/-- The smallest power of two not below a number. -/
def pow2Above (m : Nat) : Nat := ((List.range 33).find? fun i => m ≤ 2 ^ i).elim (2 ^ 33) fun i => 2 ^ i

/-- The curve index of a cluster (R337). -/
def Launch.curveOf (la : Launch) (c : Nat) : Nat :=
  let d := la.dims
  let p := la.clusterPos c
  let n := pow2Above (max d.1 d.2.1)
  let h (x y : Nat) : Nat := hilbert n 34 (n / 2) x y 0
  let mine := h p.1 p.2.1
  p.2.2 * d.1 * d.2.1 + ((List.range (d.1 * d.2.1)).filter fun i => h (i % max d.1 1) (i / max d.1 1) < mine).length

/-- The blocks of a cluster in the order of their numbers (R336): their coordinates. -/
def Launch.clusterBlocks (la : Launch) (c : Nat) : List (Nat × Nat × Nat) :=
  let p := la.clusterPos c
  (List.range la.clz).flatMap fun k => (List.range la.cly).flatMap fun j => (List.range la.clx).map fun i =>
    (p.1 * la.clx + i, p.2.1 * la.cly + j, p.2.2 * la.clz + k)

/-- The compute die of a deterministic launch's cluster (R398). -/
def Launch.dieOf (la : Launch) (pmask curve : Nat) : Nat :=
  let dies := (List.range 4).filter fun d => bitsOf pmask (12 * d + 11) (12 * d) ≠ 0
  (dies[curve * dies.length / max la.clusters 1]?).getD 0

/-- The clusters that may be admitted next: any in a launch that is not deterministic, else the next along the curve (R347,
R398). -/
def Launch.mayAdmit (la : Launch) (c : Nat) : Bool :=
  c < la.clusters && !la.admitted.contains c && (!la.det || la.curveOf c = la.admitted.length)

/-! DISPATCHER_GRANT and QUANTUM_EXPIRY. -/

/-- The order of R340: priority, virtual time, number. -/
def queueBefore (a b : Nat × Queue) : Bool :=
  !keyLt [7 - qdPrio b.2.desc, b.2.vt, b.1] [7 - qdPrio a.2.desc, a.2.vt, a.1]

/-- The candidates for a quad, the best first (R340). -/
def quadCandidates (s : State) (q : Nat) : List (Nat × Queue) :=
  sortBy queueBefore (s.queues.filter fun e => isCandidate s e.2 && qdPmask e.2.desc / 2 ^ q % 2 = 1)

/-- A swap-out of a resident block, after which the core's refused bins are tried again (R163). -/
def swapOutFree (s : State) (b : Nat) (status : BStatus) : State :=
  match tget s.blocks b with
  | none => s
  | some x => if x.status = .resident then retryBins (swapOut s b status) x.core else s

/-- Pre-emption of a quad (R343): the holder's resident blocks on it are swapped out. -/
def preemptQuad (s : State) (q holder : Nat) : State :=
  let bs := s.blocks.filter fun e => e.2.queue = holder && e.2.status = .resident && quadOfCore e.2.core = q
  bs.foldl (fun s e => swapOutFree s e.1 .swapped) s

def giveQuad (s : State) (q queue : Nat) : State := s.setQuad q { s.quad q with grant := some queue, grantUs := s.hubUs }

/-- A quad granted (R340, R341): a free one; one of a holder of lower priority; one whose holder is no candidate any more. -/
def grantRun (s : State) (q : Nat) : State :=
  match quadCandidates s q with
  | [] => s
  | (b, x) :: rest =>
    match (s.quad q).grant with
    | none => giveQuad s q b
    | some h =>
      if h = b then s
      else match rest.find? fun e => e.1 = h with
        | none => giveQuad (preemptQuad s q h) q b
        | some (_, y) => if qdPrio x.desc > qdPrio y.desc then giveQuad (preemptQuad s q h) q b else s

def execDispatcherGrant (quad : Nat) (s : State) : Host.Outcome State Fault Refusal :=
  .next (if quad < 48 then grantRun s quad else s)

/-- A quantum that has run out (R341). -/
def quantumRun (s : State) (q : Nat) : State :=
  match quadCandidates s q with
  | [] => s
  | (b, x) :: rest =>
    match (s.quad q).grant with
    | none => s
    | some h =>
      match rest.find? fun e => e.1 = h with
      | none => s
      | some (_, y) =>
        if qdPrio x.desc = qdPrio y.desc && s.hubUs ≥ (s.quad q).grantUs + qdQuant y.desc then giveQuad (preemptQuad s q h) q b
        else s

def execQuantumExpiry (quad : Nat) (s : State) : Host.Outcome State Fault Refusal :=
  .next (if quad < 48 then quantumRun s quad else s)

end Sys2Proof.Machine
end

