-- ==== Sys2Proof/Machine/EvSched.lean ====
section
/-! DEFINITION. Steps of the distributor: CLUSTER_ADMISSION, CORE_RESPLIT, BLOCK_RETIRE, SWAP_THRESHOLD, BLOCK_RESTORE,
WAVE_LIGHTING, VICTIM_TIMEOUT, GRID_RELEASE_BATCH (spec/16 R336 to R351, spec/01 R22 to R24, spec/05 R101, R107, R110, R111,
spec/17 R376 to R381, R442, R443, spec/20 R398, R399, R406). A step that is not enabled changes nothing. -/
namespace Sys2Proof.Machine

/-! CLUSTER_ADMISSION and CORE_RESPLIT. -/

/-- Whether a core holds a stranded block, which no other may join (R442). -/
def strandedOn (s : State) (c : Nat) : Bool := s.blocks.any fun e => e.2.core = c && e.2.status = .stranded

def splitOf (x : Core) : Nat × Nat × Nat := (x.splitF, x.splitS, x.splitL)

/-- Whether a quad takes clusters of a launch now (R340, R346, R417, R439). -/
def quadTakes (s : State) (q : Nat) (la : Launch) : Bool :=
  let x := s.quad q
  x.grant = some la.queue && x.cls = la.cls && x.chg = 0 && !x.retention

/-- Whether the distributor may move a granted quad to a launch's pool (R346, R419). -/
def quadMovable (s : State) (q : Nat) (la : Launch) : Bool :=
  let x := s.quad q
  x.grant = some la.queue && x.cls ≠ la.cls && x.vfloor ≤ la.cls && la.cls ≤ x.vceil && !x.retention && !quadWaves s q

/-- The cores of a quad in an order that is not defined. -/
def quadCores (s : State) (q : Nat) : List Nat :=
  let r := (s.fv (fkey 18 q)).toNat % 4
  (List.range 4).map fun i => 4 * q + (i + r) % 4

/-- Whether a core takes a block of a launch with `n` waves (R24, R111, R347). -/
def coreTakes (s : State) (c : Nat) (la : Launch) (n : Nat) : Bool :=
  splitOf (s.core c) = la.split && hasRoom s c n la.farRegs && !strandedOn s c

/-- A wave born by launch (R336, R338, R339): its arguments, its live threads, its frame. -/
def launchWave (s : State) (la : Launch) (b core wid : Nat) (frame : Option Nat) : Wave :=
  let live : Word := if wid + 1 = la.bdim then maskOf fun t => t < la.tlast else BitVec.allOnes 32
  let side := 4 * core + (s.fv (fkey 19 wid)).toNat % 4
  let w := newWave s la.ctx b side wid false live la.entry la.farRegs la.seed
  let st := { w.st with scal := (List.range 12).map fun k => (k, la.arg k) }
  { w with st := st, head := st, frameNo := frame, pwlim := if frame.isSome then la.pwlim else 0 }

/-- One block born on a core (R336, R376): its slot, its waves, each lit as soon as a lit slot is free. -/
def birthBlock (s : State) (la : Launch) (l c curve : Nat) (n : Nat) (pos : Nat × Nat × Nat) (core slot : Nat)
    (frames : List Nat) : State :=
  let b := tfresh s.blocks
  let x : Block :=
    { ctx := la.ctx, launch := l, queue := la.queue, bx := pos.1, byy := pos.2.1, bz := pos.2.2
      linear := (pos.2.2 * la.gdy + pos.2.1) * la.gdx + pos.1, cluster := c, inCluster := n, curve := curve, slot := slot, core := core
      status := .resident, strandAs := .resident, pwake := false, lost := false, escWave := 0, escKey := 0, hcause := 0, hpc := 0, haddr := 0
      binTimer := 0, waited := 0, redd := [], notice := none, image := [], parked := [], bins := [], pieces := [], latches := [] }
  let s1 := { s with blocks := tset s.blocks b x }.modCtx la.ctx fun y => { y with slots := y.slots ++ [slot] }
  let s2 := (List.range la.bdim).foldl (fun s wid =>
    let k := tfresh s.waves
    lightOrQueue (s.setWave k (launchWave s la b core wid (frames[wid]?))) k) s1
  writeHeader (noteBusy s2 b) b

/-- The blocks of a cluster born one after another. -/
def birthAll (s : State) (la : Launch) (l c : Nat) (frames : List Nat) : List (Nat × (Nat × Nat × Nat) × Nat × Nat) → State
  | [] => s
  | (n, pos, core, slot) :: rest =>
    birthAll (birthBlock s la l c (la.curveOf c) n pos core slot ((frames.drop (n * la.bdim)).take la.bdim)) la l c frames rest

/-- A cluster admitted whole (R24, R336 to R339, R347, R376, R398), or the quad moved to its pool first (R346). -/
def admitRun (s : State) (l c q : Nat) : State :=
  match tget s.launches l with
  | none => s
  | some la =>
    let blocks := la.clusterBlocks c
    let n := blocks.length
    let pmask := ((tget s.queues la.queue).map fun x => qdPmask x.desc).getD 0
    let diesOk := !la.det || dieOfQuad q = la.dieOf pmask (la.curveOf c)
    if ((tget s.queues la.queue).bind Queue.running) ≠ some l || !la.mayAdmit c || !diesOk || !ctxRuns s la.ctx || q ≥ 48 then s
    else if quadMovable s q la then moveQuad s q la.cls
    else if !quadTakes s q la then s
    else
      let cores := ((quadCores s q).filter fun x => coreTakes s x la la.bdim).take n
      let frames := if la.needsFrames s then freeFrames s la.ctx (n * la.bdim) else some []
      match frames, freeSlots s la.ctx n with
      | some fr, some slots =>
        if cores.length < n then s
        else
          let s1 := birthAll s la l c fr ((List.range n).zip (blocks.zip (cores.zip slots)))
          { s1 with admissions := s1.admissions + 1 }.modLaunch l fun y => { y with admitted := y.admitted ++ [c] }
      | _, _ => s

def execClusterAdmission (launch cluster quad : Nat) (s : State) : Host.Outcome State Fault Refusal :=
  .next (admitRun s launch cluster quad)

/-- A core takes a launch's split (R110, R111): it holds no wave of the old one; its L1 is invalidated. A launch with a group count of
zero re-splits none (R352). A core that still holds a QS tile of a cluster resident elsewhere keeps its split: DESIGN CHOICE (log 20). -/
def resplitRun (s : State) (c l : Nat) : State :=
  match tget s.launches l with
  | none => s
  | some la =>
    let x := s.core c
    if c ≥ 192 || la.clusters = 0 || (s.quad (quadOfCore c)).grant ≠ some la.queue || splitOf x = la.split || coreWaves s c ≠ [] ||
      tileCount s c ≠ 0 || strandedOn s c then s
    else s.setCore c { x with splitF := la.split.1, splitS := la.split.2.1, splitL := la.split.2.2, l1 := [] }

def execCoreResplit (core launch : Nat) (s : State) : Host.Outcome State Fault Refusal := .next (resplitRun s core launch)

/-! BLOCK_RETIRE. -/

/-- Whether nothing of a resident block remains (R154, R356, R399). -/
def blockDone (s : State) (b : Nat) (x : Block) : Bool :=
  x.status = .resident && (s.wavesOf b).all (fun e => e.2.wait = .ended) && !blockWorks s b x &&
  !((s.core x.core).steps.any fun st => st.block = b)

/-- Whether a block is the last of its cluster that has not left its core for good (R107, R399). -/
def lastLeft (s : State) (b : Nat) (x : Block) : Bool :=
  !s.blocks.any fun e => e.1 ≠ b && e.2.launch = x.launch && e.2.cluster = x.cluster && e.2.status ≠ .retired && e.2.status ≠ .finished

/-- A block's place given back (R24, R101, R107): its waves, its tiles and, with the last block, its cluster's; its core's refused
bins are tried. -/
def leaveCore (s : State) (b : Nat) (x : Block) (status : BStatus) : State :=
  let ws := s.wavesOf b
  let s1 := ws.foldl (fun s e => (dropPrivate s e.1 e.2).eraseWave e.1) s
  let tiles := s1.tiles.filter fun e => match e.2.owner with
    | .block y => y = b
    | .cluster l c => l = x.launch && c = x.cluster && lastLeft s b x
  let s2 := tiles.foldl (fun s e => s.eraseTile e.1) s1
  let y := s2.core x.core
  let s3 := s2.setCore x.core { y with latches := y.latches.filter fun la => la.block ≠ b }
  retryBins (s3.modBlock b fun z => { z with status := status }) x.core

/-- A block's slot given back (R376). -/
def freeSlot (s : State) (b : Nat) (x : Block) : State :=
  let s1 := writeHeader (s.modBlock b fun z => { z with status := .retired, pwake := false }) b
  s1.modCtx x.ctx fun c => { c with slots := c.slots.filter (· ≠ x.slot) }

/-- Clusters retired along the curve while the next has finished (R399). -/
def retireChain (l : Nat) : Nat → State → State
  | 0, s => s
  | fuel + 1, s =>
    match tget s.launches l with
    | none => s
    | some la =>
      match la.finished.find? fun c => la.curveOf c = la.retired.length with
      | none => s
      | some c =>
        let bs := s.blocks.filter fun e => e.2.launch = l && e.2.cluster = c
        let s1 := bs.foldl (fun s e => freeSlot s e.1 e.2) s
        retireChain l fuel (s1.modLaunch l fun y => { y with finished := y.finished.filter (· ≠ c), retired := y.retired ++ [c] })

/-- The contributions of a block that leaves its core without the token go to the pool (R402); one for which the pool has no room stays
with the block: DESIGN CHOICE (log 12). -/
def spillContribs (s : State) (b : Nat) (x : Block) : State :=
  if ((tget s.launches x.launch).map fun l => decide (l.token = x.linear)).getD true then s
  else
    let r := x.redd.foldl (fun (acc : State × List Contrib) c =>
      if c.spilled.isSome then (acc.1, acc.2 ++ [c])
      else match takeSpill acc.1 c.ctx with
        | .error _ => (acc.1, acc.2 ++ [c])
        | .ok (t, n) => (t, acc.2 ++ [{ c with spilled := some n }])) (s, [])
    r.1.modBlock b fun y => { y with redd := r.2 }

/-- A block that is done retires; in a deterministic launch its cluster finishes, and clusters retire along the curve (R154,
R399). -/
def retireRun (s : State) (b : Nat) : State :=
  match tget s.blocks b with
  | none => s
  | some x =>
    match tget s.launches x.launch with
    | none => s
    | some la =>
      if !blockDone s b x then s
      else if !la.det then tokenRun (freeSlot (leaveCore s b x .retired) b x) x.launch
      else
        let bs := s.blocks.filter fun e => e.2.launch = x.launch && e.2.cluster = x.cluster
        if !bs.all fun e => blockDone s e.1 e.2 then s
        else
          let s1 := bs.foldl (fun s e => spillContribs (leaveCore s e.1 e.2 .finished) e.1 e.2) s
          let s2 := s1.modLaunch x.launch fun y => { y with finished := y.finished ++ [x.cluster] }
          tokenRun (retireChain x.launch (la.clusters + 1) s2) x.launch

def execBlockRetire (block : Nat) (s : State) : Host.Outcome State Fault Refusal := .next (retireRun s block)

/-! SWAP_THRESHOLD. -/

/-- Whether a core has demand (R344): a refused bin, or a launch granted its quad with a block waiting for admission. -/
def coreDemand (s : State) (c : Nat) : Bool :=
  ((tvals (s.core c).bins).any fun b => b.refused.isSome) ||
  (match (s.quad (quadOfCore c)).grant with
   | none => false
   | some q =>
     match (tget s.queues q).bind Queue.running with
     | none => false
     | some l =>
       ((tget s.launches l).map fun (la : Launch) => decide (la.admitted.length < la.clusters)).getD false ||
       s.blocks.any fun e => e.2.launch = l && e.2.status = .swapped && blockActive s e.1 e.2)

/-- Whether every wave of a resident block has waited its context's threshold (R163, R344): what its engines do does not count. -/
def overThreshold (s : State) (b : Nat) (x : Block) : Bool :=
  x.status = .resident && allWait s b && x.waited ≥ (s.ctxReg x.ctx 0x4F).toNat % 2 ^ 32

/-- The block that has waited longest is swapped out (R344). -/
def thresholdRun (s : State) (b : Nat) : State :=
  match tget s.blocks b with
  | none => s
  | some x =>
    let older := s.blocks.any fun e => e.1 ≠ b && e.2.core = x.core && e.2.ctx = x.ctx && e.2.waited > x.waited && overThreshold s e.1 e.2
    if overThreshold s b x && !older && coreDemand s x.core then swapOutFree s b .swapped else s

def execSwapThreshold (block : Nat) (s : State) : Host.Outcome State Fault Refusal := .next (thresholdRun s block)

/-! BLOCK_RESTORE. -/

/-- What a restore reads of one wave (R381, R443). -/
structure WaveImage where
  wave : Nat
  st : WState
  be : Option DWord
  frame : Option (WState × Option DWord × DWord × DWord × DWord)
  bank : Tab Lanes
  deriving DecidableEq, Repr

/-- How reading a slot ends: read, a failed access, or a malformed slot and the wave. -/
inductive SlotRead where
  | ok (l : List WaveImage)
  | failed (e : SaFail)
  | malformed (wid : Nat)

def bankOf (bs : List Byte) : Tab Lanes :=
  (List.range 32).map fun i => (i, (List.range 32).map fun t => some (BitVec.ofNat 32 (recNat bs (128 * i + 4 * t) 4)))

/-- One wave's records read: HEAD, FRAME when HEAD says PL 1, and the bank (R379, R443). -/
def readWave (s : State) (c : Ctx) (slot k : Nat) (w : Wave) : Except SaFail (Option WaveImage) :=
  match saRead s w.ctx (saAddr c 3 slot (192 + 3840 * w.wid)) 1920, saRead s w.ctx (saAddr c 3 slot (2112 + 3840 * w.wid)) 1920,
    saRead s w.ctx (saAddr c 2 slot (77952 * w.wid)) 4096 with
  | .error e, _, _ => .error e
  | _, .error e, _ => .error e
  | _, _, .error e => .error e
  | .ok h, .ok f, .ok b =>
    match parseRecord false h with
    | none => .ok none
    | some (st, be) =>
      let mk (fr : Option (WState × Option DWord × DWord × DWord × DWord)) : WaveImage := ⟨k, st, be, fr, bankOf b⟩
      if !st.pl1 then .ok (some (mk none))
      else match parseRecord true f with
        | none => .ok none
        | some (fs, fbe) =>
          let r (o : Nat) : DWord := BitVec.ofNat 64 (recNat f o 8)
          .ok (some (mk (some (fs, fbe, r 576, r 584, r 592))))

def readWaves (s : State) (c : Ctx) (slot : Nat) : List (Nat × Wave) → SlotRead
  | [] => .ok []
  | (k, w) :: rest =>
    if w.isBin || w.wait = .ended then readWaves s c slot rest
    else match readWave s c slot k w with
      | .error e => .failed e
      | .ok none => .malformed w.wid
      | .ok (some x) => match readWaves s c slot rest with
        | .ok l => .ok (x :: l)
        | r => r

/-- A block's slot read back; the device's own parts must be what it wrote (R443). -/
def readSlot (s : State) (b : Nat) (x : Block) : SlotRead :=
  match tget s.ctxs x.ctx with
  | none => .ok []
  | some c =>
    match readWaves s c x.slot (s.wavesOf b) with
    | .ok l => (match imageRead s x.ctx x.image with
      | .error e => .failed e
      | .ok good => if good then .ok l else .malformed 0)
    | r => r

/-- A pending boundary instruction as a record names it: the device's own, or the instruction that stands at another PC. -/
def pendingAt (s : State) (ctx : Nat) (own : Option (Instr × DWord)) : Option DWord → Option (Instr × DWord)
  | none => none
  | some pc =>
    match own with
    | some (i, p) => if p = pc then some (i, p) else instrAt s ctx pc
    | none => instrAt s ctx pc
where
  /-- The instruction at a PC, if it can be fetched. -/
  instrAt (s : State) (ctx : Nat) (pc : DWord) : Option (Instr × DWord) :=
    match xlate s .hub ctx pc.toNat .fetch with
    | .error _ => none
    | .ok p => some (decode (BitVec.ofNat 96 (leNat (memRead s.mem p.pa 12))), pc)

/-- One wave restored from its records (R188, R381, R443): ERES is the PC of its FRAME (R368). -/
def applyImage (s : State) (x : WaveImage) : State :=
  s.modWave x.wave fun w =>
    let w1 := { w with st := x.st, head := x.st, be := pendingAt s w.ctx w.be x.be, bank := x.bank, near := [], wick := []
                       absent := List.range (w.farRegs / 16) }
    match x.frame with
    | none => { w1 with frame := none }
    | some (fs, fbe, epc, eaddr, ecause) =>
      { w1 with frame := some fs, fbe := pendingAt s w.ctx w.fbe fbe, eres := fs.pc, epc := epc, eaddr := eaddr, ecause := ecause }

/-- A slot found malformed (R443): sub-cause 5 to the host for the block, which stays swapped out; the notify waits until the header has
been written (R434, R442). -/
def slotMalformed (s : State) (b : Nat) (x : Block) (wid : Nat) : State :=
  let s1 := s.setBlock b { x with
    status := .escalated, escWave := wid, hcause := causeWord ⟨26, 5, 3, none, 0, 0, 0⟩ false false, hpc := s.fv (fkey 20 b)
    haddr := s.fv (fkey 21 b) }
  let arg := BitVec.ofNat 64 (x.slot + 5 * 2 ^ 52)
  match tryHeader s1 b with
  | .ok t => t.notify x.ctx 26 arg []
  | .error (ctx, slot, e) => saFailed (s1.modBlock b fun y => { y with notice := some (26, arg) }) ctx slot e (.header b)

/-- The first slot of a group that cannot be restored, handled (R442, R443); none when all were read. -/
def readGroup (s : State) : List (Nat × Block) → Except State (List (List WaveImage))
  | [] => .ok []
  | (b, x) :: rest =>
    match readSlot s b x with
    | .failed e => .error (saFailed s x.ctx x.slot e (.read 1))
    | .malformed wid => .error (slotMalformed s b x wid)
    | .ok l => match readGroup s rest with
      | .error t => .error t
      | .ok ls => .ok (l :: ls)

/-- Whether the waves, bins, pieces, latches, operations and tiles of a swapped-out block fit a core (R22, R24, R107, R163, R164,
R150). -/
def blockFits (s : State) (c b : Nat) (x : Block) (la : Launch) (qs : List Tile) : Bool :=
  let y := s.core c
  let ws := (s.wavesOf b).map Prod.snd
  let tiles := ((tvals s.tiles).filter fun t => t.owner = .block b) ++ qs
  let bytes (ma : Bool) : Nat := (tiles.filter fun t => decide (t.lvl = 2) == ma).foldl (fun n t => n + t.bytes) 0
  let mine := (tvals s.engops).filter fun o => o.block = b
  let read := mine.foldl (fun n o => n + if isBulk o then (o.items.filter fun e => match e.2 with
    | .read _ => true
    | .gone => false).length else 0) 0
  splitOf y = la.split && !strandedOn s c && (coreWaves s c).length + ws.length ≤ 64 &&
  farUsed s c + ws.foldl (fun n w => n + farBytes w.farRegs) 0 ≤ y.splitF * 49152 &&
  tileCount s c + tiles.length ≤ 256 && tileRoom s c 2 (bytes true) && tileRoom s c 0 (bytes false) &&
  y.bins.length + x.bins.length ≤ 8 && returnUse s c + x.pieces.length + read ≤ 256 && y.latches.length + x.latches.length ≤ 8 &&
  ((tvals s.engops).filter fun o => o.core = c && !o.suspended).length + mine.length ≤ 64

/-- The device-owned parts of a block put on a core (R154, R163, R256); a bin's timer starts again (log 9). -/
def attachBlock (s : State) (b : Nat) (x : Block) (c : Nat) : State :=
  let y := s.core c
  let free := (List.range 8).filter fun i => (tget y.bins i).isNone
  let bins := (free.zip x.bins).foldl (fun t e => tset t e.1 { e.2 with started := y.cycles }) y.bins
  let s1 := s.setCore c { y with bins := bins, retbuf := y.retbuf ++ x.pieces, latches := y.latches ++ x.latches }
  let s2 := s1.setBlock b { x with
    core := c, status := .resident, image := [], bins := [], pieces := [], latches := [], pwake := false, waited := 0 }
  { s2 with engops := tmap s2.engops fun o => if o.block = b then { o with suspended := false, core := c } else o }

/-- The pending-vigil record of a wave cleared once its result has been applied (R381). A write that fails, which R442 does not list,
halts the context as a wake's does: DESIGN CHOICE (log 10). -/
def clearRecord (s : State) (k : Nat) : State :=
  match s.wave k with
  | none => s
  | some w =>
    match tget s.ctxs w.ctx, tget s.blocks w.block with
    | some c, some b =>
      if w.isBin then s
      else (match saWrite s w.ctx (saAddr c 6 b.slot (48 * w.wid)) (List.replicate 48 0) with
        | .ok t => t
        | .error e => saFailed s w.ctx b.slot e (.clear k))
    | _, _ => s

/-- A restored wave goes on (R279, R288, R350, R354, R381): a result that waited is its VIGIL's or its ARV's return, a quiescence
fault that was due is taken, a boundary that was under way waits to be looked at again, any other is ready to be lit. -/
def wakeRestored (s : State) (k : Nat) : State :=
  match s.wave k with
  | none => s
  | some w =>
    if !s.blockRuns w.block then s else
    match w.vresult with
    | some (v, flag) =>
      clearRecord (if w.wait = .held then heldReturn s k w v else makeReady (vigilReturn s k w v flag w.vobs) k) k
    | none =>
      if w.qdue ≠ 0 then quiesceFault s k w w.qdue
      else match w.wait with
        | .none | .parked => if w.residual ≠ [] || w.be.isSome then s.setWave k { w with wait := .boundary } else lightOrQueue s k
        | _ => s

/-- What the reads of a block's slot at a restore leave in the slices and the hub's translations (R75, R86, R93). -/
def slotTouch (s : State) (b : Nat) (x : Block) : State :=
  match tget s.ctxs x.ctx with
  | none => s
  | some c =>
    let places := ((s.wavesOf b).filter fun e => !e.2.isBin).flatMap fun e => [(saAddr c 3 x.slot (192 + 3840 * e.2.wid), 1920),
      (saAddr c 3 x.slot (2112 + 3840 * e.2.wid), 1920), (saAddr c 2 x.slot (77952 * e.2.wid), 4096)]
    (places ++ x.image.map fun y => (y.1, y.2.length)).foldl (fun s y => saTouch s x.ctx y.1 y.2) s

/-- One block restored on a core (R381, R443): each of its waves on a side that is not defined, admitted now (R349). -/
def restoreBlock (s : State) (b : Nat) (x : Block) (c : Nat) (l : List WaveImage) : State :=
  let s1 := attachBlock (l.foldl applyImage (slotTouch s b x)) b x c
  let ks := (s1.wavesOf b).map Prod.fst
  let s2 := ks.foldl (fun s k => s.modWave k fun w => { w with
    side := 4 * c + (s.fv (fkey 19 k)).toNat % 4, admitted := s1.admissions, lit := false }) s1
  retryBins (ks.foldl wakeRestored (writeHeader s2 b)) c

def restoreAll (s : State) : List ((Nat × Block) × Nat × List WaveImage) → State
  | [] => s
  | ((b, x), c, l) :: rest => restoreAll (restoreBlock s b x c l) rest

/-- Cores for the blocks of a group, the first on the named core, the others on distinct cores of its quad (R107, R347). -/
def placeGroup (s : State) (la : Launch) (qs : List Tile) (used : List Nat) (cores : List Nat) : List (Nat × Block) → Option (List Nat)
  | [] => some []
  | (b, x) :: rest =>
    match cores.find? fun c => !used.contains c && blockFits s c b x la qs with
    | none => none
    | some c => (placeGroup s la qs (c :: used) cores rest).map fun l => c :: l

/-- The tiles of the blocks of a group, and of their cluster when it comes whole, on their cores (R107): a QS tile spreads over the cores
in the order of their numbers. Of a cluster that comes back after a block of it has retired they are fewer, and BYTES stays: DESIGN
CHOICE (log 20). -/
def assignTiles (s : State) (x : Block) (whole : Bool) (group : List ((Nat × Block) × Nat)) : State :=
  let sorted := sortBy (fun a b => decide (a ≤ b)) (group.map Prod.snd)
  { s with tiles := tmap s.tiles fun t => match t.owner with
      | .block b => (match group.find? fun g => g.1.1 = b with
        | some g => { t with cores := [g.2] }
        | none => t)
      | .cluster l cl => if whole && l = x.launch && cl = x.cluster then { t with cores := sorted } else t }

/-- Whether a wave of a grid-wide release's batch that stands before one of a block's waves is still swapped out (R406): it is restored
first. -/
def releaseBefore (s : State) (group : List (Nat × Block)) : Bool :=
  let inGroup (k : Nat) : Bool := ((s.wave k).map fun w => group.any fun e => e.1 = w.block).getD false
  let out (k : Nat) : Bool := ((s.wave k).map fun w =>
    ((tget s.blocks w.block).map fun (y : Block) => decide (y.status = .swapped)).getD false).getD false
  s.releases.any fun r => (r.2.batch.any inGroup) && ((r.2.batch.takeWhile fun k => !inGroup k).any out)

/-- A swapped-out block restored on a core, with its whole cluster when none of it is resident (R107, R343, R381, R383, R398, R406, R442,
R443). -/
def restoreRun (s : State) (b c : Nat) : State :=
  match tget s.blocks b with
  | none => s
  | some x =>
    match tget s.launches x.launch with
    | none => s
    | some la =>
      let mine (e : Nat × Block) : Bool := e.2.launch = x.launch && e.2.cluster = x.cluster
      let resident := s.blocks.filter fun e => mine e && (e.2.status = .resident || e.2.status = .stranded)
      let whole := resident.isEmpty
      let group := if whole then (b, x) :: s.blocks.filter fun e => mine e && e.1 ≠ b && e.2.status = .swapped else [(b, x)]
      let q := quadOfCore c
      let pmask := ((tget s.queues la.queue).map fun y => qdPmask y.desc).getD 0
      let placeOk := c < 192 && (resident.all fun e => quadOfCore e.2.core = q) &&
        (!la.det || dieOfQuad q = la.dieOf pmask x.curve)
      let due := group.any fun e => blockActive s e.1 e.2
      let held := group.any (fun e => e.2.parked ≠ [] || (s.wavesOf e.1).any fun w => inRelease s w.1) || releaseBefore s group
      if x.status ≠ .swapped || !ctxRuns s x.ctx || !placeOk || !due || held then s
      else if quadMovable s q la then moveQuad s q la.cls
      else if !quadTakes s q la then s
      else
        let qs := if whole then (tvals s.tiles).filter fun t => t.owner = .cluster x.launch x.cluster else []
        let cores := c :: (quadCores s q).filter (· ≠ c)
        match placeGroup s la qs (resident.map fun e => e.2.core) cores group with
        | none => s
        | some cs =>
          let s1 := assignTiles s x whole (group.zip cs)
          if cs.head? ≠ some c || cs.any (fun y => tileEntries s1 y > 64) then s
          else match readGroup s group with
            | .error t => t
            | .ok images =>
              let s2 := restoreAll s1 (group.zip (cs.zip images))
              tokenRun { s2 with admissions := s2.admissions + 1 } x.launch

def execBlockRestore (block core : Nat) (s : State) : Host.Outcome State Fault Refusal := .next (restoreRun s block core)

/-! WAVE_LIGHTING, VICTIM_TIMEOUT and GRID_RELEASE_BATCH. -/

/-- A wave in a lighting queue that can be lit. -/
def canLight (s : State) (side k : Nat) : Bool :=
  match s.wave k with
  | none => false
  | some w => w.side = side && !w.lit && w.wait = .parked && s.blockRuns w.block

/-- A freed slot goes to the head of the lighting queue; with none free a victim is chosen (R350). -/
def lightingRun (s : State) (side : Nat) : State :=
  let x := s.side side
  match x.lighting.filter (canLight s side) with
  | [] => s
  | k :: rest =>
    let now := (s.core (coreOfSide side)).cycles
    if (litOf s side).length < 4 then
      (s.setSide side { x with lighting := rest }).modWave k fun w => { w.reload with lit := true, litAt := now, victim := false, wait := .none }
    else if (litOf s side).any fun e => e.2.victim then s
    else
      let old := sortBy (fun a b => decide (a.2.litAt ≤ b.2.litAt)) ((litOf s side).filter fun e => now ≥ e.2.litAt + 1024)
      match old with
      | [] => s
      | (v, _) :: _ => s.modWave v fun w => { w with victim := true, litAt := now }

def execWaveLighting (side : Nat) (s : State) : Host.Outcome State Fault Refusal := .next (lightingRun s side)

/-- A victim that reached no boundary within 16,384 cycles is rolled back and darkened (R350). -/
def victimRun (s : State) (k : Nat) : State :=
  match s.wave k with
  | none => s
  | some w =>
    if w.lit && w.victim && (s.core w.core).cycles ≥ w.litAt + 16384 then joinLighting (s.setWave k w.rollback.darken) k else s

def execVictimTimeout (wave : Nat) (s : State) : Host.Outcome State Fault Refusal := .next (victimRun s wave)

/-- Whether a wave of a batch has been lit since its wake: it is lit, has ended, is gone, or waits for something new. -/
def beenLit (s : State) (k : Nat) : Bool :=
  match s.wave k with
  | none => true
  | some w => w.lit || !(w.wait = .none || w.wait = .parked || (w.wait = .vigil && (vigilOf s k).isNone))

/-- The next batch of a grid-wide release (R406, R422): the resident waves first, by curve index and wave index. -/
def releaseRun (s : State) (id : Nat) : State :=
  match tget s.releases id with
  | none => s
  | some r =>
    if r.batch ≠ [] then
      (if r.batch.all (beenLit s) then { s with releases := tset s.releases id { r with batch := [], nextUs := s.hubUs + 1 } } else s)
    else if r.waves = [] then { s with releases := terase s.releases id }
    else if s.hubUs < r.nextUs then s
    else
      let onCores := r.waves.filter fun x => ((s.wave x.1).map (onCore s)).getD false
      let pool := sortBy (fun a b => !keyLt [b.2.2.1, b.2.2.2] [a.2.2.1, a.2.2.2]) (if onCores = [] then r.waves else onCores)
      let cluster (x : Nat × Nat × Nat × Nat) : Nat × Nat := (x.2.1, x.2.2.1)
      let clusters := ((pool.map cluster).eraseDups).take r.slew
      let batch := (pool.filter fun x => clusters.contains (cluster x)).map Prod.fst
      let s1 := { s with releases := tset s.releases id { r with batch := batch, waves := r.waves.filter fun x => !batch.contains x.1 } }
      batch.foldl (fun s k => if ((s.wave k).map fun w => decide (w.wait = .none) && onCore s w).getD false then settle s k else s) s1

def execGridReleaseBatch (k : Nat) (s : State) : Host.Outcome State Fault Refusal := .next (releaseRun s k)

end Sys2Proof.Machine
end

