-- ==== Sys2Proof/Machine/Sign.lean ====
section
/-! DEFINITION. The signatures of R436: SHA-256, and HSS of two levels, each LMS_SHA256_M32_H20 with LMOTS_SHA256_N32_W8, as RFC 8554
has them: a verifier for images and a signer for the identity key, whose secret part is `Config.keyId`, `keyChain` and `keyRandom`
(log 8). -/
namespace Sys2Proof.Machine

/-! SHA-256. -/

def shaInit : List Word :=
  [0x6a09e667, 0xbb67ae85, 0x3c6ef372, 0xa54ff53a, 0x510e527f, 0x9b05688c, 0x1f83d9ab, 0x5be0cd19]

def shaRound : List Word :=
  [0x428a2f98, 0x71374491, 0xb5c0fbcf, 0xe9b5dba5, 0x3956c25b, 0x59f111f1, 0x923f82a4, 0xab1c5ed5] ++
  [0xd807aa98, 0x12835b01, 0x243185be, 0x550c7dc3, 0x72be5d74, 0x80deb1fe, 0x9bdc06a7, 0xc19bf174] ++
  [0xe49b69c1, 0xefbe4786, 0x0fc19dc6, 0x240ca1cc, 0x2de92c6f, 0x4a7484aa, 0x5cb0a9dc, 0x76f988da] ++
  [0x983e5152, 0xa831c66d, 0xb00327c8, 0xbf597fc7, 0xc6e00bf3, 0xd5a79147, 0x06ca6351, 0x14292967] ++
  [0x27b70a85, 0x2e1b2138, 0x4d2c6dfc, 0x53380d13, 0x650a7354, 0x766a0abb, 0x81c2c92e, 0x92722c85] ++
  [0xa2bfe8a1, 0xa81a664b, 0xc24b8b70, 0xc76c51a3, 0xd192e819, 0xd6990624, 0xf40e3585, 0x106aa070] ++
  [0x19a4c116, 0x1e376c08, 0x2748774c, 0x34b0bcb5, 0x391c0cb3, 0x4ed8aa4a, 0x5b9cca4f, 0x682e6ff3] ++
  [0x748f82ee, 0x78a5636f, 0x84c87814, 0x8cc70208, 0x90befffa, 0xa4506ceb, 0xbef9a3f7, 0xc67178f2]

/-- A number as `n` bytes, the highest first. -/
def beBytes (n v : Nat) : List Byte := (leBytes n v).reverse

def beWord (b : List Byte) : Word := BitVec.ofNat 32 (leNat b.reverse)

/-- The message schedule extended by `fuel` words; it is kept newest first. -/
def shaExtend : Nat → List Word → List Word
  | 0, w => w
  | fuel + 1, w =>
    let g (i : Nat) : Word := (w[i - 1]?).getD 0
    let s0 := (g 15).rotateRight 7 ^^^ (g 15).rotateRight 18 ^^^ (g 15) >>> 3
    let s1 := (g 2).rotateRight 17 ^^^ (g 2).rotateRight 19 ^^^ (g 2) >>> 10
    shaExtend fuel ((g 16 + s0 + g 7 + s1) :: w)

/-- One round on the working variables. -/
def shaStep (v : List Word) (kw : Word × Word) : List Word :=
  match v with
  | [a, b, c, d, e, f, g, h] =>
    let s1 := e.rotateRight 6 ^^^ e.rotateRight 11 ^^^ e.rotateRight 25
    let t1 := h + s1 + ((e &&& f) ^^^ (~~~e &&& g)) + kw.1 + kw.2
    let s0 := a.rotateRight 2 ^^^ a.rotateRight 13 ^^^ a.rotateRight 22
    [t1 + s0 + ((a &&& b) ^^^ (a &&& c) ^^^ (b &&& c)), a, b, c, d + t1, e, f, g]
  | _ => v

/-- One block of 64 bytes. -/
def shaBlock (h : List Word) (b : List Byte) : List Word :=
  let w0 := (List.range 16).map fun i => beWord ((b.drop (4 * i)).take 4)
  let w := (shaExtend 48 w0.reverse).reverse
  (h.zip ((shaRound.zip w).foldl shaStep h)).map fun x => x.1 + x.2

/-- A message with its padding: a one bit, zeros, the length in bits. -/
def shaPad (m : List Byte) : List Byte :=
  m ++ [0x80] ++ List.replicate ((119 - m.length % 64) % 64) 0 ++ beBytes 8 (8 * m.length)

def sha256 (m : List Byte) : List Byte :=
  let p := shaPad m
  ((List.range (p.length / 64)).foldl (fun h i => shaBlock h ((p.drop (64 * i)).take 64)) shaInit).flatMap fun w => beBytes 4 w.toNat

/-! The secret part of the identity key, in its lengths. -/

def fitBytes (n : Nat) (b : List Byte) : List Byte := (b ++ List.replicate n 0).take n

def keyId (tree : Nat) : List Byte := fitBytes 16 (Config.keyId tree)
def keyChain (tree leaf chain : Nat) : List Byte := fitBytes 32 (Config.keyChain tree leaf chain)
def keyRandom (tree leaf : Nat) : List Byte := fitBytes 32 (Config.keyRandom tree leaf)

/-! One-time signatures (RFC 8554, section 4). -/

/-- `n` links of a chain from link `j`. -/
def otsChain (id : List Byte) (q i : Nat) : Nat → Nat → List Byte → List Byte
  | 0, _, x => x
  | n + 1, j, x => otsChain id q i n (j + 1) (sha256 (id ++ beBytes 4 q ++ beBytes 2 i ++ beBytes 1 j ++ x))

/-- The 34 digits of a message: the bytes of its hash and of their checksum. -/
def otsDigits (id : List Byte) (q : Nat) (c m : List Byte) : List Nat :=
  let h := sha256 (id ++ beBytes 4 q ++ [0x81, 0x81] ++ c ++ m)
  (h ++ beBytes 2 (h.foldl (fun n b => n + (255 - b.toNat)) 0)).map BitVec.toNat

/-- The hash of a one-time public key, from the ends of its chains. -/
def otsKey (id : List Byte) (q : Nat) (ends : List (List Byte)) : List Byte :=
  sha256 (id ++ beBytes 4 q ++ [0x80, 0x80] ++ ends.flatten)

/-- The `i`-th piece of `n` bytes of a list. -/
def piece (n : Nat) (b : List Byte) (i : Nat) : List Byte := (b.drop (n * i)).take n

/-- The public key that a one-time signature of a message stands for, if it is one. -/
def otsCandidate (id : List Byte) (q : Nat) (m sig : List Byte) : Option (List Byte) :=
  if sig.take 4 ≠ [0, 0, 0, 4] || sig.length ≠ 1124 then none
  else
    let d := otsDigits id q ((sig.drop 4).take 32) m
    some (otsKey id q (d.zipIdx.map fun x => otsChain id q x.2 (255 - x.1) x.1 (piece 32 (sig.drop 36) x.2)))

def otsPublic (tree q : Nat) : List Byte :=
  let id := keyId tree
  otsKey id q ((List.range 34).map fun i => otsChain id q i 255 0 (keyChain tree q i))

def otsSign (tree q : Nat) (m : List Byte) : List Byte :=
  let id := keyId tree
  let c := keyRandom tree q
  [0, 0, 0, 4] ++ c ++ (otsDigits id q c m).zipIdx.flatMap fun x => otsChain id q x.2 x.1 0 (keyChain tree q x.2)

/-! Trees (RFC 8554, section 5) of height 20. -/

def lmsLeaf (id : List Byte) (r : Nat) (key : List Byte) : List Byte := sha256 (id ++ beBytes 4 r ++ [0x82, 0x82] ++ key)

def lmsInner (id : List Byte) (r : Nat) (left right : List Byte) : List Byte := sha256 (id ++ beBytes 4 r ++ [0x83, 0x83] ++ left ++ right)

/-- Node `r` of a tree of the identity key, `h` levels above the leaves. -/
def lmsNode (tree : Nat) : Nat → Nat → List Byte
  | 0, r => lmsLeaf (keyId tree) r (otsPublic tree (r - 2 ^ 20))
  | h + 1, r => lmsInner (keyId tree) r (lmsNode tree h (2 * r)) (lmsNode tree h (2 * r + 1))

/-- The public key of a tree: types, identifier, root. -/
def lmsPublic (tree : Nat) : List Byte := [0, 0, 0, 8, 0, 0, 0, 4] ++ keyId tree ++ lmsNode tree 20 1

def lmsSign (tree q : Nat) (m : List Byte) : List Byte :=
  beBytes 4 q ++ otsSign tree q m ++ [0, 0, 0, 8] ++
  (List.range 20).flatMap fun i => lmsNode tree i (((2 ^ 20 + q) / 2 ^ i) ^^^ 1)

/-- The root to which a leaf climbs by a path. -/
def lmsClimb (id path : List Byte) : Nat → Nat → Nat → List Byte → List Byte
  | 0, _, _, x => x
  | n + 1, i, r, x =>
    let y := piece 32 path i
    lmsClimb id path n (i + 1) (r / 2) (if r % 2 = 1 then lmsInner id (r / 2) y x else lmsInner id (r / 2) x y)

/-- Whether a signature of 1,772 bytes of a message is that of a public key of 56 bytes. -/
def lmsVerify (pub m sig : List Byte) : Bool :=
  let id := (pub.drop 8).take 16
  let q := leNat (sig.take 4).reverse
  pub.length = 56 && pub.take 8 = [0, 0, 0, 8, 0, 0, 0, 4] && sig.length = 1772 && q < 2 ^ 20 &&
  (sig.drop 1128).take 4 = [0, 0, 0, 8] &&
  (match otsCandidate id q m ((sig.drop 4).take 1124) with
   | none => false
   | some key => lmsClimb id (sig.drop 1132) 20 0 (2 ^ 20 + q) (lmsLeaf id (2 ^ 20 + q) key) = pub.drop 24)

/-! Two levels (RFC 8554, section 6). -/

/-- Whether an HSS signature of a message is that of a public key of two levels. -/
def hssVerify (pub m sig : List Byte) : Bool :=
  let lower := (sig.drop 1776).take 56
  pub.take 4 = [0, 0, 0, 2] && sig.take 4 = [0, 0, 0, 1] && lmsVerify (pub.drop 4) lower ((sig.drop 4).take 1772) &&
  lmsVerify lower m (sig.drop 1832)

/-- The signature of a message with number `n` of the identity key's 2^40: the lower tree that the upper one's leaf signs, its leaf. -/
def hssSign (n : Nat) (m : List Byte) : List Byte :=
  let u := n / 2 ^ 20
  [0, 0, 0, 1] ++ lmsSign 0 u (lmsPublic (u + 1)) ++ lmsPublic (u + 1) ++ lmsSign (u + 1) (n % 2 ^ 20) m

end Sys2Proof.Machine
end

