-- ==== Sys2Proof/Machine/EvFabric.lean ====
section
/-! DEFINITION. Messages from the fabric: FABRIC_READ, FABRIC_WRITE and the commands of R433, and START_UP (spec/23 R428 to R436,
R438, spec/17 R370, R376, R377, R386, R442). A message for another node, or to a module that has not started, is not taken. -/
namespace Sys2Proof.Machine

/-! Answers. -/

/-- A response (R429, R430) to a message; the fields that no rule gives repeat the request's. -/
def answer (s : State) (m : Msg) (typ : BitVec 4) (arg : Nat) (data : List Byte) : Msg :=
  let n := (data.length + 23) / 24
  { dst := m.src, src := BitVec.ofNat 19 s.nodeId, typ := typ, len := BitVec.ofNat 6 n, ctx := m.ctx, scope := m.scope, va := m.va
    cmd := m.cmd, arg := BitVec.ofNat 64 arg, data := data ++ List.replicate (24 * n - data.length) 0 }

def reply (s : State) (m : Msg) (typ : BitVec 4) (arg : Nat) (data : List Byte) : State :=
  { s with outbox := s.outbox ++ [answer s m typ arg data] }

/-- Whether the module takes a message. -/
def taken (s : State) (m : Msg) : Bool := s.started && m.dst.toNat = s.nodeId

/-- A command answered with a status (R430). -/
def status (s : State) (m : Msg) (n : Nat) : State := reply s m 5 n []

/-- A command with no data flits (R429, R430); in minimal mode all but four receive status 5 (R435). -/
def command (s : State) (m : Msg) (cmd : Nat) (minimalOk : Bool) (body : State → State) : State :=
  if !taken s m || m.typ ≠ 4 || m.cmd.toNat ≠ cmd then s
  else if m.len ≠ 0 then status s m 1
  else if s.minimal && !minimalOk then status s m 5
  else body s

/-! FABRIC_READ and FABRIC_WRITE. -/

/-- Bytes of a read or a write (R429). -/
def msgBytes (m : Msg) : Nat := m.arg.toNat % 256 + 1

/-- A read or write whose header is malformed (R429, R430). -/
def accessBad (m : Msg) (write : Bool) : Bool :=
  let n := msgBytes m
  let flits := if write then (n + 23) / 24 else 0
  m.arg.toNat ≥ 512 || m.scope.toNat < 6 || m.va.toNat / 192 ≠ (m.va.toNat + n - 1) / 192 || m.len.toNat ≠ flits ||
  m.data.length ≠ 24 * flits

/-- The queue whose TAIL word holds the bytes, if one does (R432). -/
def tailQueue (va n : Nat) : Option Nat :=
  let q := va / 48
  if q < 1024 && 48 * q + 44 ≤ va && va + n ≤ 48 * q + 48 then some q else none

/-- Whether a node may make an access (R432). -/
def mayAccess (s : State) (m : Msg) (write : Bool) : Bool :=
  let owns (c : Nat) : Bool := ((tget s.ctxs c).map fun (x : Ctx) => decide (x.owner = m.src.toNat)).getD false
  if m.ctx.toNat ≠ 4095 then owns m.ctx.toNat
  else m.src.toNat = s.mgmtNode || (write && (match tailQueue m.va.toNat (msgBytes m) with
    | none => false
    | some q => qdCtx (queueDesc s q) ≠ 4095 && owns (qdCtx (queueDesc s q))))

/-- The place of a fabric access (R86, R431, R432): the queue table for context 4,095, else the context's translation in the hub; the state
once it has been used, the physical address and the page's CMP; or a status. -/
def fabricPlace (s : State) (m : Msg) (acc : Acc) : Except Nat (State × Nat × Bool) :=
  if m.ctx.toNat = 4095 then (if m.va.toNat < pageBytes then .ok (s, s.qtBase + m.va.toNat, false) else .error (3 + 16 * 2))
  else match xlate s .hub m.ctx.toNat m.va.toNat acc with
    | .error n => .error (if n = 0 then 6 else 3 + 16 * n)
    | .ok p => .ok (useXlat s .hub m.ctx.toNat m.va.toNat p.x, p.pa, pteCmp p.pte)

/-- The status of an access that its header, the mode, its context or its sender forbids (R430, R432, R435). -/
def accessRefused (s : State) (m : Msg) (write : Bool) : Option Nat :=
  if accessBad m write then some 1
  else if s.minimal then some 5
  else if (tget s.ctxs m.ctx.toNat).isNone then some 4
  else if m.ctx.toNat = 4095 && m.src.toNat ≠ s.mgmtNode && write && ((tailQueue m.va.toNat (msgBytes m)).map (descBad s)).getD false then
    some 6
  else if !mayAccess s m write then some 2 else none

/-- Whether a sector of an access is uncorrectable (R440). -/
def accessErrs (s : State) (pa n : Nat) : Bool := (partsOf pa n).any fun p => uncorrectable s p.1

/-- What an access that fails translation leaves: no leaf of its page in the hub's cache (R86); the queue table has no translation. -/
def fabricMiss (s : State) (m : Msg) : State :=
  if m.ctx.toNat = 4095 then s else dropLeaves s .hub m.ctx.toNat (pageNo m.va.toNat)

/-- A fabric read (R431), which its home slices serve, what a release at `.pod` or `.sys` has ordered before it performed (R131). -/
def fabricReadRun (s : State) (m : Msg) : State :=
  if !taken s m || m.typ ≠ 0 then s
  else match accessRefused s m false with
    | some n => reply s m 1 n []
    | none => match fabricPlace s m .load with
      | .error n => reply (fabricMiss s m) m 1 n []
      | .ok (s1, pa, cmp) =>
        let s2 := flushOutside s1 pa (msgBytes m)
        if accessErrs s2 pa (msgBytes m) then reply s m 1 6 []
        else reply ((partsOf pa (msgBytes m)).foldl (fun s p => homeFill s cmp p.1) s2) m 1 0 (memRead s2.mem pa (msgBytes m))

def execFabricRead (m : Msg) (s : State) : Host.Outcome State Fault Refusal := .next (fabricReadRun s m)

/-- A fabric write (R431): sealed ranges refuse it, range locks do not; it wakes vigils. -/
def fabricWriteRun (s : State) (m : Msg) : State :=
  if !taken s m || m.typ ≠ 2 then s
  else match accessRefused s m true with
    | some n => reply s m 3 n []
    | none => match fabricPlace s m .store with
      | .error n => reply (fabricMiss s m) m 3 n []
      | .ok (s1, pa, cmp) =>
        let n := msgBytes m
        if m.ctx ≠ 4095 && sealedBy s m.ctx.toNat m.va.toNat n then reply s m 3 (3 + 16 * 9) []
        else if vigilErr s (.mem pa) n then reply s m 3 6 []
        else reply (homeWrite s1 m.ctx.toNat pa (m.data.take n) cmp) m 3 0 []

def execFabricWrite (m : Msg) (s : State) : Host.Outcome State Fault Refusal := .next (fabricWriteRun s m)

/-! INFO, ATTEST, FWLOAD, RESET, MONCFG and unassigned commands. -/

def archid : Nat := 0x01070100

def infoRun (s : State) (m : Msg) : State :=
  command s m 1 true fun s =>
    reply s m 5 (s.reason % 256 * 2 ^ 56 + (if s.minimal then 2 ^ 54 else 0) + s.fails % 4 * 2 ^ 52 + archid) []

def execInfo (m : Msg) (s : State) : Host.Outcome State Fault Refusal := .next (infoRun s m)

/-- The attestation report (R436); the order of its parts is DESIGN CHOICE (log 8). -/
def attestReport (s : State) (nonce : DWord) : List Byte :=
  leBytes 4 s.nodeId ++ leBytes 8 s.serial.toNat ++ leBytes 4 archid ++ s.romDigest ++ s.fwDigest ++ s.fuseDigest ++ leBytes 1 s.fails ++
  leBytes 8 nonce.toNat

/-- Data in pieces of at most 192 bytes, the most that one message carries (R428); `fuel` bounds their number. -/
def dataPieces : Nat → List Byte → List (List Byte)
  | 0, _ => []
  | fuel + 1, b => if b = [] then [] else b.take 192 :: dataPieces fuel (b.drop 192)

/-- ATTEST (R436): one command response with the report (R433). Its signature is longer than a message may be (R428) and goes out behind it
in read responses of at most 8 data flits each: DESIGN CHOICE (log 8). -/
def attestRun (s : State) (m : Msg) : State :=
  command s m 0x0B true fun s =>
    if s.sigIndex ≥ 2 ^ 40 then status s m 5
    else
      let r := attestReport s m.arg
      let b := hssSign s.sigIndex r
      (dataPieces b.length b).foldl (fun s x => reply s m 1 0 x) (reply { s with sigIndex := s.sigIndex + 1 } m 5 0 r)

def execAttest (m : Msg) (s : State) : Host.Outcome State Fault Refusal := .next (attestRun s m)

/-- Whether an image is signed by the root key whose hash is fused (R436). -/
def imageSigned (s : State) (image : List Byte) : Bool :=
  sha256 (Config.imageKey image) = s.rootKey && hssVerify (Config.imageKey image) (Config.imageBody image) (Config.imageSignature image)

/-- The reason of steps 1 and 2 of R435 for an image, 0 when both pass. -/
def imageReason (s : State) (image : List Byte) : Nat :=
  if !imageSigned s image then 1 else if Config.imageVersion image < s.minVersion then 2 else 0

/-- The reads of an image in the sender's memory (R429, R433): one for each line of 192 bytes that it reaches. The rule names their node,
their address and their bytes; the other fields repeat the command's, at `.sys`: DESIGN CHOICE (log 8). -/
def imageReads (s : State) (m : Msg) : Nat → Nat → List Msg
  | 0, _ => []
  | fuel + 1, o =>
    if m.arg.toNat ≤ o then []
    else
      let va := m.va.toNat + o
      let n := min (m.arg.toNat - o) (192 - va % 192)
      { dst := m.src, src := BitVec.ofNat 19 s.nodeId, typ := 0, len := 0, ctx := m.ctx, scope := 7, va := BitVec.ofNat 57 va, cmd := 0
        arg := BitVec.ofNat 64 (n - 1), data := [] } :: imageReads s m fuel (o + n)

/-- FWLOAD (R433): the image is read from the sender, whose answers are the outside's; they stand in `data` (log 8). -/
def fwloadRun (s : State) (m : Msg) : State :=
  command s m 0x0C true fun s =>
    if m.src.toNat ≠ s.mgmtNode then status s m 2
    else if m.arg.toNat ≥ 2 ^ 32 || m.data.length ≠ m.arg.toNat then status s m 1
    else
      let r := imageReason s m.data
      let s := { s with outbox := s.outbox ++ imageReads s m (m.arg.toNat / 192 + 2) 0 }
      if r = 0 then status { s with nextFw := m.data } m 0 else status s m (7 + 16 * r)

def execFwload (m : Msg) (s : State) : Host.Outcome State Fault Refusal := .next (fwloadRun s m)

/-- What a start keeps of a module: its fuses, the limits of its quads, each of which starts in the permitted class nearest to 4
(R346), its identity, its counters, the stored firmware, the messages that it has sent, and
the model's own counter and turn. -/
def freshModule (s : State) : State :=
  { State.reset with
    free := s.free, turn := s.turn, nodeId := s.nodeId, mgmtNode := s.mgmtNode, serial := s.serial, minVersion := s.minVersion
    romDigest := s.romDigest, fwDigest := s.fwDigest, fuseDigest := s.fuseDigest, rootKey := s.rootKey, nextFw := s.nextFw, sigIndex := s.sigIndex
    fails := s.fails, reason := s.reason, qtBase := s.qtBase, outbox := s.outbox
    quads := tmap s.quads fun q => { Quad.reset with vfloor := q.vfloor, vceil := q.vceil, cls := max q.vfloor (min q.vceil 4) } }

/-- RESET (R433): the module answers and begins a start, which START_UP ends. -/
def resetRun (s : State) (m : Msg) : State :=
  command s m 0x0D true fun s =>
    if m.src.toNat ≠ s.mgmtNode then status s m 2 else { freshModule (status s m 0) with started := false }

def execResetCmd (m : Msg) (s : State) : Host.Outcome State Fault Refusal := .next (resetRun s m)

/-- MONCFG (R438), for the unit of that number on every compute die; a unit that changes its context is cleared. -/
def moncfgRun (s : State) (m : Msg) : State :=
  command s m 0x0A false fun s =>
    let a := m.arg.toNat
    if m.src.toNat ≠ s.mgmtNode then status s m 2
    else if a ≥ 2 ^ 16 || bitsOf a 8 8 = 1 || a % 256 ≥ 7 then status s m 1
    else if (tget s.ctxs m.ctx.toNat).isNone then status s m 4
    else
      let u := m.va.toNat % 64
      let s1 := (List.range 4).foldl (fun s d =>
        let x := s.die d
        let old := (tget x.capture u).getD Capture.reset
        let kept := if bitsOf a 15 15 = 1 || old.ctx ≠ m.ctx.toNat then Capture.reset else old
        s.setDie d { x with capture := tset x.capture u { kept with
          ctx := m.ctx.toNat, en := bitsOf a 14 14 = 1, shift := bitsOf a 13 9, src := a % 256 } }) s
      status s1 m 0

def execMoncfg (m : Msg) (s : State) : Host.Outcome State Fault Refusal := .next (moncfgRun s m)

/-- A command with an unassigned code, or a message of a reserved type (R430, R433). -/
def unknownRun (s : State) (m : Msg) : State :=
  if taken s m && ((m.typ = 4 && (m.cmd = 0 || m.cmd.toNat > 0x0D)) || m.typ.toNat ≥ 7) then status s m 1 else s

def execFabricUnknownCommand (m : Msg) (s : State) : Host.Outcome State Fault Refusal := .next (unknownRun s m)

/-! CREATECTX. -/

/-- The header that R377 and R378 fix, with CFLAGS and PWSUM zero. -/
def saHeader (bslots : Nat) : Nat :=
  0x4B375341 + 2 ^ 32 + (960 + 5361984 * bslots) * 2 ^ 64 + bslots * 2 ^ 128 +
  (List.range 8).foldl (fun n k => n + (sectOffset bslots k + sectStride k * 2 ^ 64 + (if k = 0 then 1 else bslots) * 2 ^ 96) * 2 ^ (128 * k + 512)) 0

/-- A header as read, with CFLAGS and PWSUM taken as zero: the device ignores both (R377). -/
def maskHeader (h : Nat) : Nat := h - bitsOf h 191 160 * 2 ^ 160 - bitsOf h 511 256 * 2 ^ 256

/-- CREATECTX (R376, R377, R433). -/
def createRun (s : State) (m : Msg) : State :=
  command s m 2 false fun s =>
    let n := m.ctx.toNat
    if (tget s.ctxs n).isSome then status s m 5
    else if sysRefused 0x41 m.arg || m.va.toNat % pageBytes ≠ 0 then status s m 1
    else
      let c := { Ctx.fresh m.src.toNat m.va.toNat 0 with regs := [(0x41, m.arg)] }
      let s1 := { s with ctxs := tset s.ctxs n c }
      let failed (e : Nat) : State := status s m (if e = 0 then 6 else 3 + 16 * e)
      match saRead s1 n m.va.toNat 192 with
      | .error (e, _) => failed e
      | .ok bs =>
        let h := leNat bs
        let bslots := bitsOf h 159 128
        if bslots = 0 || bslots > 16384 || maskHeader h ≠ saHeader bslots then status s m 5
        else match saWrites (saTouch s1 n m.va.toNat 192) n [(m.va.toNat + 20, List.replicate 4 0), (m.va.toNat + 32, List.replicate 32 0)] with
          | .error (e, _) => failed e
          | .ok s2 => status { s2 with ctxs := tset s2.ctxs n { c with bslots := bslots } } m 0

def execCreatectx (m : Msg) (s : State) : Host.Outcome State Fault Refusal := .next (createRun s m)

/-! The commands on a context. -/

/-- A command on a context from its owner (R432, R433); of a context whose state was lost only KILLCTX is accepted (R386); none
is accepted for the management context. -/
def owned (s : State) (m : Msg) (cmd : Nat) (body : State → Ctx → State) : State :=
  command s m cmd false fun s =>
    match tget s.ctxs m.ctx.toNat with
    | none => status s m 4
    | some c =>
      if m.ctx = 4095 then status s m (if m.src.toNat = s.mgmtNode then 5 else 2)
      else if m.src.toNat ≠ c.owner then status s m 2
      else if c.rloss && cmd ≠ 3 then status s m 5
      else body s c

/-- A context's blocks, launches and engine work discarded. -/
def killBlocks (s : State) (ctx : Nat) : State :=
  let bs := s.blocks.filter fun e => e.2.ctx = ctx
  let mine (b : Nat) : Bool := bs.any fun e => e.1 = b
  let lost (o : Nat) : Bool := ((tget s.engops o).map fun (x : EngOp) => decide (x.ctx = ctx)).getD false
  let s1 := (s.waves.filter fun e => e.2.ctx = ctx).foldl (fun s e => (dropPrivate s e.1 e.2).eraseWave e.1) s
  let tiles := s1.tiles.filter fun e => match e.2.owner with
    | .block b => mine b
    | .cluster l _ => ((tget s1.launches l).map fun (x : Launch) => decide (x.ctx = ctx)).getD false
  let s2 := tiles.foldl (fun s e => s.eraseTile e.1) s1
  { s2 with
    locks := s2.locks.filter fun l => !lost l.op
    engops := s2.engops.filter fun e => e.2.ctx ≠ ctx
    blocks := s2.blocks.filter fun e => e.2.ctx ≠ ctx
    launches := s2.launches.filter fun e => e.2.ctx ≠ ctx
    cores := tmap s2.cores fun c => { c with
      bins := c.bins.filter (fun e => !mine e.2.block), retbuf := c.retbuf.filter (fun p => !mine p.block)
      latches := c.latches.filter (fun l => !mine l.block), steps := c.steps.filter (fun t => !mine t.block)
      layouts := c.layouts.filter (fun y => y.ctx ≠ ctx), efaults := terase c.efaults ctx } }

/-- A context's queues stopped and their grants taken away (R370). -/
def killQueues (s : State) (ctx : Nat) : State :=
  s.queues.foldl (fun s e =>
    if qdCtx e.2.desc ≠ ctx then s
    else
      let d := queueDesc s e.1
      let s1 := writeQueueFlags s e.1 (qdEn d) true (qdQerr d)
      let x := { e.2 with running := none, desc := e.2.desc - bitsOf e.2.desc 223 223 * 2 ^ 223 + 2 ^ 223 }
      { s1 with
        queues := tset s1.queues e.1 x
        quads := tmap s1.quads fun q => if q.grant = some e.1 then { q with grant := none } else q }) s

/-- KILLCTX (R370, R288): every block, vigil, engine operation, seal entry and queue grant of the context goes, and the context; what its
waves have sent is performed first. Its capture units are cleared, so that a later context of its number reads nothing of it (R438). -/
def killCtx (s : State) (ctx : Nat) : State :=
  let s0 := flushSent s fun x => x.ctx = ctx
  let s1 := (tvals s0.vigils).foldl (fun s v => match tget s.vigils v.id with
    | some x => if x.ctx = ctx then withdrawVigil s x else s
    | none => s) s0
  let s2 := killQueues (killBlocks s1 ctx) ctx
  let gone := s2.xlinvs.filter fun x => x.ctx = ctx
  let waves := (s.waves.filter fun e => e.2.ctx = ctx).map Prod.fst
  { s2 with
    helds := s2.helds.filter fun h => !waves.contains h.2.wave
    seals := s2.seals.filter fun e => e.ctx ≠ ctx
    tlb := s2.tlb.filter fun e => e.ctx ≠ ctx
    patches := s2.patches.filter fun p => p.2.ctx ≠ ctx
    dies := tmap s2.dies fun d => { d with capture := d.capture.filter fun c => c.2.ctx ≠ ctx }
    xlinvs := s2.xlinvs.filter fun x => x.ctx ≠ ctx
    outbox := s2.outbox ++ gone.filterMap fun x => x.reply
    ctxs := terase s2.ctxs ctx }

def killRun (s : State) (m : Msg) : State := owned s m 3 fun s _ => status (killCtx s m.ctx.toNat) m 0
def execKillctx (m : Msg) (s : State) : Host.Outcome State Fault Refusal := .next (killRun s m)

def haltRun (s : State) (m : Msg) : State := owned s m 4 fun s _ => status (haltCtx s m.ctx.toNat) m 0
def execHaltctx (m : Msg) (s : State) : Host.Outcome State Fault Refusal := .next (haltRun s m)

/-- The escalation notify of a block that has been written out at last (R434). -/
def sendNotice (s : State) (b : Nat) : State :=
  match tget s.blocks b with
  | none => s
  | some x =>
    match x.notice with
    | none => s
    | some (cause, arg) => (s.modBlock b fun y => { y with notice := none }).notify x.ctx cause arg []

/-- A stranded block written out (R442). -/
def redoSwap (s : State) (ctx b : Nat) : State :=
  match tget s.blocks b with
  | none => s
  | some x =>
    if x.status ≠ .stranded then s
    else match swapOutRaw s b x.strandAs with
      | (t, none) => sendNotice (retryBins t x.core) b
      | (t, some e) => noteSaFail t ctx x.slot e (.swap b)

/-- A wake that the slice has kept written to its record (R442). -/
def redoWake (s : State) (ctx k : Nat) : State :=
  match s.wakes.findIdx? fun x => x.waiter = .wave k, s.wave k with
  | some i, some w =>
    (match s.wakes[i]? with
     | none => s
     | some x =>
       if onCore s w then s
       else match wakeRecord s i k x w with
         | .ok t => t
         | .error (slot, e) => noteSaFail s ctx slot e (.wake k))
  | _, _ => s

/-- One failed access made again (R442); a new failure is told. -/
def redoOne (s : State) (ctx : Nat) (f : SaFailure) : State :=
  let again (e : SaFail) : State := noteSaFail s ctx f.slot e f.redo
  match f.redo with
  | .read n => (match saRead s ctx f.va n with
    | .ok _ => saTouch s ctx f.va n
    | .error e => again e)
  | .swap b => redoSwap s ctx b
  | .wake k => redoWake s ctx k
  | .flags => s
  | .header b => (match tryHeader s b with
    | .ok t => sendNotice t b
    | .error (_, _, e) => again e)
  | .clear k => (match s.wave k, tget s.ctxs ctx with
    | some w, some c =>
      if (vigilOf s k).isSome || w.vresult.isSome then s
      else (match saWrite s ctx (saAddr c 6 f.slot (48 * w.wid)) (List.replicate 48 0) with
        | .ok t => t
        | .error e => again e)
    | _, _ => s)
  | .rewind id => (match s.xlinvs.find? fun x => x.id = id with
    | none => s
    | some x => (match invalRewind s x with
      | .ok t => t
      | .error (_, e) => again e))

/-- The retries of RUNCTX, each failed access in its order (R442). -/
def retryFailed (s : State) (ctx : Nat) (c : Ctx) : State :=
  c.failed.foldl (fun s f => redoOne s ctx f) (s.modCtx ctx fun c => { c with failed := [] })

/-- RUNCTX (R370, R442): HALTED is cleared once every access has succeeded, that of CFLAGS itself included. -/
def runCtx (s : State) (ctx : Nat) (c : Ctx) : State :=
  let s1 := retryFailed s ctx c
  let s2 := s1.modCtx ctx fun x => { x with halted := false }
  match tget s1.ctxs ctx with
  | none => s1
  | some x =>
    if x.failed ≠ [] then s1
    else match saWrite s2 ctx (x.sabase + 20) (leBytes 4 (if x.rloss then 2 else 0)) with
      | .ok t => t
      | .error e => noteSaFail s1 ctx 0 e .flags

def runRun (s : State) (m : Msg) : State := owned s m 5 fun s c => status (runCtx s m.ctx.toNat c) m 0
def execRunctx (m : Msg) (s : State) : Host.Outcome State Fault Refusal := .next (runRun s m)

/-- The residual queue that a wave holds discarded: the one that its slot holds (R182, R370). -/
def Wave.dropSaved (w : Wave) : Wave := if w.residual = [] then { w with fresidual := [] } else { w with residual := [] }

/-- RESUME and RESUMEDROP (R370): an escalated block returns to the distributor. -/
def resumeBlock (s : State) (m : Msg) (drop : Bool) : State :=
  if m.arg.toNat ≥ 2 ^ 14 then status s m 1
  else match s.blocks.find? fun e => e.2.ctx = m.ctx.toNat && e.2.slot = m.arg.toNat && e.2.status = .escalated with
    | none => status s m 5
    | some (b, x) =>
      if x.lost then status s m 5
      else
        let s1 := if drop then s.modWave x.escKey fun w => if w.block = b then w.dropSaved else w else s
        status (writeHeader (s1.setBlock b { x with status := .swapped }) b) m 0

def blockResume (s : State) (m : Msg) : State := owned s m 6 fun s _ => resumeBlock s m false
def execResume (m : Msg) (s : State) : Host.Outcome State Fault Refusal := .next (blockResume s m)

def blockResumeDrop (s : State) (m : Msg) : State := owned s m 7 fun s _ => resumeBlock s m true
def execResumedrop (m : Msg) (s : State) : Host.Outcome State Fault Refusal := .next (blockResumeDrop s m)

/-- XLINV (R89, R433): the response waits for the invalidation. A base that is not a multiple of 48 KiB, which R89 asks for, is answered with
status 1: DESIGN CHOICE (log 22). -/
def fabricInval (s : State) (m : Msg) : State :=
  owned s m 8 fun s _ =>
    if m.arg.toNat ≥ 2 ^ 32 || pageOff m.va.toNat ≠ 0 then status s m 1
    else (startInval s m.ctx.toNat (pageNo m.va.toNat) m.arg.toNat none (some (answer s m 5 0 []))).1

def execFabricXlinv (m : Msg) (s : State) : Host.Outcome State Fault Refusal := .next (fabricInval s m)

/-- QCTL (R372, R433). -/
def fabricQueue (s : State) (m : Msg) : State :=
  owned s m 9 fun s _ =>
    let q := m.arg.toNat % 1024
    let op := m.arg.toNat / 1024
    if op ≥ 3 then status s m 1
    else if descBad s q then status s m 6
    else if qdCtx (queueDesc s q) ≠ m.ctx.toNat then status s m 2
    else match queueControl s q op with
      | (t, true) => status t m 0
      | (t, false) => status t m 5

def execFabricQctl (m : Msg) (s : State) : Host.Outcome State Fault Refusal := .next (fabricQueue s m)

/-! START_UP. -/

/-- The reason with which a start ends (R435): steps 1 and 2 judge a stored image, the other steps are the outside's. -/
def startReason (s : State) (outcome : Nat) : Nat :=
  if s.nextFw = [] then outcome else if imageReason s s.nextFw ≠ 0 then imageReason s s.nextFw else outcome

/-- A start ends (R435): completed, with the counter of failed starts cleared and the stored firmware running; or failed, and the
third consecutive failure enters minimal mode. -/
def startUp (s : State) (outcome : Nat) : State :=
  if s.started || outcome > 9 then s
  else
    let r := startReason s outcome
    let f := freshModule s
    if r = 0 then
      { f with fails := 0, reason := 0, fwDigest := if s.nextFw = [] then s.fwDigest else sha256 s.nextFw, nextFw := [] }
    else
      let n := min 3 (s.fails + 1)
      { f with fails := n, reason := r, minimal := n = 3, started := n = 3 }

def execStartUp (outcome : Nat) (s : State) : Host.Outcome State Fault Refusal := .next (startUp s outcome)

end Sys2Proof.Machine
end

