-- ==== Sys2Proof/Machine/EvPower.lean ====
section
/-! DEFINITION. Steps of the power control and of the internal activities: LUMEN_ROTATION, SIDE_RESERVATION, WAVE_STARVATION,
DIE_TICK, BUDGET_UNIT_EXPIRY, POWER_LIMIT_ADJUST, QUAD_CLASS_CHANGE, STALL_WINDOW_END, MONITOR_SAMPLE, BANK_REFRESH,
SCRUB_SECTOR, RETENTION_ENTRY, RETENTION_LOSS, SELF_REFRESH (spec/22 R410 to R423, spec/23 R437 to R440, spec/17 R386, spec/04
R70). A step that is not enabled changes nothing. -/
namespace Sys2Proof.Machine

/-! LUMEN_ROTATION, SIDE_RESERVATION and WAVE_STARVATION. -/

/-- The sides of a core. -/
def sidesOf (c : Nat) : List Nat := (List.range 4).map fun i => 4 * c + i

/-- Whether a side was denied in the rotation that ends (R412): noted as the ring passed it; a side that the ring has still to pass is
passed now. -/
def deniedLast (s : State) (side : Nat) : Bool :=
  if side % 4 < (s.core (coreOfSide side)).pass then (s.side side).deniedNow else (pick s side).2

/-- The rotations of a side's waves that were ready without being chosen (R412). -/
def countStarve (s : State) (side : Nat) : State :=
  let ready := candidates s side
  let first := (ready.head?).map Prod.fst
  (litOf s side).foldl (fun s e =>
    let waits := (ready.any fun x => x.1 = e.1) && first ≠ some e.1
    s.modWave e.1 fun w => { w with starve := if waits then w.starve + 1 else 0 }) s

/-- One side's part of the end of a rotation (R412). -/
def endRotation (s : State) (side : Nat) : State :=
  let den := deniedLast s side
  let x := s.side side
  let s1 := s.setSide side { x with denied := if den then x.denied + 1 else 0, deniedNow := false }
  let c := s1.core (coreOfSide side)
  countStarve (if den then s1.setCore (coreOfSide side) { c with denied := true } else s1) side

/-- The price of the instruction that a side has chosen (R412). -/
def chosenPrice (s : State) (side : Nat) : Nat :=
  match candidates s side with
  | [] => 0
  | a :: _ => nextPrice s a.2

/-- The start of a rotation (R410, R412): the sides' denials counted, reservations of sides without a lit wave given up, the
refill taken in up to 256 lumens, and lumens set aside for the first reserved side up to its price. -/
def rotationRun (s : State) (c : Nat) : State :=
  let s1 := (sidesOf c).foldl endRotation s
  let x := s1.core c
  let keep := x.reserved.filter fun i => litOf s1 (4 * c + i) ≠ []
  let aside := if keep.head? = x.reserved.head? then x.aside else 0
  let entered := min x.refill (256 - x.lumens)
  let aside' := match keep with
    | [] => 0
    | i :: _ => max aside (min (chosenPrice s1 (4 * c + i)) (aside + entered))
  s1.setCore c { x with
    cycles := x.cycles + 4, pass := 0, lumens := x.lumens + entered, returned := x.returned + (x.refill - entered), reserved := keep, aside := aside' }

def execLumenRotation (core : Nat) (s : State) : Host.Outcome State Fault Refusal := .next (if core < 192 then rotationRun s core else s)

/-- Sides denied in 4 consecutive rotations become reserved, the one denied longest first, then in ascending number (R412). -/
def reserveRun (s : State) (side : Nat) : State :=
  let c := coreOfSide side
  let x := s.core c
  if (s.side side).denied < 4 || x.reserved.contains (side % 4) then s
  else
    let due := (List.range 4).filter fun i => (s.side (4 * c + i)).denied ≥ 4 && !x.reserved.contains i
    s.setCore c { x with reserved := x.reserved ++ sortBy (fun a b => decide ((s.side (4 * c + a)).denied ≥ (s.side (4 * c + b)).denied)) due }

def execSideReservation (side : Nat) (s : State) : Host.Outcome State Fault Refusal := .next (if side < 768 then reserveRun s side else s)

/-- A lit wave ready for 4 rotations without being chosen is starved (R412). -/
def starveRun (s : State) (k : Nat) : State :=
  match s.wave k with
  | none => s
  | some w => if canIssue s k w && w.starve ≥ 4 then s.setWave k { w with starved := true } else s

def execWaveStarvation (wave : Nat) (s : State) : Host.Outcome State Fault Refusal := .next (starveRun s wave)

/-! DIE_TICK. -/

/-- Filler lumens of the microsecond that ends (R420). -/
def fillerOf (x : Quad) : Nat := x.draw - peakEighth x.cls - x.used

/-- How far each context's draw in the quad fell (R421). -/
def fallsOf (x : Quad) : List (Nat × Nat) :=
  let ctxs := (x.ctxPrev.map Prod.fst ++ x.ctxUsed.map Prod.fst).eraseDups
  (sortBy (fun a b => decide (a ≤ b)) ctxs).map fun c => (c, (tget x.ctxPrev c).getD 0 - (tget x.ctxUsed c).getD 0)

/-- The context whose draw fell most, the lower number on a tie (R421). -/
def mostFallen (l : List (Nat × Nat)) : Option Nat :=
  (l.foldl (fun (best : Option (Nat × Nat)) e => match best with
    | none => some e
    | some b => if e.2 > b.2 then some e else best) none).map Prod.fst

/-- A quad at its die's tick (R420 to R422): whether it guttered, its episode, the charge, its draw. -/
def quadTick (s : State) (q : Nat) : State :=
  let x := s.quad q
  let fill := fillerOf x
  let gut := fill > 0
  let falls := fallsOf x
  let begins := !x.gut || falls.any fun e => e.2 > peakEighth x.cls
  let episode := if !gut then none else if begins then mostFallen falls else x.episode
  let s1 := s.setQuad q { x with
    gut := gut, episode := episode, draw := x.used + fill, used := 0, ctxPrev := x.ctxUsed, ctxUsed := [] }
  match episode with
  | none => s1
  | some c => s1.modCtx c fun y => { y with energy := y.energy + energyOf x.cls fill, gutter := y.gutter + energyOf x.cls fill }

/-- A budget unit in the fractions in which `energyOf` counts what lumens of a class cost (R416). -/
def budgetUnit : Nat := 3906 * energyUnit

/-- Units taken from the front of a list, oldest first, and the rest. -/
def takeUnits : Nat → List (Nat × Nat) → List (Nat × Nat) × List (Nat × Nat)
  | _, [] => ([], [])
  | n, (u, h) :: rest =>
    let k := min n u
    let (a, b) := takeUnits (n - k) rest
    ((if k = 0 then [] else [(k, h)]) ++ a, (if u - k = 0 then [] else [(u - k, h)]) ++ b)

def unitSum (l : List (Nat × Nat)) : Nat := l.foldl (fun n e => n + e.1) 0

/-- The cores of a die. -/
def coresOf (d : Nat) : List Nat := (List.range 48).map fun i => 48 * d + i

/-- The floors of a core, and of a quad, in a microsecond (R413): 8 lumens a rotation. -/
def coreFloor (cls : Nat) : Nat := 2 * clockMHz cls
def quadFloor (cls : Nat) : Nat := 4 * coreFloor cls

/-- The lumens beyond the floors that a quad may receive in the coming microsecond (R422): with them, the floors and what its rings hold,
its draw cannot pass its limit. -/
def slewRoom (s : State) (q : Nat) : Nat :=
  let x := s.quad q
  let held := (List.range 4).foldl (fun n i => n + (s.core (4 * q + i)).lumens) 0
  max (x.draw + peakEighth x.cls) (quadFloor x.cls) - quadFloor x.cls - held

/-- Whole lumens in each rotation from a number of lumens in a microsecond. -/
def perRotation (cls n : Nat) : Nat := n * 4 / clockMHz cls

/-- Lumens beyond its floor that a core which was denied receives in each rotation (R414, R422): its equal part of the rest, at most 24,
and its equal part of what its quad may receive. -/
def extraRefill (s : State) (rest asks core : Nat) : Nat :=
  let q := quadOfCore core
  let cls := (s.quad q).cls
  let inQuad := ((List.range 4).filter fun i => (s.core (4 * q + i)).denied).length
  if (s.core core).denied then
    min 24 (min (perRotation cls (rest / max asks 1 / energyOf cls 1)) (perRotation cls (slewRoom s q / max inQuad 1)))
  else 0

/-- The units that a die's cores did not use since its last tick (R415): what rings returned and what the tick left undivided, at the rate at
which it was granted, less the fillers' cost `fill` (R420), in whole units. Fillers that cost more than that leave none: DEDUCED (log
16). -/
def unusedUnits (s : State) (d fill : Nat) : Nat :=
  ((coresOf d).foldl (fun n c => n + energyOf (s.core c).rate (s.core c).returned) (s.die d).undivided - fill) / budgetUnit

/-- The budget of a die at its tick (R413 to R415): unused units pass on, those with 3 hops apart; the share and the units received pay the
floors, and the rest is divided among the cores that were denied. `fill` is the fillers' cost. Units are used in the
order of their hops, the oldest first: DESIGN CHOICE (log 16). -/
def budgetTick (s : State) (d fill : Nat) : State :=
  let x := s.die d
  let cls (c : Nat) : Nat := (s.quad (quadOfCore c)).cls
  let back := (takeUnits (unitSum x.held - unusedUnits s d fill) x.held).2
  let out := back.filter fun e => e.2 < 3
  let pool := sortBy (fun a b => decide (a.2 ≥ b.2)) (x.arriving ++ [(x.share, 0)])
  let need := (coresOf d).foldl (fun n c => n + energyOf (cls c) (coreFloor (cls c))) 0
  let rest := unitSum pool * budgetUnit - need
  let asks := ((coresOf d).filter fun c => (s.core c).denied).length
  let extra := extraRefill s rest asks
  let given := (coresOf d).foldl (fun n c => n + energyOf (cls c) (extra c * clockMHz (cls c) / 4)) 0
  let s1 := s.setDie d { x with
    passin := unitSum x.arriving, passout := unitSum out, arriving := [], held := pool
    left := x.left ++ back.filter (fun e => 3 ≤ e.2), undivided := rest - given }
  let nx := (d + 1) % 4
  let s2 := s1.setDie nx { s1.die nx with arriving := (s1.die nx).arriving ++ out.map fun e => (e.1, e.2 + 1) }
  (coresOf d).foldl (fun s1 c =>
    s1.setCore c { s1.core c with refill := 8 + extra c, rate := cls c, returned := 0, denied := false }) s2

/-- Budgets and waits counted by a die's microseconds (R282, R339, R344, R354); those of a swapped-out block by the die that swapped
it out. -/
def waitTick (s : State) (d : Nat) : State :=
  let mine (k : Nat) : Bool := ((s.wave k).map fun w => decide (dieOfCore w.core = d)).getD false
  let s1 := { s with vigils := tmap s.vigils fun v => match v.waiter with
    | .wave k => if v.timed && mine k then { v with budget := v.budget - 1 } else v
    | .dispatcher _ => v }
  let wave (w : Wave) : Wave := if dieOfCore w.core = d ∧ w.wait = .vigil then { w with waited := w.waited + 1 } else w
  let s2 := { s1 with waves := tmap s1.waves wave }
  let block (e : Nat × Block) : Nat × Block :=
    if dieOfCore e.2.core = d ∧ e.2.status = .resident then
      (e.1, { e.2 with waited := if allWait s e.1 then e.2.waited + 1 else 0 })
    else e
  { s2 with blocks := s2.blocks.map block }

/-- A compute die's microsecond tick (R414), at which the corrected errors of the microsecond are sampled (R438). -/
def dieTick (s : State) (d : Nat) : State :=
  let quads := (List.range 12).map fun i => 12 * d + i
  let fill := quads.foldl (fun n q => n + energyOf (s.quad q).cls (fillerOf (s.quad q))) 0
  let s1 := budgetTick (quads.foldl quadTick s) d fill
  let x := s1.die d
  (waitTick (s1.setDie d { x with usec := x.usec + 1, corrected := 0, correctedUs := x.corrected }) d).sampled d 6 x.corrected

/-- A microsecond of the hub die (R340, R355): virtual time for every quad held, and the launches that are quiescent. -/
def hubTick (s : State) : State :=
  let s1 := s.quads.foldl (fun s e => match e.2.grant with
    | none => s
    | some q => s.modQueue q fun x => { x with vt := x.vt + 65536 / max 1 (qdWeight x.desc) }) s
  { s1 with
    hubUs := s1.hubUs + 1
    launches := s1.launches.map fun e => (e.1, { e.2 with quiet := if quiescent s1 e.1 then e.2.quiet + 1 else 0 }) }

/-- DIE_TICK: dies 0 to 3 are the compute dies, 4 the hub die. -/
def tickRun (s : State) (d : Nat) : State := if d < 4 then dieTick s d else if d = 4 then hubTick s else s

def execDieTick (die : Nat) (s : State) : Host.Outcome State Fault Refusal := .next (tickRun s die)

/-- Units that have made 3 hops unused expire (R415). -/
def expiryRun (s : State) (d : Nat) : State := s.setDie d { s.die d with left := (s.die d).left.filter fun e => e.2 < 3 }

def execBudgetUnitExpiry (die : Nat) (s : State) : Host.Outcome State Fault Refusal := .next (if die < 4 then expiryRun s die else s)

/-- Every share lowered by one step, never below 96 units (R415). -/
def limitShares (s : State) (step : Nat) : State :=
  (List.range 4).foldl (fun s d => s.setDie d { s.die d with share := max 96 ((s.die d).share - step) }) s

def execPowerLimitAdjust (step : Nat) (s : State) : Host.Outcome State Fault Refusal := .next (limitShares s step)

/-! QUAD_CLASS_CHANGE and STALL_WINDOW_END. -/

/-- A quad's change completes (R417). -/
def classRun (s : State) (q : Nat) : State := if (s.quad q).chg = 0 then s else s.setQuad q { s.quad q with chg := 0 }

def execQuadClassChange (quad : Nat) (s : State) : Host.Outcome State Fault Refusal := .next (classRun s quad)

/-- A ratio of R423, saturated; that of a window in which no cycle was counted is 0. -/
def stallRatio (n cycles : Nat) : Nat := min 0xFFFF (n * 65536 / cycles)

/-- A side's stall word replaced at the end of a window (R423): the window's number and its ratios; the next window is counted anew. -/
def stallRun (s : State) (side : Nat) : State :=
  let x := s.side side
  let n := (s.die (dieOfCore (coreOfSide side))).usec / 10
  if n ≤ x.winUs then s
  else
    let word := n % 2 ^ 16 * 2 ^ 48 + stallRatio x.lums x.cycles * 2 ^ 32 + stallRatio x.opnd x.cycles * 2 ^ 16 + stallRatio x.iss x.cycles
    s.setSide side { x with winUs := n, stall := BitVec.ofNat 64 word, cycles := 0, lums := 0, opnd := 0, iss := 0 }

def execStallWindowEnd (side : Nat) (s : State) : Host.Outcome State Fault Refusal := .next (if side < 768 then stallRun s side else s)

/-! MONITOR_SAMPLE. -/

/-- The sample that a source of a die shows (R438): what the state holds for sources 2 and 4, of the slice or the core that `v` picks; `v`
itself for the latencies and depths of the other sources, of which the state holds nothing (log 9). -/
def sampleOf (s : State) (d src v : Nat) : Nat :=
  match src with
  | 2 => sliceEntries s (48 * d + v % 48)
  | 4 => (s.core (48 * d + v % 48)).lumens
  | _ => v

/-- A sample taken by a unit that is enabled (R437, R438); sources 5 and 6 are sampled at their events, the strand boundaries and the ticks
of the die. -/
def sampleRun (s : State) (d u v : Nat) : State :=
  match tget (s.die d).capture u with
  | none => s
  | some c =>
    if !c.en || c.src = 5 || c.src = 6 then s
    else s.setDie d { s.die d with capture := tset (s.die d).capture u (c.take (sampleOf s d c.src v % 2 ^ 32)) }

def execMonitorSample (die unit value : Nat) (s : State) : Host.Outcome State Fault Refusal := .next (sampleRun s die unit value)

/-! BANK_REFRESH, SCRUB_SECTOR and SELF_REFRESH. -/

/-- A bank's refresh begins, or ends (R70, R439): accesses to the bank are delayed, which no rule of values shows (log 9). -/
def refreshRun (s : State) (bank : Nat) : State :=
  { s with refreshing := if s.refreshing.contains bank then s.refreshing.filter (· ≠ bank) else s.refreshing ++ [bank] }

def execBankRefresh (bank : Nat) (s : State) : Host.Outcome State Fault Refusal := .next (refreshRun s bank)

/-- One sector scrubbed (R440): single errors are corrected, which changes no value that is read; an uncorrectable one stays. -/
def execScrubSector (_sector : Nat) (s : State) : Host.Outcome State Fault Refusal := .next s

/-- Tier 2 enters self-refresh while it is idle (R70), or leaves it. -/
def execSelfRefresh (s : State) : Host.Outcome State Fault Refusal := .next { s with selfRefresh := !s.selfRefresh }

/-! RETENTION_ENTRY and RETENTION_LOSS. -/

/-- A quad that holds no wave enters retention, or leaves it with nothing lost (R439). -/
def retentionRun (s : State) (q : Nat) : State :=
  let x := s.quad q
  if x.retention then s.setQuad q { x with retention := false }
  else if quadWaves s q then s
  else s.setQuad q { x with retention := true }

def execRetentionEntry (quad : Nat) (s : State) : Host.Outcome State Fault Refusal := .next (if quad < 48 then retentionRun s quad else s)

/-- A quad leaves retention and a context's banked state is lost (R386): cause 27, sub-cause 1, at the host; the context halted,
RLOSS set, its slots marked lost. -/
def lossRun (s : State) (q ctx : Nat) : State :=
  let x := s.quad q
  match tget s.ctxs ctx with
  | none => s
  | some c =>
    if !x.retention || ctx = 4095 then s
    else
      let s1 := (s.setQuad q { x with retention := false }).modCtx ctx fun c => { c with rloss := true, lost := c.slots }
      let s2 := { s1 with blocks := s1.blocks.map fun e => if e.2.ctx = ctx && c.slots.contains e.2.slot then (e.1, { e.2 with lost := true }) else e }
      (haltCtx s2 ctx).notify ctx 27 (BitVec.ofNat 64 (2 ^ 52)) []

def execRetentionLoss (quad ctx : Nat) (s : State) : Host.Outcome State Fault Refusal := .next (lossRun s quad ctx)

end Sys2Proof.Machine
end

