-- ==== Sys2Proof/Machine/MatrixInstr.lean ====
section
/-! DEFINITION. Matrix instructions at issue: MBEG, MEND, MMA, GANG, MRD, MWR, MZERO, MSCL (spec/12 R251 to R274). -/
namespace Sys2Proof.Machine

def matrixFail (sub : Nat) : Fail := ⟨17, sub, none, none⟩

/-- A wave's chain state set at issue (R265). -/
def setChain (s : State) (k : Nat) (chain ord : Bool) : State :=
  s.modWave k fun w => { w with st := { w.st with chain := chain, chainOrd := ord } }

/-- MBEG at issue (R265). -/
def mbegPlan (s : State) (k : Nat) (w : Wave) (f : FmtX) : Except Fail Plan :=
  if w.st.chain then .error (matrixFail 1) else .ok ⟨setChain s k true (f.sub.getLsbD 0), .mbeg, []⟩

def execMbeg (f : FmtX) (s : State) : Host.Outcome State Fault Refusal := issueQ (.mbeg f) (fun s k w _ => mbegPlan s k w f) s

/-- MEND at issue (R265). -/
def mendPlan (s : State) (k : Nat) (w : Wave) : Except Fail Plan :=
  if !w.st.chain then .error (matrixFail 2) else .ok ⟨setChain s k false false, .mend, []⟩

def execMend (f : FmtX) (s : State) : Host.Outcome State Fault Refusal := issueQ (.mend f) (fun s k w _ => mendPlan s k w) s

/-- `n` registers of a source in each of the 32 threads (R251, R271). -/
def rowRegs (s : State) (w : Wave) (f : Src) (n : Nat) (slot : Nat := 0) : List (List Word) :=
  (List.range 32).map fun t => (List.range n).map fun j => (srcUnit s w false false 0 f t j slot).truncate 32

/-- A scale register's 32 words (R253). -/
def scaleRegs (s : State) (w : Wave) (n slot : Nat) : List Word := (List.range 32).map fun t => w.reg s 1 (24 + n) t (slot * 32 + t)

/-- The operation that an MMA queues (R268). -/
def mmaOp (s : State) (w : Wave) (f : FmtX) : MmaOp :=
  let bfp := isBfp f.fa
  { tc := f.tc.toNat, mask := w.st.gmask, aT := f.aT, bT := f.bT, aTile := f.a.idx.toNat, bTile := f.b.idx.toNat, acc := f.acc
    fa := f.fa.toNat, fb := f.fb.toNat, fc := f.fc.toNat, rnd := f.rnd.toNat
    aRegs := if f.aT then [] else rowRegs s w f.a 8
    bRegs := if f.bT then [] else rowRegs s w f.b 8 1
    aSc := if bfp then scaleRegs s w (f.scs.toNat / 8) 2 else []
    bSc := if bfp then scaleRegs s w (f.scs.toNat % 8) 3 else [] }

/-- The first thread whose register blocks hold a set spare bit (R244). -/
def mmaSpare (o : MmaOp) : Option Nat :=
  let bad (regs : List (List Word)) (t : Nat) : Bool :=
    (List.range 2).any fun k => bfpSpare (o.fa - 7) (regElem o.fa ((regs[t]?).getD []) k)
  if o.fa ≥ 9 then (List.range 32).find? fun t => bad o.aRegs t || bad o.bRegs t else none

/-- MMA at issue (R268). -/
def mmaPlan (s : State) (w : Wave) (f : FmtX) : Except Fail Plan :=
  let o := mmaOp s w f
  if gangSize w.st > 1 && !f.bT then .error (matrixFail 5)
  else match mmaSpare o with
    | some t => .error ⟨16, 1, some t, none⟩
    | none => .ok ⟨s, .mma o w.st.chain w.st.chainOrd, []⟩

def execMma (f : FmtX) (s : State) : Host.Outcome State Fault Refusal := issueQ (.mma f) (fun s _ w _ => mmaPlan s w f) s

/-- GANG (R266). A wave formed from a bin has no wave number below 32 (R356), so no mask has its bit. -/
def gangEff (s : State) (k : Nat) (w : Wave) (f : FmtX) : Eff :=
  let m := read32w s w f.a
  if w.st.chain then .trap (matrixFail 3)
  else if m ≠ 0 && (w.isBin || !bit m w.wid || maskCount m > 6) then .trap (matrixFail 4)
  else .next (s.setWave k { w with st := { w.st with gmask := m, gseq := 0 } })

def execGang (f : FmtX) (s : State) : Host.Outcome State Fault Refusal := issueP (.gang f) (fun s k w => gangEff s k w f) s

/-- RC and CQ (R264). -/
def rowBlock (f : FmtX) : Nat := f.sub.toNat / 4
def colGroup (f : FmtX) : Nat := f.sub.toNat % 4

/-- A queued entry of the wave that will write the tile (R270). -/
def tileQueued (w : Wave) (tc : Nat) : Bool := w.queue.any fun e => matTile e.op = some tc

/-- Registers of one thread from the bytes of its eight elements (R270). -/
def rowWords (bs : List Byte) (j : Nat) : Word := wordAt bs j

/-- The bytes that MRD delivers to thread `i`: its row's eight elements, or default NaNs of a poisoned tile (R263, R270). -/
def mrdBytes (s : State) (id : Nat) (t : Tile) (fc rc cq i : Nat) : List Byte :=
  let es := fcBytes fc
  if t.poison then (List.range 8).flatMap fun _ => leBytes es (defaultNaN (fcFmt fc))
  else (List.range (8 * es)).map fun b => tileByte s id t (((32 * rc + i) * t.cols + 8 * cq) * es + b)

/-- MRD (R260, R270). While a step that names its tile is queued it does not issue; an uncorrectable error in what it reads of a tile that
is not poisoned is a fault (R365). -/
def mrdEff (s : State) (k : Nat) (w : Wave) (f : FmtX) : Eff :=
  let tc := f.tc.toNat
  match maTileFault s w.block tc (some (f.fc.toNat, rowBlock f)) with
  | some n => .trap (failCode n)
  | none =>
    if tileQueued w tc then .trap (matrixFail 9)
    else if mrdHeld s w tc then .jump s
    else match findTile s w.block tc with
      | none => .next s
      | some (id, t) =>
        let es := fcBytes f.fc.toNat
        let row (i : Nat) : Nat := ((32 * rowBlock f + i) * t.cols + 8 * colGroup f) * es
        if !t.poison && (threads w.st.live).any (fun i => tileWordsBad s id (row i) (8 * es)) then .trap ⟨26, 4, none, none⟩ else
        let w1 := (List.range (mrdRegs f.fc)).foldl (fun w j =>
          w.setReg f.a.lvl.toNat (f.a.idx.toNat + j) w.st.live fun i =>
            rowWords (mrdBytes s id t f.fc.toNat (rowBlock f) (colGroup f) i) j) w
        .next (s.setWave k w1)

def execMrd (f : FmtX) (s : State) : Host.Outcome State Fault Refusal := issueP (.mrd f) (fun s k w => mrdEff s k w f) s

def execMwr (f : FmtX) (s : State) : Host.Outcome State Fault Refusal :=
  issueQ (.mwr f) (fun s _ w _ => .ok
    ⟨s, .mwr f.tc.toNat (rowBlock f) (colGroup f) f.fc.toNat (rowRegs s w f.a (mrdRegs f.fc)) w.st.chain, []⟩) s

def execMzero (f : FmtX) (s : State) : Host.Outcome State Fault Refusal :=
  issueQ (.mzero f) (fun s _ w _ => .ok ⟨s, .mzero f.tc.toNat w.st.chain, []⟩) s

/-- MSCL's factors, one for each thread (R272). -/
def mscls (s : State) (w : Wave) (f : FmtX) : List DWord :=
  (List.range 32).map fun t => srcUnit s w true false (fcFmt f.fc.toNat) f.a t 0

def execMscl (f : FmtX) (s : State) : Host.Outcome State Fault Refusal :=
  issueQ (.mscl f) (fun s _ w _ => .ok
    ⟨s, .mscl f.tc.toNat (rowBlock f) f.fc.toNat f.rnd.toNat (mscls s w f) w.st.chain, []⟩) s

end Sys2Proof.Machine
end

