-- ==== Sys2Proof/Machine/PowerInstr.lean ====
section
/-! DEFINITION. OPCLS, LUMQ and MONRD at issue (spec/22 R423 to R427, spec/23 R437, R438). -/
namespace Sys2Proof.Machine

def execOpcls (f : FmtY) (s : State) : Host.Outcome State Fault Refusal :=
  issueQ (.opcls f) (fun s _ w _ => .ok ⟨s, .opcls (w.st.s f.a.idx.toNat) (w.st.s f.b.idx.toNat) f.d.idx.toNat, []⟩) s

/-- Whether a quad gutters in the current microsecond (R420, R426): not once its draw has reached what the fillers bring it to; before
that it is not defined when they begin, a free choice (log 16). -/
def guttersNow (s : State) (q : Nat) : Bool :=
  let x := s.quad q
  x.used < x.draw - peakEighth x.cls && s.fbool (fkey 24 q)

/-- The word that LUMQ reads (R426). -/
def lumWord (s : State) (w : Wave) (sel : Nat) : Nat :=
  let c := s.core w.core
  let q := s.quad (quadOfCore w.core)
  let d := s.die (dieOfCore w.core)
  match sel with
  | 0 => (c.reserved.foldl (fun m i => m ||| 2 ^ (i % 4)) 0) * 2 ^ 40 + 8 * 2 ^ 32 + c.refill % 2 ^ 16 * 2 ^ 16 + c.lumens % 2 ^ 16
  | 1 => d.passin % 2 ^ 16 * 2 ^ 32 + d.passout % 2 ^ 16 * 2 ^ 16 + d.share % 2 ^ 16
  | 2 => q.vfloor % 8 * 2 ^ 32 + q.vceil % 8 * 2 ^ 29 + q.cls % 8 * 2 ^ 26 + (if q.chg ≠ 0 then 2 ^ 25 else 0) +
      (if guttersNow s (quadOfCore w.core) then 2 ^ 24 else 0) + q.draw % 2 ^ 24
  | 3 => ((tget s.ctxs w.ctx).map Ctx.energy).getD 0 / energyUnit
  | _ => ((tget s.ctxs w.ctx).map Ctx.gutter).getD 0 / energyUnit

def lumqEff (s : State) (k : Nat) (w : Wave) (f : FmtY) : State :=
  if w.st.act f.h = 0 then s
  else s.setWave k { w with st := w.st.setS f.d.idx.toNat (BitVec.ofNat 64 (lumWord s w (f.sub.toNat % 8))) }

def execLumq (f : FmtY) (s : State) : Host.Outcome State Fault Refusal :=
  issueP (.lumq f) (fun s k w => .next (lumqEff s k w f)) s

/-- A word of a capture unit (R437). -/
def captureWord (c : Capture) (n : Nat) : Nat :=
  let bins := (c.bins.zipIdx).foldl (fun acc b => acc + b.1 * 2 ^ (12 * b.2)) 0
  if n = 0 then c.mx % 2 ^ 32 * 2 ^ 32 + c.mn % 2 ^ 32 else bins / 2 ^ (64 * (n - 1)) % 2 ^ 64

/-- MONRD's value (R427): the stall word, or a word of a capture unit of the wave's context (R438). -/
def monValue (s : State) (w : Wave) (f : FmtY) : DWord :=
  if f.sub.getLsbD 0 then
    let a := (w.st.s f.a.idx.toNat).toNat
    if a ≥ 2 ^ 10 || bitsOf a 7 6 ≠ 0 then 0
    else
      let c := (tget (s.die (dieOfCore w.core)).capture (a % 64)).getD Capture.reset
      if c.ctx = w.ctx then BitVec.ofNat 64 (captureWord c (a / 256)) else 0
  else (s.side w.side).stall

def monrdEff (s : State) (k : Nat) (w : Wave) (f : FmtY) : State :=
  if w.st.act f.h = 0 then s else s.setWave k { w with st := w.st.setS f.d.idx.toNat (monValue s w f) }

def execMonrd (f : FmtY) (s : State) : Host.Outcome State Fault Refusal :=
  issueP (.monrd f) (fun s k w => .next (monrdEff s k w f)) s

end Sys2Proof.Machine
end

