-- ==== Sys2Proof/Machine/PredOps.lean ====
section
/-! DEFINITION. Predicate instructions PAND, POR, PXOR, PNOT, PMOV (spec/09 R203, spec/03 R54). -/
namespace Sys2Proof.Machine

/-- A predicate instruction: each active thread writes its own bit of a mask (R203). -/
def predV (i : Instr) (f : FmtV) (mask : State → Wave → Word) (s : State) : Host.Outcome State Fault Refusal :=
  issueP i (fun s k w => .next (s.setWave k (w.writePred f.d.idx.toNat (w.st.act f.h) (bit (mask s w))))) s

def execPand (f : FmtV) (s : State) : Host.Outcome State Fault Refusal :=
  predV (.pand f) f (fun _ w => w.st.p f.a.idx.toNat &&& w.st.p f.b.idx.toNat) s

def execPor (f : FmtV) (s : State) : Host.Outcome State Fault Refusal :=
  predV (.por f) f (fun _ w => w.st.p f.a.idx.toNat ||| w.st.p f.b.idx.toNat) s

def execPxor (f : FmtV) (s : State) : Host.Outcome State Fault Refusal :=
  predV (.pxor f) f (fun _ w => w.st.p f.a.idx.toNat ^^^ w.st.p f.b.idx.toNat) s

def execPnot (f : FmtV) (s : State) : Host.Outcome State Fault Refusal :=
  predV (.pnot f) f (fun _ w => ~~~(w.st.p f.a.idx.toNat)) s

/-- PMOV's four forms (R203). -/
def pmovWave (s : State) (w : Wave) (f : FmtV) : Wave :=
  let act := w.st.act f.h
  match f.subop.toNat with
  | 0 => w.writePred f.d.idx.toNat act (bit (w.st.p f.a.idx.toNat))
  | 1 => w.writePred f.d.idx.toNat act fun t => read32 s w f.a t ≠ 0
  | 2 => w.writePred f.d.idx.toNat act fun t => bit (read32 s w f.a t) t
  | _ => w.setReg f.d.lvl.toNat f.d.idx.toNat act fun t => if bit (w.st.p f.a.idx.toNat) t then 1 else 0

def execPmov (f : FmtV) (s : State) : Host.Outcome State Fault Refusal :=
  issueP (.pmov f) (fun s k w => .next (s.setWave k (pmovWave s w f))) s

end Sys2Proof.Machine
end

