-- ==== Sys2Proof/Machine/SyncInstr.lean ====
section
/-! DEFINITION. Synchronisation instructions at issue: VIGIL, WAKE, WAKEQ, ARV, BINIT, ATOM, RED, REDD, DTOK, FENCE (spec/13 R285 to
R306). -/
namespace Sys2Proof.Machine

/-- VIGIL's checks at issue (R291). -/
def vigilCheck (s : State) (w : Wave) (f : FmtM) : Option Fail :=
  if w.st.act f.h = 0 then none
  else match taperFail w f.h 2 with
    | some e => some e
    | none => match vigilPlace s w f with
      | .error e => some e
      | .ok _ => none

def execVigil (f : FmtM) (s : State) : Host.Outcome State Fault Refusal :=
  issueB (.vigil f) none (fun s _ w => vigilCheck s w f) s

/-- The address of WAKE and WAKEQ (R296), or its failure at issue: `n` is the width of the word. -/
def wakeAddr (w : Wave) (f : FmtM) (n : Nat) : Except Fail DWord :=
  let a := w.st.s f.a.idx.toNat + f.ofs.signExtend 64
  if w.st.act f.h = 0 then .ok a
  else if !canonical a.toNat || !canonical (a.toNat + n - 1) then .error ⟨3, 1, none, some a⟩
  else if a.toNat % n ≠ 0 then .error ⟨4, 1, none, some a⟩
  else .ok a

def wakePlan (s : State) (w : Wave) (f : FmtM) : Except Fail Plan :=
  match wakeAddr w f 4 with
  | .error e => .error e
  | .ok a => .ok ⟨s, .wake a.toNat (read32w s w f.b).toNat f.scope.toNat, []⟩

def execWake (f : FmtM) (s : State) : Host.Outcome State Fault Refusal := issueQ (.wake f) (fun s _ w _ => wakePlan s w f) s

/-- WAKEQ at issue; the sectors that it will write are marked (R126). -/
def wakeqPlan (s : State) (w : Wave) (f : FmtM) : Except Fail Plan :=
  let w64 := f.sub.getLsbD 3
  let n := if w64 then 8 else 4
  match wakeAddr w f n with
  | .error e => .error e
  | .ok a => .ok ⟨s, .wakeq a.toNat (w.st.s f.b.idx.toNat) w64 ((w.st.s (f.b.idx.toNat + 1)).toNat % 2 ^ 32) f.scope.toNat,
      sectorsOf a.toNat n⟩

def execWakeq (f : FmtM) (s : State) : Host.Outcome State Fault Refusal := issueQ (.wakeq f) (fun s _ w _ => wakeqPlan s w f) s

/-- The sectors of a memory barrier that a queued ARV or BINIT will write (R126, spec/13 before R275). -/
def barMarks (s : State) (w : Wave) (ref : DWord) : List Nat :=
  match parseBar s w.block ref with
  | some (.mem va) => sectorsOf va 16
  | _ => []

/-- ARV at issue (R294, R295). -/
def arvPlan (s : State) (w : Wave) (f : FmtM) : Except Fail Plan :=
  match taperFail w f.h 3 with
  | some e => .error e
  | none => .ok ⟨s, .arv (w.st.s f.a.idx.toNat) (read32w s w f.b) f.scope.toNat f.d.idx.toNat f.sub.toNat, barMarks s w (w.st.s f.a.idx.toNat)⟩

def execArv (f : FmtM) (s : State) : Host.Outcome State Fault Refusal := issueQ (.arv f) (fun s _ w _ => arvPlan s w f) s

def execBinit (f : FmtM) (s : State) : Host.Outcome State Fault Refusal :=
  issueQ (.binit f) (fun s _ w _ => .ok ⟨s, .binit (w.st.s f.a.idx.toNat) (read32w s w f.b).toNat, barMarks s w (w.st.s f.a.idx.toNat)⟩) s

/-! Atomics. -/

/-- Fields of ATOM, RED and REDD (R297). -/
def atomCode (f : FmtM) : Nat := f.sub.toNat / 8
def atomW64 (f : FmtM) : Bool := f.sub.getLsbD 2
def atomOrd (f : FmtM) : Nat := f.sub.toNat % 4
def atomOfs (f : FmtM) : DWord := (f.ofs.extractLsb' 2 14).signExtend 64

/-- The element format of an atomic (R298). -/
def atomFmt (f : FmtM) : Nat :=
  if atomCode f = 14 then (if f.byp then 3 else if atomW64 f then 0 else 2)
  else if f.byp then (if atomW64 f then 3 else 2) else if atomW64 f then 1 else 0

/-- Data operand number `k` of a thread (R297): a constant is an integer for operations 0 to 10, and for the others the value in
the element format, in every element of the word (R57; log 15). -/
def atomData (s : State) (w : Wave) (f : FmtM) (t k : Nat) : DWord :=
  let n := atomBytes (atomCode f) f.byp (atomW64 f)
  let fp := atomCode f ≥ 11
  if f.b.lvl = 3 then
    let i := f.b.idx.toNat + k
    if i < 128 then level3 s w false f.h.u 1 i t
    else if fp && n = 8 && atomFmt f = 0 then
      let v := level3 s w true f.h.u 0 i t
      v ||| v <<< 32
    else level3 s w fp f.h.u (if fp then atomFmt f else if n = 8 then 1 else 0) i t
  else if n = 8 then srcUnit s w false false 1 f.b t (2 * k) 1 else srcUnit s w false false 0 f.b t k 1

/-- An atomic at issue (R297, R300, R301): in a deterministic launch ATOM and RED fault before any address is formed. -/
def atomPlan (s : State) (w : Wave) (which : Nat) (f : FmtM) : Except Fail Plan :=
  let n := atomBytes (atomCode f) f.byp (atomW64 f)
  if which ≠ 2 && s.isDet w then .error ⟨20, 2, none, none⟩
  else
    let ls := (lanesOf w f.h).map fun t => (t, readBase s w f.a t + atomOfs f)
    match ls.findSome? fun e => addrFail e.1 e.2 n n with
    | some e => .error e
    | none =>
      let cas := atomCode f = 9
      let lanes := ls.map fun e => (⟨e.1, e.2.toNat, atomData s w f e.1 (if cas then 1 else 0),
        if cas then atomData s w f e.1 0 else 0⟩ : LaneAtom)
      .ok ⟨s, .atomic which (atomCode f) f.byp (atomW64 f) (f.ofs.toNat % 4) f.scope.toNat (atomOrd f) f.d f.h.u lanes,
        ls.flatMap fun e => sectorsOf e.2.toNat n⟩

def execAtom (f : FmtM) (s : State) : Host.Outcome State Fault Refusal := issueQ (.atom f) (fun s _ w _ => atomPlan s w 0 f) s

def execRed (f : FmtM) (s : State) : Host.Outcome State Fault Refusal := issueQ (.red f) (fun s _ w _ => atomPlan s w 1 f) s

def execRedd (f : FmtM) (s : State) : Host.Outcome State Fault Refusal := issueQ (.redd f) (fun s _ w _ => atomPlan s w 2 f) s

def execDtok (f : FmtM) (s : State) : Host.Outcome State Fault Refusal :=
  issueQ (.dtok f) (fun s _ _ _ => .ok ⟨s, .dtok, []⟩) s

/-- FENCE at issue: `.full` and `.ld` hold back the wave's later loads until its earlier ones have returned (R306), and as acquires order them
after what a release has ordered (R317). -/
def fenceIssue (s : State) (k core kind scope : Nat) : State :=
  if kind = 2 then s else acquireSent (forgetEarly s fun x => x.wave = k) core scope

def execFence (f : FmtM) (s : State) : Host.Outcome State Fault Refusal :=
  issueQ (.fence f) (fun s k w act =>
    .ok ⟨if act ≠ 0 then fenceIssue s k w.core (f.sub.toNat % 4) f.scope.toNat else s, .fence (f.sub.toNat % 4) f.scope.toNat, []⟩) s

end Sys2Proof.Machine
end

