-- ==== Sys2Proof/Machine/System.lean ====
section
/-! DEFINITION. System instructions: TRAP, BKPT, HALT, ERET, SRD, SWR, PATCH (spec/17 R363, R371 to R375, R382). -/
namespace Sys2Proof.Machine

def execTrap (f : FmtY) (s : State) : Host.Outcome State Fault Refusal := issueB (.trap f) none (fun _ _ _ => none) s

def execBkpt (f : FmtY) (s : State) : Host.Outcome State Fault Refusal := issueB (.bkpt f) none (fun _ _ _ => none) s

def execHalt (f : FmtY) (s : State) : Host.Outcome State Fault Refusal := issueB (.halt f) none (fun _ _ _ => none) s

def execEret (f : FmtY) (s : State) : Host.Outcome State Fault Refusal := issueB (.eret f) none (fun _ _ _ => none) s

/-- The FRAME record's value of a frame register (R371). -/
def frameReg (w : Wave) (sysn : Nat) : DWord :=
  match w.frame with
  | none => 0
  | some f =>
    if sysn ≤ 0x13F then f.s (sysn - 0x100)
    else if sysn ≤ 0x147 then (f.p (sysn - 0x140)).zeroExtend 64
    else f.fpstat.zeroExtend 64

/-- The value of a system register (R371), DCYC apart. -/
def sysRead (s : State) (w : Wave) (sysn : Nat) : DWord :=
  if sysn = 0x02 then BitVec.ofNat 64 (s.die (dieOfCore w.core)).usec
  else if sysn = 0x08 then (if w.st.pl1 then 1 else 0)
  else if sysn = 0x20 then w.st.fpstat.zeroExtend 64
  else if sysn = 0x21 then (((tget s.ctxs w.ctx).map Ctx.astat).getD 0).zeroExtend 64
  else if sysn = 0x30 then w.ecause
  else if sysn = 0x31 then w.epc
  else if sysn = 0x32 then w.eres
  else if sysn = 0x33 then w.eaddr
  else if sysn ≥ 0x100 then frameReg w sysn
  else s.ctxReg w.ctx sysn

/-- A reading of the die's cycle counter: any value that is no less than the last one read (log 9). -/
def cycRead (s : State) (d : Nat) : State × DWord :=
  let x := s.die d
  let v := max x.cyc (s.fv (fkey 16 d)).toNat
  (s.setDie d { x with cyc := v }, BitVec.ofNat 64 v)

/-- SRD's effect (R372). -/
def srdEff (s : State) (k : Nat) (w : Wave) (f : FmtY) : State :=
  if w.st.act f.h = 0 then s
  else
    let r := if f.sysn = 1 then cycRead s (dieOfCore w.core) else (s, sysRead s w f.sysn.toNat)
    r.1.setWave k { w with st := w.st.setS f.d.idx.toNat r.2 }

def execSrd (f : FmtY) (s : State) : Host.Outcome State Fault Refusal :=
  issueP (.srd f) (fun s k w => .next (srdEff s k w f)) s

def execSwr (f : FmtY) (s : State) : Host.Outcome State Fault Refusal :=
  issueQ (.swr f) (fun s _ w _ => .ok ⟨s, .swr f.sysn.toNat (w.st.s f.a.idx.toNat) (w.st.s f.b.idx.toNat), []⟩) s

def execPatch (f : FmtY) (s : State) : Host.Outcome State Fault Refusal :=
  issueQ (.patch f) (fun s _ w _ => .ok
    ⟨s, .patch f.scope.toNat (w.st.s f.a.idx.toNat) (w.st.s f.b.idx.toNat) (w.st.s (f.b.idx.toNat + 1)), []⟩) s

end Sys2Proof.Machine
end

