-- ==== Sys2Proof/Machine/Dispatch.lean ====
section
/-! DEFINITION. One arm per constructor of Instr: the meaning of each instruction and of each step of the device. -/
namespace Sys2Proof.Machine

/-- The meaning of one row of the table of operations and events. -/
def exec (i : Instr) (s : State) : Host.Outcome State Fault Refusal :=
  match i with
  | .nop f => Sys2Proof.Machine.execNop f s
  | .bra f => Sys2Proof.Machine.execBra f s
  | .brc f => Sys2Proof.Machine.execBrc f s
  | .bri f => Sys2Proof.Machine.execBri f s
  | .call f => Sys2Proof.Machine.execCall f s
  | .ret f => Sys2Proof.Machine.execRet f s
  | .rcv f => Sys2Proof.Machine.execRcv f s
  | .exit f => Sys2Proof.Machine.execExit f s
  | .strand f => Sys2Proof.Machine.execStrand f s
  | .yield f => Sys2Proof.Machine.execYield f s
  | .trap f => Sys2Proof.Machine.execTrap f s
  | .eret f => Sys2Proof.Machine.execEret f s
  | .srd f => Sys2Proof.Machine.execSrd f s
  | .swr f => Sys2Proof.Machine.execSwr f s
  | .patch f => Sys2Proof.Machine.execPatch f s
  | .bkpt f => Sys2Proof.Machine.execBkpt f s
  | .halt f => Sys2Proof.Machine.execHalt f s
  | .mov f => Sys2Proof.Machine.execMov f s
  | .movI f => Sys2Proof.Machine.execMovI f s
  | .sel f => Sys2Proof.Machine.execSel f s
  | .selI f => Sys2Proof.Machine.execSelI f s
  | .iadd f => Sys2Proof.Machine.execIadd f s
  | .iaddI f => Sys2Proof.Machine.execIaddI f s
  | .isub f => Sys2Proof.Machine.execIsub f s
  | .isubI f => Sys2Proof.Machine.execIsubI f s
  | .imul f => Sys2Proof.Machine.execImul f s
  | .imulI f => Sys2Proof.Machine.execImulI f s
  | .imulh f => Sys2Proof.Machine.execImulh f s
  | .imulhI f => Sys2Proof.Machine.execImulhI f s
  | .imad f => Sys2Proof.Machine.execImad f s
  | .imadI f => Sys2Proof.Machine.execImadI f s
  | .imin f => Sys2Proof.Machine.execImin f s
  | .iminI f => Sys2Proof.Machine.execIminI f s
  | .imax f => Sys2Proof.Machine.execImax f s
  | .imaxI f => Sys2Proof.Machine.execImaxI f s
  | .iabs f => Sys2Proof.Machine.execIabs f s
  | .iset f => Sys2Proof.Machine.execIset f s
  | .isetI f => Sys2Proof.Machine.execIsetI f s
  | .lea f => Sys2Proof.Machine.execLea f s
  | .leaI f => Sys2Proof.Machine.execLeaI f s
  | .iand f => Sys2Proof.Machine.execIand f s
  | .iandI f => Sys2Proof.Machine.execIandI f s
  | .ior f => Sys2Proof.Machine.execIor f s
  | .iorI f => Sys2Proof.Machine.execIorI f s
  | .ixor f => Sys2Proof.Machine.execIxor f s
  | .ixorI f => Sys2Proof.Machine.execIxorI f s
  | .inot f => Sys2Proof.Machine.execInot f s
  | .lop3 tt7 f => Sys2Proof.Machine.execLop3 tt7 f s
  | .shl f => Sys2Proof.Machine.execShl f s
  | .shlI f => Sys2Proof.Machine.execShlI f s
  | .shr f => Sys2Proof.Machine.execShr f s
  | .shrI f => Sys2Proof.Machine.execShrI f s
  | .sar f => Sys2Proof.Machine.execSar f s
  | .sarI f => Sys2Proof.Machine.execSarI f s
  | .rot f => Sys2Proof.Machine.execRot f s
  | .rotI f => Sys2Proof.Machine.execRotI f s
  | .popc f => Sys2Proof.Machine.execPopc f s
  | .clz f => Sys2Proof.Machine.execClz f s
  | .brev f => Sys2Proof.Machine.execBrev f s
  | .bfx f => Sys2Proof.Machine.execBfx f s
  | .bfxI f => Sys2Proof.Machine.execBfxI f s
  | .pand f => Sys2Proof.Machine.execPand f s
  | .por f => Sys2Proof.Machine.execPor f s
  | .pxor f => Sys2Proof.Machine.execPxor f s
  | .pnot f => Sys2Proof.Machine.execPnot f s
  | .pmov f => Sys2Proof.Machine.execPmov f s
  | .fadd f => Sys2Proof.Machine.execFadd f s
  | .faddI f => Sys2Proof.Machine.execFaddI f s
  | .fsub f => Sys2Proof.Machine.execFsub f s
  | .fsubI f => Sys2Proof.Machine.execFsubI f s
  | .fmul f => Sys2Proof.Machine.execFmul f s
  | .fmulI f => Sys2Proof.Machine.execFmulI f s
  | .ffma f => Sys2Proof.Machine.execFfma f s
  | .ffmaI f => Sys2Proof.Machine.execFfmaI f s
  | .fmin f => Sys2Proof.Machine.execFmin f s
  | .fminI f => Sys2Proof.Machine.execFminI f s
  | .fmax f => Sys2Proof.Machine.execFmax f s
  | .fmaxI f => Sys2Proof.Machine.execFmaxI f s
  | .fmaxi f => Sys2Proof.Machine.execFmaxi f s
  | .fmini f => Sys2Proof.Machine.execFmini f s
  | .fset f => Sys2Proof.Machine.execFset f s
  | .fsetI f => Sys2Proof.Machine.execFsetI f s
  | .fcls f => Sys2Proof.Machine.execFcls f s
  | .frcp f => Sys2Proof.Machine.execFrcp f s
  | .frsq f => Sys2Proof.Machine.execFrsq f s
  | .fsqrt f => Sys2Proof.Machine.execFsqrt f s
  | .fexp2 f => Sys2Proof.Machine.execFexp2 f s
  | .flog2 f => Sys2Proof.Machine.execFlog2 f s
  | .fsin f => Sys2Proof.Machine.execFsin f s
  | .fcos f => Sys2Proof.Machine.execFcos f s
  | .fdivs f => Sys2Proof.Machine.execFdivs f s
  | .cvt f => Sys2Proof.Machine.execCvt f s
  | .bpk f => Sys2Proof.Machine.execBpk f s
  | .bupk f => Sys2Proof.Machine.execBupk f s
  | .sbpk f => Sys2Proof.Machine.execSbpk f s
  | .sbupk f => Sys2Proof.Machine.execSbupk f s
  | .xsel f => Sys2Proof.Machine.execXsel f s
  | .vote f => Sys2Proof.Machine.execVote f s
  | .ball f => Sys2Proof.Machine.execBall f s
  | .scan f => Sys2Proof.Machine.execScan f s
  | .redx f => Sys2Proof.Machine.execRedx f s
  | .matchX f => Sys2Proof.Machine.execMatchX f s
  | .rand f => Sys2Proof.Machine.execRand f s
  | .rseed f => Sys2Proof.Machine.execRseed f s
  | .ld f => Sys2Proof.Machine.execLd f s
  | .st f => Sys2Proof.Machine.execSt f s
  | .ldp f => Sys2Proof.Machine.execLdp f s
  | .stp f => Sys2Proof.Machine.execStp f s
  | .ldl f => Sys2Proof.Machine.execLdl f s
  | .stl f => Sys2Proof.Machine.execStl f s
  | .ldc f => Sys2Proof.Machine.execLdc f s
  | .prf f => Sys2Proof.Machine.execPrf f s
  | .tld f => Sys2Proof.Machine.execTld f s
  | .tst f => Sys2Proof.Machine.execTst f s
  | .talc f => Sys2Proof.Machine.execTalc f s
  | .tfree f => Sys2Proof.Machine.execTfree f s
  | .tinfo f => Sys2Proof.Machine.execTinfo f s
  | .layset f => Sys2Proof.Machine.execLayset f s
  | .layinv f => Sys2Proof.Machine.execLayinv f s
  | .seal f => Sys2Proof.Machine.execSeal f s
  | .unseal f => Sys2Proof.Machine.execUnseal f s
  | .invl1 f => Sys2Proof.Machine.execInvl1 f s
  | .wbl2 f => Sys2Proof.Machine.execWbl2 f s
  | .bulk f => Sys2Proof.Machine.execBulk f s
  | .bcopy f => Sys2Proof.Machine.execBcopy f s
  | .kick f => Sys2Proof.Machine.execKick f s
  | .tend f => Sys2Proof.Machine.execTend f s
  | .echk f => Sys2Proof.Machine.execEchk f s
  | .spawn f => Sys2Proof.Machine.execSpawn f s
  | .bincfg f => Sys2Proof.Machine.execBincfg f s
  | .launch f => Sys2Proof.Machine.execLaunch f s
  | .mbeg f => Sys2Proof.Machine.execMbeg f s
  | .mend f => Sys2Proof.Machine.execMend f s
  | .mma f => Sys2Proof.Machine.execMma f s
  | .gang f => Sys2Proof.Machine.execGang f s
  | .mrd f => Sys2Proof.Machine.execMrd f s
  | .mwr f => Sys2Proof.Machine.execMwr f s
  | .mzero f => Sys2Proof.Machine.execMzero f s
  | .mscl f => Sys2Proof.Machine.execMscl f s
  | .vigil f => Sys2Proof.Machine.execVigil f s
  | .wake f => Sys2Proof.Machine.execWake f s
  | .wakeq f => Sys2Proof.Machine.execWakeq f s
  | .arv f => Sys2Proof.Machine.execArv f s
  | .binit f => Sys2Proof.Machine.execBinit f s
  | .atom f => Sys2Proof.Machine.execAtom f s
  | .red f => Sys2Proof.Machine.execRed f s
  | .redd f => Sys2Proof.Machine.execRedd f s
  | .dtok f => Sys2Proof.Machine.execDtok f s
  | .fence f => Sys2Proof.Machine.execFence f s
  | .opcls f => Sys2Proof.Machine.execOpcls f s
  | .lumq f => Sys2Proof.Machine.execLumq f s
  | .monrd f => Sys2Proof.Machine.execMonrd f s
  | .unassignedOpcode w => Sys2Proof.Machine.execUnassignedOpcode w s
  | .strandBoundaryResume wave => Sys2Proof.Machine.execStrandBoundaryResume wave s
  | .translationInvalidation k => Sys2Proof.Machine.execTranslationInvalidation k s
  | .engineReadStart op item => Sys2Proof.Machine.execEngineReadStart op item s
  | .engineReadsComplete op => Sys2Proof.Machine.execEngineReadsComplete op s
  | .engineBytesLanded op item => Sys2Proof.Machine.execEngineBytesLanded op item s
  | .engineFault op item => Sys2Proof.Machine.execEngineFault op item s
  | .bulkPieceReturn op item => Sys2Proof.Machine.execBulkPieceReturn op item s
  | .binTimerExpiry core bin => Sys2Proof.Machine.execBinTimerExpiry core bin s
  | .matrixStepExecute step => Sys2Proof.Machine.execMatrixStepExecute step s
  | .patchEngineCopy wave => Sys2Proof.Machine.execPatchEngineCopy wave s
  | .wakeDelivery k => Sys2Proof.Machine.execWakeDelivery k s
  | .vigilBudgetExpiry wave => Sys2Proof.Machine.execVigilBudgetExpiry wave s
  | .vigilWithdrawal wave => Sys2Proof.Machine.execVigilWithdrawal wave s
  | .quiescenceLimit wave => Sys2Proof.Machine.execQuiescenceLimit wave s
  | .launchQuiescent launch => Sys2Proof.Machine.execLaunchQuiescent launch s
  | .swapThreshold block => Sys2Proof.Machine.execSwapThreshold block s
  | .blockRestore block core => Sys2Proof.Machine.execBlockRestore block core s
  | .lazyFill wave granule => Sys2Proof.Machine.execLazyFill wave granule s
  | .parityRollback wave => Sys2Proof.Machine.execParityRollback wave s
  | .launchRecordStart queue => Sys2Proof.Machine.execLaunchRecordStart queue s
  | .launchCompletion launch => Sys2Proof.Machine.execLaunchCompletion launch s
  | .dispatcherGrant quad => Sys2Proof.Machine.execDispatcherGrant quad s
  | .quantumExpiry quad => Sys2Proof.Machine.execQuantumExpiry quad s
  | .clusterAdmission launch cluster quad => Sys2Proof.Machine.execClusterAdmission launch cluster quad s
  | .coreResplit core launch => Sys2Proof.Machine.execCoreResplit core launch s
  | .blockRetire block => Sys2Proof.Machine.execBlockRetire block s
  | .waveLighting side => Sys2Proof.Machine.execWaveLighting side s
  | .victimTimeout wave => Sys2Proof.Machine.execVictimTimeout wave s
  | .gridReleaseBatch k => Sys2Proof.Machine.execGridReleaseBatch k s
  | .lumenRotation core => Sys2Proof.Machine.execLumenRotation core s
  | .sideReservation side => Sys2Proof.Machine.execSideReservation side s
  | .waveStarvation wave => Sys2Proof.Machine.execWaveStarvation wave s
  | .dieTick die => Sys2Proof.Machine.execDieTick die s
  | .budgetUnitExpiry die => Sys2Proof.Machine.execBudgetUnitExpiry die s
  | .powerLimitAdjust step => Sys2Proof.Machine.execPowerLimitAdjust step s
  | .quadClassChange quad => Sys2Proof.Machine.execQuadClassChange quad s
  | .stallWindowEnd side => Sys2Proof.Machine.execStallWindowEnd side s
  | .monitorSample die unit value => Sys2Proof.Machine.execMonitorSample die unit value s
  | .bankRefresh bank => Sys2Proof.Machine.execBankRefresh bank s
  | .scrubSector sector => Sys2Proof.Machine.execScrubSector sector s
  | .retentionLoss quad ctx => Sys2Proof.Machine.execRetentionLoss quad ctx s
  | .fabricRead m => Sys2Proof.Machine.execFabricRead m s
  | .fabricWrite m => Sys2Proof.Machine.execFabricWrite m s
  | .info m => Sys2Proof.Machine.execInfo m s
  | .createctx m => Sys2Proof.Machine.execCreatectx m s
  | .killctx m => Sys2Proof.Machine.execKillctx m s
  | .haltctx m => Sys2Proof.Machine.execHaltctx m s
  | .runctx m => Sys2Proof.Machine.execRunctx m s
  | .resume m => Sys2Proof.Machine.execResume m s
  | .resumedrop m => Sys2Proof.Machine.execResumedrop m s
  | .fabricXlinv m => Sys2Proof.Machine.execFabricXlinv m s
  | .fabricQctl m => Sys2Proof.Machine.execFabricQctl m s
  | .moncfg m => Sys2Proof.Machine.execMoncfg m s
  | .attest m => Sys2Proof.Machine.execAttest m s
  | .fwload m => Sys2Proof.Machine.execFwload m s
  | .resetCmd m => Sys2Proof.Machine.execResetCmd m s
  | .fabricUnknownCommand m => Sys2Proof.Machine.execFabricUnknownCommand m s
  | .startUp outcome => Sys2Proof.Machine.execStartUp outcome s
  | .retentionEntry quad => Sys2Proof.Machine.execRetentionEntry quad s
  | .selfRefresh => Sys2Proof.Machine.execSelfRefresh s

end Sys2Proof.Machine
end

