-- ==== Sys2Proof/Machine/Step.lean ====
section
/-! DEFINITION. One step of the machine, and the placing of one instruction where the next step fetches. -/
namespace Sys2Proof.Machine

/-- The end of a step: no wave is issuing, a side that has lost its last lit wave keeps no reservation (R412), and the virtual time of queues
that have become candidates is raised (R340). -/
def finishStep (s : State) : State := refreshVt (dropReservations { s with cur := none })

/-- What the step's instruction or event comes to, with the end of the step. -/
def finishWith : Host.Outcome State Fault Refusal → Host.Outcome State Fault Refusal
  | .next s => .next (finishStep s)
  | r => r

/-- One step: the agent whose turn it is moves (log 2), and the next turn is drawn. -/
def step (s : State) : Host.Outcome State Fault Refusal :=
  let s1 := { s with free := s.free + 1, turn := Config.nextTurn s.free }
  match s.turn with
  | .event e => if e.isEvent then finishWith (exec e s1) else .next (finishStep s1)
  | .strike loc => .next (finishStep (strikeError s1 loc))
  | .corrected d => .next (finishStep (correctError s1 d))
  | .sent i => .next (finishStep (performSentAt s1 i))
  | .early k va => .next (finishStep (readEarly s1 k va))
  | .share d units => .next (finishStep (setShare s1 d units))
  | .issue side =>
    match startIssue s1 side with
    | .stop s2 => .next (finishStep s2)
    | .run s2 i => finishWith (exec i s2)

/-- The state with one instruction placed where the next step fetches it: the bytes at the place of the machine's first code
page, a context whose page table maps it, a launch of one block of one wave that is lit with its PC there, lumens in its
core's ring, and the turn of its side (log 2). -/
def State.withFetchWord (s : State) (nbits w : Nat) : State := placeInstr s (w % 2 ^ nbits)

end Sys2Proof.Machine
end

