-- ==== Sys2Proof/Safety.lean ====
section
/-! DEFINITION. What counts as a safe run: it never stops. Every trap of the spec is a next state; the one fault is `exec` of an
instruction with no wave issuing, and `step` never asks for that. With it the terms that claims use: when nothing stops an
instruction at its issue, and what a step leaves alone. -/
namespace Sys2Proof

/-- `n` steps from a state answer a next state each. -/
def Safe (n : Nat) (s : Machine.State) : Prop := ∃ t, core.run n s = .next t

namespace Machine

/-- Nothing in the state stops instruction `i` of wave `k` at its issue: the wave issues and is lit in a block that runs, its side has the
lumens (R411), the instruction passes the checks of R65, R363, R178 and R179, it touches no absent granule (R188), and no far
register that it reads holds an uncorrectable error (R440). -/
structure Ready (i : Instr) (k : Nat) (w : Wave) (s : State) : Prop where
  issuing : s.cur = some k
  wave : s.wave k = some w
  lit : w.lit = true
  runs : s.blockRuns w.block = true
  lumens : canTake s w.side (priceOf i) = true
  checks : issueFail w i = none
  granules : absentOf w (readsOf i ++ writesOf i) = []
  sound : farBad s k i = false

/-- `exec` of an instruction answers a next state in which wave `k` is some wave, and the two satisfy `P`. -/
def Gives (i : Instr) (s : State) (k : Nat) (P : State → Wave → Prop) : Prop :=
  ∃ t w', exec i s = .next t ∧ t.wave k = some w' ∧ P t w'

/-- What is stored of one thread's register: none where nothing has been written since it was lost (R171). -/
def Wave.lane (w : Wave) (lvl i t : Nat) : Option Word := (tget (w.file lvl) i).bind fun l => (l[t]?).join

/-- A block, and a launch, without the time that they have waited: an instruction of a wave ends the waiting of its block and launch
(R344, R355). -/
def Block.still (b : Block) : Block := { b with waited := 0 }
def Launch.still (l : Launch) : Launch := { l with quiet := 0 }

/-- What an instruction that acts on its own wave alone leaves of the rest of the machine: memory, caches' addresses, writes that are
sent, tiles, vigils, blocks, launches, queues, engines, messages, every other wave, and the registers of every context. Lumens and their
accounts are not among these. -/
structure OnlyWave (k : Nat) (s t : State) : Prop where
  mem : t.mem = s.mem
  l2 : t.l2 = s.l2
  tlb : t.tlb = s.tlb
  sent : t.sent = s.sent
  early : ∀ x, x.wave ≠ k → (x ∈ t.early ↔ x ∈ s.early)
  tiles : t.tiles = s.tiles
  vigils : t.vigils = s.vigils
  wakes : t.wakes = s.wakes
  blocks : ∀ b, (tget t.blocks b).map Block.still = (tget s.blocks b).map Block.still
  launches : ∀ l, (tget t.launches l).map Launch.still = (tget s.launches l).map Launch.still
  queues : t.queues = s.queues
  engops : t.engops = s.engops
  locks : t.locks = s.locks
  seals : t.seals = s.seals
  outbox : t.outbox = s.outbox
  waves : ∀ j, j ≠ k → t.wave j = s.wave j
  regs : ∀ c n, t.ctxReg c n = s.ctxReg c n
  astat : ∀ c, (tget t.ctxs c).map Ctx.astat = (tget s.ctxs c).map Ctx.astat

/-- Every near, wick and far register, scalar and predicate that is not in a list keeps what it holds. Levels are those of R29:
0 wick, 1 near, 2 far, 3 scalars; 4 stands for the predicates. -/
structure RegsKept (dsts : List RegRef) (w w' : Wave) : Prop where
  lanes : ∀ lvl i t, lvl < 3 → (lvl, i) ∉ dsts → w'.lane lvl i t = w.lane lvl i t
  scalars : ∀ i, (3, i) ∉ dsts → w'.st.s i = w.st.s i
  preds : ∀ i, (4, i) ∉ dsts → w'.st.p i = w.st.p i

/-- The threads that are not in a mask keep what they hold in every register and predicate. -/
structure LanesKept (act : Word) (w w' : Wave) : Prop where
  lanes : ∀ lvl i t, lvl < 3 → t < 32 → bit act t = false → w'.lane lvl i t = w.lane lvl i t
  preds : ∀ i, w'.st.p i &&& ~~~act = w.st.p i &&& ~~~act

/-- An instruction that ran in the threads of `act`, with destinations `dsts` and flags `fl`: the PC moves on, the flags are joined to
FPSTAT (a queued write of FPSTAT takes them too, R239), far registers that were read are marked (R178), and of the wave nothing else
changes but its destinations, in those threads. -/
structure Effect (dsts : List RegRef) (act : Word) (fl : FFlags) (w w' : Wave) : Prop where
  kept : w' = { w with
    near := w'.near, wick := w'.wick, far := w'.far, farRead := w'.farRead, queue := w.queue.map (QEntry.later fl)
    st := { w.st with scal := w'.st.scal, pred := w'.st.pred, fpstat := w.st.fpstat ||| fl, pc := w.st.pc + 12 } }
  regs : RegsKept dsts w w'
  lanes : LanesKept act w w'

/-- Instruction `i` leaves its wave `k` as `w'`, and the rest of the machine but for lumens as it was. -/
def Leaves (i : Instr) (s : State) (k : Nat) (w' : Wave) : Prop :=
  ∃ t, exec i s = .next t ∧ t.wave k = some w' ∧ OnlyWave k s t

/-- The fields of ECAUSE (R366). -/
structure CauseIs (e : DWord) (cause sub whn : Nat) (rq be : Bool) (thr : Option Nat) : Prop where
  cause : bitsOf e.toNat 31 24 = cause % 256
  sub : bitsOf e.toNat 23 20 = sub % 16
  rq : bitsOf e.toNat 19 19 = if rq then 1 else 0
  be : bitsOf e.toNat 18 18 = if be then 1 else 0
  whn : bitsOf e.toNat 17 16 = whn % 4
  thv : bitsOf e.toNat 15 15 = if thr.isSome then 1 else 0
  thr : bitsOf e.toNat 14 10 = thr.getD 0 % 32
  reserved : bitsOf e.toNat 63 32 = 0 ∧ bitsOf e.toNat 9 0 = 0

/-- TVEC.ENTRY of a wave's context (R367). -/
def handlerEntry (s : State) (w : Wave) : DWord := BitVec.ofNat 64 ((s.ctxReg w.ctx 0x40).toNat % 2 ^ 57)

/-- Wave `w'` is `w` delivered to its context's handler (R366, R368): FRAME is the strand head `hd` with PC := ERES, the wave stands
at PL 1 at TVEC.ENTRY, a new strand head, with every live thread on its path and nothing open; near and wick registers hold
nothing, far registers are kept. -/
structure AtHandler (entry : DWord) (hd : WState) (w w' : Wave) (cause sub whn : Nat) (thr : Option Nat) (epc eres : DWord)
    (rq be : Bool) : Prop where
  frame : w'.frame = some { hd with pc := eres }
  level : w'.st.pl1 = true
  pc : w'.st.pc = entry
  svm : w'.st.svm = 0
  live : w'.st.live = hd.live
  exec : w'.st.exec = hd.live
  opened : w'.st.dstack = [] ∧ w'.st.rstack = []
  gang : w'.st.gmask = 0 ∧ w'.st.gseq = 0 ∧ w'.st.chain = false ∧ w'.st.chainOrd = false
  scalars : ∀ i, w'.st.s i = hd.s i
  preds : ∀ i, w'.st.p i = hd.p i
  fpstat : w'.st.fpstat = hd.fpstat
  draws : w'.st.seed = hd.seed ∧ w'.st.ctr = hd.ctr
  head : w'.head = w'.st
  near : w'.near = [] ∧ w'.wick = []
  far : w'.far = w.far
  queue : w'.queue = [] ∧ w'.farRead = [] ∧ w'.residual = [] ∧ w'.be = none
  epc : w'.epc = epc
  eres : w'.eres = eres
  ecause : CauseIs w'.ecause cause sub whn rq be thr

/-- Instruction `i` raises a trap at issue (R181, R366, R368), and the trap goes to the context's handler: the wave resumes, once
handled, at its strand head; its bank is kept and no other part of the machine is touched, but that after a page fault the caches of its
core's and die's translations hold no leaf of the page (R86). Where the trap goes is asked of the wave as the rollback leaves it. -/
def TrapsAtIssue (i : Instr) (s : State) (k : Nat) (w : Wave) (cause sub : Nat) (thr : Option Nat) (addr : Option DWord) : Prop :=
  trapToHost s w.rollback cause = false → ∃ t w', exec i s = .next t ∧ t.wave k = some w' ∧
    OnlyWave k (if cause = 3 then dropLeaves s (.lsu w.core) w.ctx (pageNo w'.eaddr.toNat) else s) t ∧
    AtHandler (handlerEntry s w) w.head w w' cause sub 0 thr w.st.pc w.head.pc (decide (w.residual ≠ [])) w.be.isSome ∧
    w'.bank = w.bank ∧ ∀ a, addr = some a → w'.eaddr = a

/-- The survivor mask that a boundary keeps (R175, R362). -/
def Wave.keptMask (w : Wave) : Word := if w.st.pl1 then 0 else w.st.svm

/-- The strand head that a boundary with survivor mask `m` records (R175). -/
def Wave.nextHead (w : Wave) (m : Word) : WState := { w.st with svm := m, pc := w.st.pc + 12 }

/-- Step 1 of a boundary (R175): the near registers that `m` names are copied to the bank for all 32 threads. -/
def Banked (m : Word) (w w' : Wave) : Prop :=
  ∀ i, tget w'.bank i = if i < 32 ∧ bit m i = true then some ((tget w.near i).getD []) else tget w.bank i

/-- Step 4 of a boundary and what is undefined after it (R175, R176): the queue, the marks and the far-read bits are empty, no wick
register and no near register outside `m` holds a value; the others, and the far registers, keep theirs. -/
structure AfterBoundary (m : Word) (w w' : Wave) : Prop where
  bank : Banked m w w'
  near : ∀ i l, (i, l) ∈ w'.near ↔ (i, l) ∈ w.near ∧ bit m i = true
  wick : w'.wick = []
  far : w'.far = w.far
  queue : w'.queue = [] ∧ w'.farRead = [] ∧ w'.residual = [] ∧ w'.be = none
  lit : w'.lit = w.lit
  saved : w'.frame = w.frame ∧ w'.epc = w.epc ∧ w'.eres = w.eres ∧ w'.eaddr = w.eaddr ∧ w'.ecause = w.ecause

/-- RCV's loop (R224) at the PC `pc`: the control state before it and the one after it, its path's threads joined. -/
inductive Joins (pc : DWord) : WState → WState → Prop
  | done (st : WState) : (∀ e ∈ st.dstack.head?, e.jpc ≠ pc) → Joins pc st { st with pc := pc + 12 }
  | other (st : WState) (e : DEntry) (rest : List DEntry) : st.dstack = e :: rest → e.jpc = pc → e.pmask &&& st.live ≠ 0 →
      Joins pc st { st with exec := e.pmask &&& st.live, pc := e.ppc, dstack := { e with pmask := 0 } :: rest }
  | pop (st st' : WState) (e : DEntry) (rest : List DEntry) : st.dstack = e :: rest → e.jpc = pc → e.pmask &&& st.live = 0 →
      Joins pc { st with exec := e.saved &&& st.live, dstack := rest } st' → Joins pc st st'

/-- The resolution of the stack while EXEC is empty (R224); a state with a thread on its path, or with nothing on its stack, stays. -/
inductive Resolves : WState → WState → Prop
  | path (st : WState) : st.exec ≠ 0 ∨ st.dstack = [] → Resolves st st
  | other (st : WState) (e : DEntry) (rest : List DEntry) : st.exec = 0 → st.dstack = e :: rest → e.pmask &&& st.live ≠ 0 →
      Resolves st { st with exec := e.pmask &&& st.live, pc := e.ppc, dstack := { e with pmask := 0 } :: rest }
  | pop (st st' : WState) (e : DEntry) (rest : List DEntry) : st.exec = 0 → st.dstack = e :: rest → e.pmask &&& st.live = 0 →
      Resolves { st with exec := e.saved &&& st.live, pc := e.jpc, dstack := rest } st' → Resolves st st'

/-- A barrier object after `n` bytes have landed on it (R152, R293): BYTES falls by them modulo 2^32, and where then nothing is left of
arrivals and bytes, its phase is complete. -/
def Bar.landed (b : Bar) (n : Nat) : Bar :=
  let bytes := (b.bytes + (2 ^ 32 - n % 2 ^ 32)) % 2 ^ 32
  if b.arrive = 0 ∧ bytes = 0 then
    { b with phase := (b.phase + 1) % 2 ^ 16, arrive := b.reload, bytes := 0, wobs := 0, drn := b.drn || decide (b.wreg > 0) }
  else { b with bytes := bytes }

/-- A block that an escalation leaves (R369, R434, R442): written out and its owner told, or stranded where its save area failed, and then the
notify is kept until the save area has been written. -/
def Escalated (t : State) (ctx cause : Nat) (arg : DWord) (y : Block) : Prop :=
  (y.status = .escalated ∧ ∃ m ∈ t.outbox, m.typ = 6 ∧ m.ctx = BitVec.ofNat 12 ctx ∧ m.cmd = BitVec.ofNat 8 cause ∧ m.arg = arg) ∨
  (y.status = .stranded ∧ y.strandAs = .escalated ∧ y.notice = some (cause, arg))

/-! Forms of the register instructions: what each computes, unit by unit, from the wave before it. -/

/-- An instruction whose destination is a block of units, or under U = 1 a scalar: `val` gives the unit of a thread at a register
offset, and its flags. -/
structure UnitForm where
  h : Hdr
  fmt : Nat
  d : Dst
  val : State → Wave → Nat → Nat → DWord × FFlags

/-- Elements of the sources of format V, or of A and the immediate of format I, and with `prior` of the destination. -/
def elemsV (fp : Bool) (n : Nat) (f : FmtV) (op : List Nat → Nat × FFlags) : UnitForm :=
  ⟨f.h, f.fmt.toNat, f.d, fun s w t off => mapElems (unitBits f.fmt.toNat) (elemBits fp f.fmt.toNat) op
    (([f.a, f.b, f.c].take n).zipIdx.map fun x => srcUnit s w fp f.h.u f.fmt.toNat x.1 t off x.2)⟩

def elemsI (fp prior : Bool) (f : FmtI) (op : List Nat → Nat × FFlags) : UnitForm :=
  ⟨f.h, f.fmt.toNat, f.d, fun s w t off => mapElems (unitBits f.fmt.toNat) (elemBits fp f.fmt.toNat) op
    ([srcUnit s w fp f.h.u f.fmt.toNat f.a t off, immUnit fp f.fmt.toNat f.imm] ++
      if prior then [srcUnit s w fp f.h.u f.fmt.toNat (dstSrc f.d) t off 2] else [])⟩

def intsV (n : Nat) (f : FmtV) (op : Nat → List Nat → Nat) : UnitForm :=
  elemsV false n f fun l => (op (elemBits false f.fmt.toNat) l, 0)

def intsI (prior : Bool) (f : FmtI) (op : Nat → List Nat → Nat) : UnitForm :=
  elemsI false prior f fun l => (op (elemBits false f.fmt.toNat) l, 0)

/-- A result with no flags. -/
def plain (x : DWord) : DWord × FFlags := (x, 0)

/-- The unit form of an instruction, if it has one (R194 to R202, R204 to R209, R216, R217). -/
def unitForm : Instr → Option UnitForm
  | .mov f => some (intsV 1 f fun _ l => arg l 0)
  | .movI f => some (intsI false f fun _ l => arg l 1)
  | .sel f => some ⟨f.h, f.fmt.toNat, f.d, fun s w t off => plain
      (if bit (w.st.p f.c.idx.toNat) t != f.subop.getLsbD 0 then srcUnit s w false false f.fmt.toNat f.a t off
       else srcUnit s w false false f.fmt.toNat f.b t off 1)⟩
  | .selI f => some ⟨f.h, f.fmt.toNat, f.d, fun s w t off => plain
      (if bit (w.st.p (f.xsub.toNat % 8)) t != f.subop.getLsbD 0 then srcUnit s w false false f.fmt.toNat f.a t off
       else immUnit false f.fmt.toNat f.imm)⟩
  | .iadd f => some (intsV 2 f (addOp false f.subop))
  | .iaddI f => some (intsI false f (addOp false f.subop))
  | .isub f => some (intsV 2 f (addOp true f.subop))
  | .isubI f => some (intsI false f (addOp true f.subop))
  | .imul f => some (intsV 2 f mulOp)
  | .imulI f => some (intsI false f mulOp)
  | .imulh f => some (intsV 2 f (mulhOp f.subop))
  | .imulhI f => some (intsI false f (mulhOp f.subop))
  | .imad f => some (intsV 3 f madOp)
  | .imadI f => some (intsI true f madOp)
  | .imin f => some (intsV 2 f (minMaxOp false f.subop))
  | .iminI f => some (intsI false f (minMaxOp false f.subop))
  | .imax f => some (intsV 2 f (minMaxOp true f.subop))
  | .imaxI f => some (intsI false f (minMaxOp true f.subop))
  | .iabs f => some (intsV 1 f (absOp f.subop))
  | .lea f => some ⟨f.h, 1, f.d, fun s w t off => plain (srcUnit s w false f.h.u 1 f.a t off +
      ((srcUnit s w false f.h.u 0 f.b t off 1).truncate 32).signExtend 64 * BitVec.ofNat 64 (leaScale f.subop.toNat))⟩
  | .leaI f => some ⟨f.h, 1, f.d, fun s w t off => plain (srcUnit s w false f.h.u 1 f.a t off +
      f.imm.signExtend 64 * BitVec.ofNat 64 (leaScale f.subop.toNat))⟩
  | .iand f => some (intsV 2 f fun _ l => arg l 0 &&& arg l 1)
  | .iandI f => some (intsI false f fun _ l => arg l 0 &&& arg l 1)
  | .ior f => some (intsV 2 f fun _ l => arg l 0 ||| arg l 1)
  | .iorI f => some (intsI false f fun _ l => arg l 0 ||| arg l 1)
  | .ixor f => some (intsV 2 f fun _ l => arg l 0 ^^^ arg l 1)
  | .ixorI f => some (intsI false f fun _ l => arg l 0 ^^^ arg l 1)
  | .inot f => some (intsV 1 f fun bits l => 2 ^ bits - 1 - arg l 0)
  | .lop3 tt7 f => some ⟨f.h, if f.h.u then 1 else 0, f.d, fun s w t off =>
      let fmt := if f.h.u then 1 else 0
      let tt := (if tt7 then 128 else 0) + f.subop.toNat * 16 + f.rnd.toNat * 4 + f.fmt.toNat
      mapElems (unitBits fmt) (unitBits fmt) (fun l => (lop3Op tt (unitBits fmt) l, 0))
        ([f.a, f.b, f.c].zipIdx.map fun x => srcUnit s w false f.h.u fmt x.1 t off x.2)⟩
  | .shl f => some (intsV 2 f shlOp)
  | .shlI f => some (intsI false f shlOp)
  | .shr f => some (intsV 2 f shrOp)
  | .shrI f => some (intsI false f shrOp)
  | .sar f => some (intsV 2 f sarOp)
  | .sarI f => some (intsI false f sarOp)
  | .rot f => some (intsV 2 f (rotOp f.subop))
  | .rotI f => some (intsI false f (rotOp f.subop))
  | .popc f => some (intsV 1 f popcOp)
  | .clz f => some (intsV 1 f clzOp)
  | .brev f => some (intsV 1 f brevOp)
  | .bfx f => some (intsV (if f.subop.getLsbD 1 then 3 else 2) f (bfxOp f.subop))
  | .bfxI f => some (intsI (f.subop.getLsbD 1) f (bfxOp f.subop))
  | .fadd f => some (elemsV true 2 f (bin fAdd f.rnd f.fmt.toNat))
  | .faddI f => some (elemsI true false f (bin fAdd f.rnd f.fmt.toNat))
  | .fsub f => some (elemsV true 2 f (bin fSub f.rnd f.fmt.toNat))
  | .fsubI f => some (elemsI true false f (bin fSub f.rnd f.fmt.toNat))
  | .fmul f => some (elemsV true 2 f (bin fMul f.rnd f.fmt.toNat))
  | .fmulI f => some (elemsI true false f (bin fMul f.rnd f.fmt.toNat))
  | .ffma f => some (elemsV true 3 f (ter fFma f.rnd f.fmt.toNat))
  | .ffmaI f => some (elemsI true true f (ter fFma f.rnd f.fmt.toNat))
  | .fmin f => some (elemsV true 2 f (minMaxF false f.fmt.toNat))
  | .fminI f => some (elemsI true false f (minMaxF false f.fmt.toNat))
  | .fmax f => some (elemsV true 2 f (minMaxF true f.fmt.toNat))
  | .fmaxI f => some (elemsI true false f (minMaxF true f.fmt.toNat))
  | .fmaxi f => some ⟨f.h, 1, f.d, fun s w t off => pairUnit s w true f t off⟩
  | .fmini f => some ⟨f.h, 1, f.d, fun s w t off => pairUnit s w false f t off⟩
  | .fcls f => some (elemsV true 1 f fun l => (fCls f.fmt.toNat (arg l 0), 0))
  | .frcp f => some (elemsV true 1 f (un fRcp f.rnd f.fmt.toNat))
  | .frsq f => some (elemsV true 1 f (un fRsq f.rnd f.fmt.toNat))
  | .fsqrt f => some (elemsV true 1 f (un fSqrt f.rnd f.fmt.toNat))
  | .fexp2 f => some (elemsV true 1 f (un fExp2 f.rnd f.fmt.toNat))
  | .flog2 f => some (elemsV true 1 f (un fLog2 f.rnd f.fmt.toNat))
  | .fsin f => some (elemsV true 1 f (un fSin f.rnd f.fmt.toNat))
  | .fcos f => some (elemsV true 1 f (un fCos f.rnd f.fmt.toNat))
  | .fdivs f => some (elemsV true 2 f (bin fDiv f.rnd f.fmt.toNat))
  | .xsel f => some ⟨f.h, f.fmt.toNat, f.d, fun s w t off =>
      let b := (srcUnit s w false false 0 f.b t off 1).toNat
      plain (if b < 32 ∧ bit w.st.live b = true then srcUnit s w false false f.fmt.toNat f.a b off (2 + t) else 0)⟩
  | .ball f => some ⟨f.h, 0, f.d, fun _ w _ _ => plain ((w.st.act f.h &&& w.st.p f.a.idx.toNat).zeroExtend 64)⟩
  | .matchX f => some ⟨f.h, f.fmt.toNat, f.d, fun s w t off =>
      let a (u : Nat) : DWord := srcUnit s w false false f.fmt.toNat f.a u off
      plain ((maskOf fun u => bit (w.st.act f.h) u && a u = a t).zeroExtend 64)⟩
  | .scan f => some ⟨f.h, f.fmt.toNat, f.d, fun s w t off =>
      let r := scanList f.subop.toNat f.fmt.toNat f.rnd.toNat none (laneVals s w f (w.st.act f.h) off)
      ((r.1[t]?).getD 0, r.2)⟩
  | .redx f => some ⟨f.h, f.fmt.toNat, f.d, fun s w _ off =>
      redTree f.subop.toNat f.fmt.toNat f.rnd.toNat (laneVals s w f (w.st.act f.h) off)⟩
  | _ => none
where
  /-- FMAXI and FMINI (R207): the value in the low register of a pair, the index in the high one. -/
  pairUnit (s : State) (w : Wave) (isMax : Bool) (f : FmtV) (t off : Nat) : DWord × FFlags :=
    let v (x : Src) (o slot : Nat) : Nat := (srcUnit s w true false f.fmt.toNat x t o slot).toNat
    let r := pairWin isMax f.fmt.toNat (v f.a off 0) (v f.a (off + 1) 0) (v f.b off 1) (v f.b (off + 1) 1)
    (BitVec.ofNat 64 (r.1 % 2 ^ 32 + r.2.1 % 2 ^ 32 * 2 ^ 32), r.2.2)

/-- The flags of a vector form: those of every unit in every active thread (R68). -/
def UnitForm.flags (e : UnitForm) (s : State) (w : Wave) (act : Word) : FFlags :=
  (unitOffs e.fmt e.d).foldl (fun a off => a ||| joinFlags act fun t => (e.val s w t off).2) 0

/-- An instruction that writes a predicate: the bit of each thread, and its flags (R200, R203, R208, R216). -/
structure PredForm where
  h : Hdr
  d : Nat
  val : State → Wave → Nat → Bool × FFlags

def predForm : Instr → Option PredForm
  | .iset f => some ⟨f.h, f.d.idx.toNat, fun s w t =>
      (relation f.subop.toNat (unitBits f.fmt.toNat) (srcUnit s w false false f.fmt.toNat f.a t 0).toNat
        (srcUnit s w false false f.fmt.toNat f.b t 0 1).toNat, 0)⟩
  | .isetI f => some ⟨f.h, f.d.idx.toNat, fun s w t =>
      let a := (srcUnit s w false false f.fmt.toNat f.a t 0).toNat
      let b := (immUnit false f.fmt.toNat f.imm).toNat
      (if f.xsub.getLsbD 0 then relation f.subop.toNat (unitBits f.fmt.toNat) b a
       else relation f.subop.toNat (unitBits f.fmt.toNat) a b, 0)⟩
  | .fset f => some ⟨f.h, f.d.idx.toNat, fun s w t =>
      fSet f.subop.toNat f.fmt.toNat (srcUnit s w true false f.fmt.toNat f.a t 0).toNat
        (srcUnit s w true false f.fmt.toNat f.b t 0 1).toNat⟩
  | .fsetI f => some ⟨f.h, f.d.idx.toNat, fun s w t =>
      let a := (srcUnit s w true false f.fmt.toNat f.a t 0).toNat
      let b := (immUnit true f.fmt.toNat f.imm).toNat
      if f.xsub.getLsbD 0 then fSet f.subop.toNat f.fmt.toNat b a else fSet f.subop.toNat f.fmt.toNat a b⟩
  | .pand f => some ⟨f.h, f.d.idx.toNat, fun _ w t => (bit (w.st.p f.a.idx.toNat) t && bit (w.st.p f.b.idx.toNat) t, 0)⟩
  | .por f => some ⟨f.h, f.d.idx.toNat, fun _ w t => (bit (w.st.p f.a.idx.toNat) t || bit (w.st.p f.b.idx.toNat) t, 0)⟩
  | .pxor f => some ⟨f.h, f.d.idx.toNat, fun _ w t => (bit (w.st.p f.a.idx.toNat) t != bit (w.st.p f.b.idx.toNat) t, 0)⟩
  | .pnot f => some ⟨f.h, f.d.idx.toNat, fun _ w t => (!bit (w.st.p f.a.idx.toNat) t, 0)⟩
  | .pmov f =>
    match f.subop.toNat with
    | 0 => some ⟨f.h, f.d.idx.toNat, fun _ w t => (bit (w.st.p f.a.idx.toNat) t, 0)⟩
    | 1 => some ⟨f.h, f.d.idx.toNat, fun s w t => (read32 s w f.a t ≠ 0, 0)⟩
    | 2 => some ⟨f.h, f.d.idx.toNat, fun s w t => (bit (read32 s w f.a t) t, 0)⟩
    | _ => none
  | .vote f => some ⟨f.h, f.d.idx.toNat, fun _ w _ =>
      let act := w.st.act f.h
      let p := w.st.p f.a.idx.toNat
      (match f.subop.toNat with
       | 0 => decide (∀ u ∈ threads act, bit p u = true)
       | 1 => decide (∃ u ∈ threads act, bit p u = true)
       | _ => decide ((∀ u ∈ threads act, bit p u = true) ∨ ∀ u ∈ threads act, bit p u = false), 0)⟩
  | _ => none

/-- An instruction that writes `n` consecutive registers in every active thread: the register's word, and the thread's flags
(R203, R210 to R215). -/
structure RunForm where
  h : Hdr
  d : Dst
  n : Nat
  val : State → Wave → Nat → Nat → Word
  flags : State → Wave → Nat → FFlags

def runForm : Instr → Option RunForm
  | .pmov f =>
    if f.subop = 3 then some ⟨f.h, f.d, 1, fun _ w t _ => if bit (w.st.p f.a.idx.toNat) t then 1 else 0, fun _ _ _ => 0⟩ else none
  | .cvt f =>
    if f.h.u then none
    else
      let r (s : State) (w : Wave) (t : Nat) : Nat × FFlags := cvtElem (cvtS f) (cvtD f) f.rnd.toNat (f.subop.getLsbD 2)
        (cvtTake (cvtS f) (f.subop.getLsbD 0) (srcUnit s w (cvtS f < 4) false (cvtFmt (cvtS f)) f.a t 0))
      some ⟨f.h, f.d, if cvtWidth (cvtD f) = 64 then 2 else 1,
        fun s w t j => ((cvtImage (cvtD f) (f.subop.getLsbD 1) false ((srcUnit s w false false 0 (dstSrc f.d) t 0 2).truncate 32)
          (r s w t).1) >>> (32 * j)).truncate 32,
        fun s w t => (r s w t).2⟩
  | .bpk f => some ⟨f.h, f.d, 4, fun s w t j => BitVec.ofNat 32
      (bpkBlock (f.subop.toNat + 2) (srcRegs s w false 0 f.a (packRegs f false) t) / 2 ^ (32 * j)), fun _ _ _ => 0⟩
  | .bupk f => some ⟨f.h, f.d, packRegs f false, fun s w t j => BitVec.ofNat 32
      (bupkBytes (f.subop.toNat + 2) (srcRegs s w false 0 f.a 4 t) / 2 ^ (32 * j)), fun _ _ _ => 0⟩
  | .sbpk f =>
    let r (s : State) (w : Wave) (t : Nat) : Nat × FFlags :=
      sbpkBlock (f.subop.toNat + 2) f.fmt.toNat f.rnd.toNat (packExp s w f t) (srcRegs s w true f.fmt.toNat f.a (packRegs f true) t)
    some ⟨f.h, f.d, 4, fun s w t j => BitVec.ofNat 32 ((r s w t).1 / 2 ^ (32 * j)), fun s w t => (r s w t).2⟩
  | .sbupk f =>
    let r (s : State) (w : Wave) (t : Nat) : Nat × FFlags :=
      sbupkElems (f.subop.toNat + 2) f.fmt.toNat f.rnd.toNat (packExp s w f t) (srcRegs s w false 0 f.a 4 t)
    some ⟨f.h, f.d, packRegs f true, fun s w t j => BitVec.ofNat 32 ((r s w t).1 / 2 ^ (32 * j)), fun s w t => (r s w t).2⟩
  | _ => none

/-- The threads that read a BFP block with a spare bit set (R215). -/
def spareThreads (s : State) (w : Wave) : Instr → List Nat
  | .bupk f | .sbupk f => (threads (w.st.act f.h)).filter fun t => bfpSpare (f.subop.toNat + 2) (srcRegs s w false 0 f.a 4 t)
  | _ => []

/-! Loads, queued instructions, status words. -/

/-- A load: its destination, its size code, the thread that a wave-level or U = 1 form reads for, if it acts, and the bytes that its access
answers for each thread, or the trap of the first thread that fails (R84, R85, R120, R124, R130). -/
structure LoadForm where
  h : Hdr
  d : Dst
  sz : Nat
  one : Option Nat
  answer : Except Fail (Nat → List Byte)

/-- The bytes of the answers of a list of accesses. -/
def answersOf (r : Except Fail (State × List (Nat × List Byte))) : Except Fail (Nat → List Byte) :=
  match r with
  | .error f => .error f
  | .ok (_, vals) => .ok (bytesOf vals)

/-- What each load accesses: LD by R130, LDC once for the wave by R133, LDP by its layout record (R136), LDL its private words
(R137), TLD a tile (R139). -/
def loadForm (s : State) (k : Nat) (w : Wave) : Instr → Option LoadForm
  | .ld f =>
    let sz := f.sub.toNat / 16
    let acq := f.sub.toNat / 2 % 4 = 1
    let n := accSize sz f.d
    let reqs := (lanesOf w f.h).map fun t => (t, addrOf s w f.h.u f t)
    some ⟨f.h, f.d, sz, (lanesOf w f.h).head?, match reqs.findSome? fun e => addrFail e.1 e.2 n (szUnit sz) with
      | some e => .error e
      | none => answersOf (checkedLoads s k w ⟨f.byp || acq, true, true, if acq then some f.scope.toNat else none⟩
          (reqs.map fun e => ⟨e.1, e.2.toNat, n⟩))⟩
  | .ldc f =>
    let sz := f.sub.toNat / 16
    let n := accSize sz f.d
    let t := lowestThread (w.st.act f.h)
    let a := addrOf s w true f t
    some ⟨f.h, f.d, sz, if waveActs w f.h then some t else none,
      if waveActs w f.h then
        match addrFail t a n (szUnit sz) with
        | some e => .error { e with thr := none }
        | none => match answersOf (loadLanes s s k w ⟨false, true, true, none⟩ [⟨t, a.toNat, n⟩]) with
          | .error e => .error { e with thr := none }
          | .ok v => .ok fun _ => v t
      else .ok fun _ => []⟩
  | .ldp f => some ⟨f.h, f.d, 5, (lanesOf w f.h).head?, match ldpLocate s w f (lanesOf w f.h) with
      | .error e => .error e
      | .ok (s1, els) =>
        match answersOf (checkedLoads s1 k w ⟨f.byp, true, true, none⟩ (els.filterMap fun e => match e.2 with
          | .at' va es _ => some ⟨e.1, va, es⟩
          | .pad .. => none)) with
        | .error e => .error e
        | .ok v => .ok fun t => match (els.find? fun e => e.1 = t).map Prod.snd with
          | none => []
          | some (.at' _ _ fmt) => widen fmt (v t)
          | some (.pad bs fmt) => widen fmt bs⟩
  | .ldl f => some ⟨f.h, f.d, 5, (lanesOf w f.h).head?, match privFail s w f with
      | some e => .error e
      | none => answersOf (checkedLoads s k w ⟨false, true, true, none⟩
          ((privWords s w f).map fun e => ⟨e.1, wordAddr s w e.1 e.2.2, 4⟩))⟩
  | .tld f => some ⟨f.h, f.d, 5, (lanesOf w f.h).head?, match tldAll s w f (lanesOf w f.h) with
      | .error e => .error e
      | .ok vals => .ok (bytesOf vals)⟩
  | _ => none

/-- Nothing stands in the way of a load but its own checks: the wave's core holds no private line, no sector, tile or register holds an
uncorrectable error, no write is still only sent, and the race detector of the context is off. -/
structure Calm (s : State) (w : Wave) : Prop where
  errs : s.errs = []
  poison : ∀ d, (s.die d).poison = []
  sent : s.sent = []
  priv : (s.core w.core).priv = []
  race : raceOn s w.ctx = false

/-- As `OnlyWave`, but for what is cached: sectors, translations, layout records. -/
structure OnlyCaches (k : Nat) (s t : State) : Prop where
  mem : t.mem = s.mem
  sent : t.sent = s.sent
  tiles : t.tiles = s.tiles
  vigils : t.vigils = s.vigils
  wakes : t.wakes = s.wakes
  blocks : ∀ b, (tget t.blocks b).map Block.still = (tget s.blocks b).map Block.still
  launches : ∀ l, (tget t.launches l).map Launch.still = (tget s.launches l).map Launch.still
  queues : t.queues = s.queues
  engops : t.engops = s.engops
  locks : t.locks = s.locks
  seals : t.seals = s.seals
  outbox : t.outbox = s.outbox
  waves : ∀ j, j ≠ k → t.wave j = s.wave j
  regs : ∀ c n, t.ctxReg c n = s.ctxReg c n
  astat : ∀ c, (tget t.ctxs c).map Ctx.astat = (tget s.ctxs c).map Ctx.astat

/-- What a queued instruction hands to its strand's boundary, with the operands that it reads at issue, and the sectors that it marks
(R58, R67, R126). -/
def queuedAs (s : State) (w : Wave) : Instr → Option (QOp × List Nat)
  | .swr f => some (.swr f.sysn.toNat (w.st.s f.a.idx.toNat) (w.st.s f.b.idx.toNat), [])
  | .patch f => some (.patch f.scope.toNat (w.st.s f.a.idx.toNat) (w.st.s f.b.idx.toNat) (w.st.s (f.b.idx.toNat + 1)), [])
  | .opcls f => some (.opcls (w.st.s f.a.idx.toNat) (w.st.s f.b.idx.toNat) f.d.idx.toNat, [])
  | .st f =>
    let n := accSize (f.sub.toNat / 16) f.d
    let ls : List LaneBytes := (lanesOf w f.h).map fun t => ⟨t, (addrOf s w f.h.u f t).toNat, storeData s w f.d t n⟩
    some (.store .st (f.sub.toNat / 2 % 4 = 1) f.scope.toNat ls, ls.flatMap fun l => sectorsOf l.va l.bytes.length)
  | .stp f =>
    let ls : List LaneCoord := (lanesOf w f.h).map fun t =>
      ⟨t, (read32 s w f.a t).toNat, coordsOf s w f t, storeData s w f.d t 64⟩
    some (.storeLayout ls, (stpMarks s w ls).2)
  | .stl f =>
    let ls : List LaneBytes := (privWords s w f).map fun e =>
      ⟨e.1, wordAddr s w e.1 e.2.2, ((storeData s w f.d e.1 64).drop (4 * e.2.1)).take 4⟩
    some (.store .stl false 0 ls, ls.flatMap fun l => sectorsOf l.va l.bytes.length)
  | .tst f => some (.tileStore f.t.toNat f.lvl.toNat ((lanesOf w f.h).map fun t =>
      (t, tileRow s w f t, tileCol s w f t, storeData s w f.d t (tileBytes f.d))), [])
  | .tfree f => some (.tileFree f.t.toNat f.lvl.toNat, [])
  | .layset f =>
    let h := (read32w s w f.a).toNat
    some (.laySet h ((List.range 6).flatMap fun i => leBytes 8 (w.st.s (f.d.idx.toNat + i)).toNat), match layAddr s w.ctx h with
      | .error _ => []
      | .ok va => sectorsOf va 48)
  | .seal f => some (.sealRange (w.st.s f.a.idx.toNat).toNat (read64w s w f.b).toNat f.d f.h.u, [])
  | .unseal f => some (.unsealRange (w.st.s f.a.idx.toNat).toNat (read64w s w f.b).toNat f.d f.h.u, [])
  | .bulk f => some (.bulk (read32w s w f.a).toNat f.scope.toNat (scalars w f.d.idx.toNat 6) (scalars w f.b.idx.toNat 2), [])
  | .bcopy f => some (.bcopy (read32w s w f.a).toNat f.t.toNat f.lvl.toNat f.scope.toNat (f.sub.getLsbD 0) (w.st.s f.d.idx.toNat)
      (scalars w f.b.idx.toNat 3), [])
  | .kick f => some (.kick f.t.toNat f.lvl.toNat (read32w s w f.a).toNat (read32w s w f.b).toNat, [])
  | .spawn f => some (.spawn (w.st.s f.a.idx.toNat) ((threads (w.st.act f.h)).map fun t =>
      (t, (List.range f.imm.toNat).map fun j => (srcUnit s w false false 0 f.b t j 1).truncate 32)), [])
  | .launch f => some (.launch (w.st.s f.a.idx.toNat).toNat (read32w s w f.b).toNat f.scope.toNat f.d.idx.toNat, [])
  | .mbeg _ => some (.mbeg, [])
  | .mend _ => some (.mend, [])
  | .mma f => some (.mma (mmaOp s w f) w.st.chain w.st.chainOrd, [])
  | .mzero f => some (.mzero f.tc.toNat w.st.chain, [])
  | .mwr f => some (.mwr f.tc.toNat (rowBlock f) (colGroup f) f.fc.toNat (rowRegs s w f.a (mrdRegs f.fc)) w.st.chain, [])
  | .mscl f => some (.mscl f.tc.toNat (rowBlock f) f.fc.toNat f.rnd.toNat (mscls s w f) w.st.chain, [])
  | .wake f => some (.wake (w.st.s f.a.idx.toNat + f.ofs.signExtend 64).toNat (read32w s w f.b).toNat f.scope.toNat, [])
  | .wakeq f =>
    let va := (w.st.s f.a.idx.toNat + f.ofs.signExtend 64).toNat
    let wide := f.sub.getLsbD 3
    some (.wakeq va (w.st.s f.b.idx.toNat) wide ((w.st.s (f.b.idx.toNat + 1)).toNat % 2 ^ 32) f.scope.toNat,
      sectorsOf va (if wide then 8 else 4))
  | .arv f =>
    let ref := w.st.s f.a.idx.toNat
    some (.arv ref (read32w s w f.b) f.scope.toNat f.d.idx.toNat f.sub.toNat, barMarks s w ref)
  | .binit f =>
    let ref := w.st.s f.a.idx.toNat
    some (.binit ref (read32w s w f.b).toNat, barMarks s w ref)
  | .atom f => atomic s w 0 f
  | .red f => atomic s w 1 f
  | .redd f => atomic s w 2 f
  | .dtok _ => some (.dtok, [])
  | .fence f => some (.fence (f.sub.toNat % 4) f.scope.toNat, [])
  | _ => none
where
  /-- ATOM, RED and REDD (R297): for `.cas` the compare value stands first. -/
  atomic (s : State) (w : Wave) (which : Nat) (f : FmtM) : Option (QOp × List Nat) :=
    let n := atomBytes (atomCode f) f.byp (atomW64 f)
    let cas := atomCode f = 9
    let va (t : Nat) : Nat := (readBase s w f.a t + atomOfs f).toNat
    some (.atomic which (atomCode f) f.byp (atomW64 f) (f.ofs.toNat % 4) f.scope.toNat (atomOrd f) f.d f.h.u
      ((lanesOf w f.h).map fun t => ⟨t, va t, atomData s w f t (if cas then 1 else 0), if cas then atomData s w f t 0 else 0⟩),
      (lanesOf w f.h).flatMap fun t => sectorsOf (va t) n)

/-- Why a queued instruction traps at its issue, its decoding and privilege apart (R85, R125, R137, R165, R244, R254, R265, R268,
R296, R300, R360). -/
def queueFail (s : State) (w : Wave) : Instr → Option Fail
  | .st f => (lanesOf w f.h).findSome? fun t =>
      addrFail t (addrOf s w f.h.u f t) (accSize (f.sub.toNat / 16) f.d) (szUnit (f.sub.toNat / 16))
  | .stl f => privFail s w f
  | .arv f => taperFail w f.h 3
  | .spawn f => taperFail w f.h 4
  | .launch f =>
    let va := w.st.s f.a.idx.toNat
    if w.st.act f.h ≠ 0 ∧ va.toNat % 192 ≠ 0 then some ⟨4, 1, none, some va⟩ else none
  | .mbeg _ => if w.st.chain then some ⟨17, 1, none, none⟩ else none
  | .mend _ => if w.st.chain then none else some ⟨17, 2, none, none⟩
  | .mma f =>
    if gangSize w.st > 1 ∧ f.bT = false then some ⟨17, 5, none, none⟩
    else (mmaSpare (mmaOp s w f)).map fun t => ⟨16, 1, some t, none⟩
  | .wake f => word w f 4
  | .wakeq f => word w f (if f.sub.getLsbD 3 then 8 else 4)
  | .atom f => if s.isDet w then some ⟨20, 2, none, none⟩ else atomic s w f
  | .red f => if s.isDet w then some ⟨20, 2, none, none⟩ else atomic s w f
  | .redd f => atomic s w f
  | _ => none
where
  word (w : Wave) (f : FmtM) (n : Nat) : Option Fail :=
    let a := w.st.s f.a.idx.toNat + f.ofs.signExtend 64
    if w.st.act f.h = 0 then none
    else if a.toNat ≥ vlim ∨ a.toNat + n - 1 ≥ vlim then some ⟨3, 1, none, some a⟩
    else if a.toNat % n ≠ 0 then some ⟨4, 1, none, some a⟩ else none
  atomic (s : State) (w : Wave) (f : FmtM) : Option Fail :=
    let n := atomBytes (atomCode f) f.byp (atomW64 f)
    (lanesOf w f.h).findSome? fun t => addrFail t (readBase s w f.a t + atomOfs f) n n

/-- Bit CHAIN of a wave after a queued instruction has issued (R265). -/
def chainAfter (w : Wave) : Instr → Bool × Bool
  | .mbeg f => (true, f.sub.getLsbD 0)
  | .mend _ => (false, false)
  | _ => (w.st.chain, w.st.chainOrd)

/-- The system registers that every read answers from the machine's own fields (R371), DCYC apart. -/
def sysValue (s : State) (w : Wave) (n : Nat) : DWord :=
  if n = 0x02 then BitVec.ofNat 64 (s.die (dieOfCore w.core)).usec
  else if n = 0x08 then (if w.st.pl1 then 1 else 0)
  else if n = 0x20 then w.st.fpstat.zeroExtend 64
  else if n = 0x21 then (((tget s.ctxs w.ctx).map Ctx.astat).getD 0).zeroExtend 64
  else if n = 0x30 then w.ecause
  else if n = 0x31 then w.epc
  else if n = 0x32 then w.eres
  else if n = 0x33 then w.eaddr
  else if n < 0x100 then s.ctxReg w.ctx n
  else match w.frame with
    | none => 0
    | some fr => if n ≤ 0x13F then fr.s (n - 0x100) else if n ≤ 0x147 then (fr.p (n - 0x140)).zeroExtend 64 else fr.fpstat.zeroExtend 64

/-- Part `j` of a 64-bit status in a block of registers: the low word, the high word, then zero (R142, R168). -/
def statusPart (v : DWord) (j : Nat) : Word := if j = 0 then v.truncate 32 else if j = 1 then (v >>> 32).truncate 32 else 0

/-- The fields of the word that LUMQ reads with qualifier `sel` (R426). GUT can be 1 only where the fillers still have something to bring the
draw to, and is else a free choice (log 16). -/
def LumIs (s : State) (w : Wave) (sel v : Nat) : Prop :=
  ∀ c q d, c = s.core w.core → q = s.quad (quadOfCore w.core) → d = s.die (dieOfCore w.core) →
    (sel = 0 → bitsOf v 15 0 = c.lumens % 2 ^ 16 ∧ bitsOf v 31 16 = c.refill % 2 ^ 16 ∧ bitsOf v 39 32 = 8 ∧
      (∀ j, j < 4 → (bitsOf v (40 + j) (40 + j) = 1 ↔ ∃ i ∈ c.reserved, i % 4 = j)) ∧ bitsOf v 63 44 = 0) ∧
    (sel = 1 → bitsOf v 15 0 = d.share % 2 ^ 16 ∧ bitsOf v 31 16 = d.passout % 2 ^ 16 ∧ bitsOf v 47 32 = d.passin % 2 ^ 16 ∧
      bitsOf v 63 48 = 0) ∧
    (sel = 2 → bitsOf v 23 0 = q.draw % 2 ^ 24 ∧ (bitsOf v 24 24 = 1 → q.used < q.draw - peakEighth q.cls) ∧
      (bitsOf v 25 25 = 1 ↔ q.chg ≠ 0) ∧ bitsOf v 28 26 = q.cls % 8 ∧ bitsOf v 31 29 = q.vceil % 8 ∧ bitsOf v 34 32 = q.vfloor % 8 ∧
      bitsOf v 63 35 = 0) ∧
    (sel = 3 → v = ((tget s.ctxs w.ctx).map Ctx.energy).getD 0 / energyUnit % 2 ^ 64) ∧
    (sel = 4 → v = ((tget s.ctxs w.ctx).map Ctx.gutter).getD 0 / energyUnit % 2 ^ 64)

/-- The word that MONRD reads (R427, R437): the side's stall word, or the word of a capture unit of the wave's die that is configured for the
wave's context; a unit that no command has configured is as at reset. -/
def MonIs (s : State) (w : Wave) (cap : Bool) (a v : Nat) : Prop :=
  (cap = false → v = (s.side w.side).stall.toNat) ∧
  (cap = true → a ≥ 2 ^ 10 ∨ bitsOf a 7 6 ≠ 0 → v = 0) ∧
  ∀ c, cap = true → a < 2 ^ 10 → bitsOf a 7 6 = 0 → c = (tget (s.die (dieOfCore w.core)).capture (a % 64)).getD Capture.reset →
    (c.ctx ≠ w.ctx → v = 0) ∧
    (c.ctx = w.ctx → a / 256 = 0 → bitsOf v 31 0 = c.mn % 2 ^ 32 ∧ bitsOf v 63 32 = c.mx % 2 ^ 32) ∧
    (c.ctx = w.ctx → a / 256 ≠ 0 → c.bins.length = 16 → (∀ x ∈ c.bins, x < 4096) → v < 2 ^ 64 ∧
      ∀ b i, b < 16 → i < 12 → 64 * (a / 256 - 1) ≤ 12 * b + i → 12 * b + i < 64 * (a / 256) →
        (v / 2 ^ (12 * b + i - 64 * (a / 256 - 1)) % 2 = 1 ↔ ((c.bins[b]?).getD 0) / 2 ^ i % 2 = 1))

/-- The fields of a tile-table entry (R106); CORES names the cores that hold rows, row r standing on the (r mod n)-th of them (R107). -/
structure TileEntryIs (x : Tile) (v : Nat) : Prop where
  valid : bitsOf v 63 63 = 1
  lvl : bitsOf v 62 61 = x.lvl % 4
  ew : bitsOf v 60 58 = x.ew % 8
  rows : bitsOf v 57 48 = (x.rows - 1) % 1024
  cols : bitsOf v 47 38 = (x.cols - 1) % 1024
  cores : ∀ i, i < 4 → (bitsOf v (34 + i) (34 + i) = 1 ↔ ∃ c ∈ x.cores.take x.rows, c % 4 = i)
  bd : bitsOf v 33 33 = 1 ↔ x.bd ≠ 0
  bs : bitsOf v 32 32 = 1 ↔ x.bs ≠ 0
  bytes : bitsOf v 31 0 = x.bytes % 2 ^ 32

/-- A capture unit `c'` is `c` with one more sample (R437): its minimum and maximum take it, and the bin of the shifted sample counts it, up to
4,095; bin 0 is that of 0, bin b of [2^(b-1), 2^b) for b = 1 to 14, bin 15 of every larger value. -/
structure Sampled (c c' : Capture) (v : Nat) : Prop where
  mn : c'.mn = min c.mn v
  mx : c'.mx = max c.mx v
  rest : c' = { c with mn := c'.mn, mx := c'.mx, bins := c'.bins }
  bins : ∀ b x, b < 16 → x = v / 2 ^ c.shift → (c'.bins[b]?).getD 0 =
    if (b = 0 ∧ x = 0) ∨ (0 < b ∧ b < 15 ∧ 2 ^ (b - 1) ≤ x ∧ x < 2 ^ b) ∨ (b = 15 ∧ 2 ^ 14 ≤ x)
    then min 4095 ((c.bins[b]?).getD 0 + 1) else (c.bins[b]?).getD 0

/-- An event of a source on a die: its enabled units take the sample, and no other unit of the die changes (R437). -/
def SampledBy (d src v : Nat) (s t : State) : Prop :=
  ∀ u c, tget (s.die d).capture u = some c → ∃ c', tget (t.die d).capture u = some c' ∧
    (c.en = true → c.src = src → Sampled c c' (v % 2 ^ 32)) ∧ (c.en = false ∨ c.src ≠ src → c' = c)

/-- A queue is a candidate for a quad (R340, R342, R372, R374): enabled, or disabled with a launch that is to run to completion; not
stopped; of a context that is not halted; with runnable work; the quad in its PMASK. -/
structure Candidate (s : State) (q b : Nat) (x : Queue) : Prop where
  listed : tget s.queues b = some x
  enabled : qdEn x.desc = true ∨ x.running.isSome = true
  going : qdStop x.desc = false
  context : ctxRuns s (qdCtx x.desc) = true
  work : runnable s x = true
  quad : qdPmask x.desc / 2 ^ q % 2 = 1

/-- The order of candidates (R340): the higher PRIO, then the least virtual time, then the lower number. -/
def Precedes (b : Nat) (x : Queue) (c : Nat) (y : Queue) : Prop :=
  qdPrio y.desc < qdPrio x.desc ∨ qdPrio x.desc = qdPrio y.desc ∧ (x.vt < y.vt ∨ x.vt = y.vt ∧ b < c)

/-- A quad taken from queue `h` for queue `b` (R341, R343): the resident blocks of `h` on it are written out, or stranded where that failed. -/
structure TakenFrom (s t : State) (q h b : Nat) : Prop where
  grant : (t.quad q).grant = some b ∧ (t.quad q).grantUs = s.hubUs
  blocks : ∀ n x, tget s.blocks n = some x → x.queue = h → x.status = .resident → quadOfCore x.core = q → (tget s.ctxs x.ctx).isSome = true →
    ∃ y, tget t.blocks n = some y ∧ (y.status = .swapped ∨ y.status = .stranded ∧ y.strandAs = .swapped)

/-- A wave born by launch (R338): wave `wid` of block `b` on a core, at ENTRY with SVM 0 and PL 0, its arguments, zeros and SEED, its live threads
all on its path (R336), far registers that read 0, near and wick registers that hold nothing, its frame (R339); lit, or waiting for a lit
slot. -/
structure BornByLaunch (s : State) (la : Launch) (b core wid : Nat) (frame : Option Nat) (w : Wave) : Prop where
  place : w.ctx = la.ctx ∧ w.block = b ∧ w.wid = wid ∧ w.isBin = false ∧ w.core = core
  start : w.st.pc = BitVec.ofNat 64 la.entry ∧ w.st.svm = 0 ∧ w.st.pl1 = false ∧ w.frame = none
  scalars : ∀ i, w.st.s i = if i < 12 then la.arg i else 0
  preds : ∀ i, i ≠ 0 → w.st.p i = 0
  zeros : w.st.fpstat = 0 ∧ w.st.gmask = 0 ∧ w.st.gseq = 0 ∧ ∀ n, w.st.draws n = 0
  seed : w.st.seed = la.seed
  live : w.st.live = if wid + 1 = la.bdim then maskOf (fun n => n < la.tlast) else BitVec.allOnes 32
  path : w.st.exec = w.st.live ∧ w.st.dstack = [] ∧ w.st.rstack = [] ∧ w.st.chain = false
  head : w.head = w.st
  far : w.farRegs = la.farRegs ∧ w.absent = [] ∧ ∀ i n, w.reg s 2 i n = 0
  held : w.near = [] ∧ w.wick = [] ∧ w.bank = [] ∧ w.queue = [] ∧ w.residual = [] ∧ w.be = none ∧ w.vpend = none
  counts : w.redd = 0 ∧ w.bulkSeq = 0 ∧ w.spawnSeq = 0 ∧ w.dtok = false
  frameNo : w.frameNo = frame ∧ w.pwlim = if frame.isSome then la.pwlim else 0
  ready : (w.lit = true ∧ w.wait = .none) ∨ (w.lit = false ∧ w.wait = .parked)

/-- Cluster `c` of launch `l` admitted to quad `q` (R336, R347, R376): cluster (cx, cy, cz) of a grid of X by Y clusters has the number
(cz × Y + cy) × X + cx, and each of its blocks has a core of its own, with the launch's split and room for all its waves, and a slot of its own
that was not in use. Where the context still runs, the block is resident, its waves have been born, no others have, and nothing that was there
changes. -/
def AdmittedTo (s t : State) (l : Nat) (la : Launch) (c q : Nat) (fr slots : List Nat) : Prop :=
  slots.Nodup ∧ (∀ x, tget s.ctxs la.ctx = some x → ∀ n ∈ slots, n < x.bslots ∧ n ∉ x.slots) ∧
  (tget t.ctxs la.ctx).map Ctx.slots = (tget s.ctxs la.ctx).map (fun x => x.slots ++ slots) ∧
  ∃ cores : List Nat, cores.Nodup ∧
    (∀ core ∈ cores, core / 4 = q ∧ splitOf (s.core core) = la.split ∧ hasRoom s core la.bdim la.farRegs = true ∧ strandedOn s core = false) ∧
    (∀ cx cy cz i j k n, cx < la.gdx / la.clx → cy < la.gdy / la.cly → c = (cz * (la.gdy / la.cly) + cy) * (la.gdx / la.clx) + cx →
      i < la.clx → j < la.cly → k < la.clz → n = (k * la.cly + j) * la.clx + i →
      ∃ b y, tget s.blocks b = none ∧ tget t.blocks b = some y ∧ y.ctx = la.ctx ∧ y.launch = l ∧ y.queue = la.queue ∧ y.cluster = c ∧
        y.inCluster = n ∧ y.bx = cx * la.clx + i ∧ y.byy = cy * la.cly + j ∧ y.bz = cz * la.clz + k ∧
        y.linear = (y.bz * la.gdy + y.byy) * la.gdx + y.bx ∧ cores[n]? = some y.core ∧ slots[n]? = some y.slot ∧
        (ctxRuns t la.ctx = true → y.status = .resident ∧
          ∀ wid, wid < la.bdim → ∃ k w, s.wave k = none ∧ t.wave k = some w ∧ BornByLaunch t la b y.core wid (fr[n * la.bdim + wid]?) w)) ∧
    (ctxRuns t la.ctx = true →
      (∀ k w, s.wave k = some w → t.wave k = some w) ∧ (∀ b x, tget s.blocks b = some x → tget t.blocks b = some x) ∧
      ∀ k w, s.wave k = none → t.wave k = some w → w.wid < la.bdim ∧ tget s.blocks w.block = none)

/-- No contribution of the wave's launch waits in token order (R402): its launch is not deterministic, or keeps no such order. -/
def Tokenless (s : State) (w : Wave) : Prop :=
  ∀ x la, tget s.blocks w.block = some x → tget s.launches x.launch = some la → la.det = false ∨ la.dord = true

/-- A command of a code that the module takes and does not refuse by its form or mode (R430, R433, R435): in minimal mode only INFO, ATTEST,
FWLOAD and RESET. -/
structure Commanded (s : State) (m : Msg) (code : Nat) : Prop where
  taken : taken s m = true
  typ : m.typ = 4
  cmd : m.cmd.toNat = code
  len : m.len = 0
  mode : s.minimal = true → code ∈ [1, 0x0B, 0x0C, 0x0D]

/-- A wave in a boundary that waits, with one queued entry and a STRAND pending, its block running, none of the entry's far granules
absent. -/
structure WaitsAt (s : State) (k : Nat) (w : Wave) (e : QEntry) (f : FmtC) (pc : DWord) : Prop where
  wave : s.wave k = some w
  waits : boundaryWaits w = true
  runs : s.blockRuns w.block = true
  entry : w.residual = [e]
  pending : w.be = some (.strand f, pc)
  granules : absentOf w e.dsts = []

/-- The parts of the machine that a step about one wave or block leaves to the others: every byte of memory, every other wave. -/
def KeepsOthers (k : Nat) (s t : State) : Prop := t.mem = s.mem ∧ ∀ j, j ≠ k → t.wave j = s.wave j

/-- The wave as a boundary with nothing queued leaves it, before its own effect (R175, R176). -/
def Wave.bounded (w : Wave) : Wave :=
  ({ w.newHead w.st.svm (w.st.pc + 12) with residual := [], queue := [], be := none, parity := 0, wait := .none } : Wave).afterBoundary

/-- The compare codes of a VIGIL (R276) on a word, its operand and its mask, in two's complement. -/
def CompareHolds {n : Nat} (cmp : Nat) (x v m : BitVec n) : Prop :=
  match cmp with
  | 0 => x = v
  | 1 => x ≠ v
  | 2 => x < v
  | 3 => v ≤ x
  | 4 => x.slt v = true
  | 5 => v.sle x = true
  | 6 => x &&& m = v &&& m
  | _ => x &&& m ≠ v &&& m

/-- Bytes of one sector on a page of the plain kind: they translate for an access of the wave's load-store unit to a place on an SO page that is
not private, and no seal or range lock stands in the way. -/
structure PlainAt (s : State) (w : Wave) (acc : Acc) (va n : Nat) (p : Place) : Prop where
  sector : 0 < n ∧ va % 48 + n ≤ 48
  place : xlate s (.lsu w.core) w.ctx va acc = .ok p
  ordered : pteOrd p.pte = 0
  shared : ptePriv p.pte = false
  unsealed : sealedBy s w.ctx va n = false
  locks : s.locks = []

/-- Memory after some bytes were written at a physical address, and nothing else. -/
def Stored (s t : State) (pa : Nat) (bs : List Byte) : Prop :=
  (∀ i, i < bs.length → some (memByte t.mem (pa + i)) = bs[i]?) ∧
  ∀ a, a < pa ∨ pa + bs.length ≤ a → memByte t.mem a = memByte s.mem a

/-! Engine operations as they are accepted. -/

/-- The barrier reference that a 64-bit value of a block names (R149); a malformed one names none. -/
def BarRefIs (s : State) (blk r : Nat) (b : BarRef) : Prop :=
  bitsOf r 61 57 = 0 ∧
  ((bitsOf r 63 62 = 0 ∧ bitsOf r 56 0 = 0 ∧ b = .none) ∨
   (bitsOf r 63 62 = 1 ∧ bitsOf r 56 0 % 16 = 0 ∧ b = .mem (bitsOf r 56 0)) ∨
   (bitsOf r 63 62 = 2 ∧ bitsOf r 56 24 = 0 ∧ b = .tile (bitsOf r 23 16) (bitsOf r 15 0) ∧
     ∃ id x, findTile s blk (bitsOf r 23 16) = some (id, x) ∧ x.lvl ≤ 1 ∧ x.ew = 4 ∧ bitsOf r 15 0 < x.rows * x.cols))

/-- An endpoint of a request record as a place (R155): wholly canonical memory, or a tile of the level that it names with room for the bytes. -/
def EndpointIs (s : State) (blk : Nat) (tile : Prop) (e len : Nat) (p : EndPt) : Prop :=
  (¬tile ∧ e + max len 1 ≤ 2 ^ 57 ∧ p = .mem e) ∨
  (tile ∧ bitsOf e 55 54 < 2 ∧ ∃ id x, findTile s blk (bitsOf e 63 56) = some (id, x) ∧ x.lvl = bitsOf e 55 54 ∧
    bitsOf e 31 0 + len ≤ x.rows * x.cols * ewBytes x.ew ∧ p = .tile id (bitsOf e 31 0))

/-- Two endpoints share a byte. -/
def EndsMeet (p q : EndPt) (len : Nat) : Prop :=
  (∃ x y, p = .mem x ∧ q = .mem y ∧ x < y + len ∧ y < x + len) ∨
  ∃ n x y, p = .tile n x ∧ q = .tile n y ∧ x < y + len ∧ y < x + len

/-- A request record meets the condition of a sub-cause (R155, R158). -/
def RecordMeets (s : State) (w : Wave) (r sub : Nat) : Prop :=
  ∀ kind len : Nat, kind = bitsOf r 227 224 → len = bitsOf r 223 192 →
    match sub with
    | 1 => ∀ b, ¬BarRefIs s w.block (bitsOf r 191 128) b
    | 3 => kind > 3 ∨ len > 16777216 ∨ (∀ p, ¬EndpointIs s w.block (kind = 2 ∨ kind = 3) (bitsOf r 63 0) len p) ∨
        (∀ p, ¬EndpointIs s w.block (kind = 1 ∨ kind = 3) (bitsOf r 127 64) len p) ∨
        ∃ p q, EndpointIs s w.block (kind = 2 ∨ kind = 3) (bitsOf r 63 0) len p ∧
          EndpointIs s w.block (kind = 1 ∨ kind = 3) (bitsOf r 127 64) len q ∧ EndsMeet p q len
    | 5 => bitsOf r 383 231 ≠ 0 ∨ bitsOf r 230 228 < 2 ∨ ((kind = 2 ∨ kind = 3) ∧ bitsOf r 53 32 ≠ 0) ∨
        ((kind = 1 ∨ kind = 3) ∧ bitsOf r 117 96 ≠ 0)
    | _ => False

/-- A record fails with the lowest sub-cause that it meets, or, where it meets none, as its barrier's page does (R152, R157, R158). -/
def RecordFails (s : State) (w : Wave) (r : Nat) (f : Fail) : Prop :=
  (∃ sub, RecordMeets s w r sub ∧ (∀ m, RecordMeets s w r m → sub ≤ m) ∧ f = ⟨13, sub, none, none⟩) ∨
  ((∀ m, ¬RecordMeets s w r m) ∧ ∃ b, BarRefIs s w.block (bitsOf r 191 128) b ∧ barPlace s (.core w.core) w.ctx w.block b = .error f)

/-- A record that passes every check, and what it says (R155). -/
def RecordIs (s : State) (w : Wave) (r : Nat) (x : Rec) : Prop :=
  (∀ m, ¬RecordMeets s w r m) ∧ x.len = bitsOf r 223 192 ∧ x.scope = bitsOf r 230 228 ∧
  EndpointIs s w.block (bitsOf r 227 224 = 2 ∨ bitsOf r 227 224 = 3) (bitsOf r 63 0) x.len x.src ∧
  EndpointIs s w.block (bitsOf r 227 224 = 1 ∨ bitsOf r 227 224 = 3) (bitsOf r 127 64) x.len x.dst ∧
  BarRefIs s w.block (bitsOf r 191 128) x.bar ∧ ∃ l, barPlace s (.core w.core) w.ctx w.block x.bar = .ok l

/-- The dies whose lock tables an operation of a core uses (R116): its own, or with a scope wider than `.die` every compute die's. -/
def LockTable (core scope d : Nat) : Prop := if scope ≤ 4 then d = dieOfCore core else d < 4

/-- An operation can be accepted (R116, R150): room in the engine queue and in its lock tables, no conflicting lock, no conflicting tile bit. -/
structure Acceptable (s : State) (ctx core scope : Nat) (x : Want) : Prop where
  room : ((tvals s.engops).filter fun o => o.core = core && !o.suspended).length < 64
  table : ∀ d, LockTable core scope d → x.src ++ x.dst = [] ∨
    (s.locks.filter fun l => l.dies.contains d).length + (x.src.length + x.dst.length) ≤ 256
  locks : ∀ l ∈ s.locks, ∀ r d, l.ctx = ctx → d ∈ l.dies → LockTable core scope d → l.lo ≤ r.2 / 48 → r.1 / 48 ≤ l.hi →
    (r ∈ x.src → l.dst = false) ∧ r ∉ x.dst
  tiles : ∀ n y, tget s.tiles n = some y → (n ∈ x.tsrc ∨ n ∈ x.tdst → y.bd = 0) ∧ (n ∈ x.tdst → y.bs = 0)

/-- An operation of a wave accepted (R116, R150): its entry in the engine queue, its range locks, its tile bits. -/
structure Accepted (s t : State) (w : Wave) (kind : EngKind) (scope : Nat) (bar : BarRef) (total : Nat) (x : Want) : Prop where
  mem : t.mem = s.mem
  tiles : ∀ n, tget t.tiles n = (tget s.tiles n).map fun y => { y with bd := y.bd + x.tdst.count n, bs := y.bs + x.tsrc.count n }
  entry : ∃ id o dies, tget s.engops id = none ∧ tget t.engops id = some o ∧ (∀ j, j ≠ id → tget t.engops j = tget s.engops j) ∧
    o = { o with
      kind := kind, ctx := w.ctx, block := w.block, core := w.core, scope := scope, bar := bar, items := [], readsDone := false
      total := total, counted := 0, lost := false, failed := false, suspended := false } ∧ (∀ d, d ∈ dies ↔ LockTable w.core scope d) ∧
    ∀ l, l ∈ t.locks ↔ l ∈ s.locks ∨ (∃ r ∈ x.src, l = ⟨id, w.ctx, dies, r.1 / 48, r.2 / 48, false⟩) ∨
      ∃ r ∈ x.dst, l = ⟨id, w.ctx, dies, r.1 / 48, r.2 / 48, true⟩

/-- The bytes of an end of a record that are memory, as one range, and its tile. -/
def endRange (p : EndPt) (len : Nat) : List (Nat × Nat) := match p with
  | .mem a => [(a, a + len - 1)]
  | .tile .. => []

def endTile (p : EndPt) : List Nat := match p with
  | .mem _ => []
  | .tile n _ => [n]

/-- `l` is the hull of some elements of `es` bytes (R159, R161): one range from the lowest of their bytes to the highest, or none. What lies below
address 0 is no byte of memory. -/
def HullOf (l : List (Nat × Nat)) (es : Nat) (In : Int → Prop) : Prop :=
  l.length ≤ 1 ∧ (∀ a b, In a → a ≤ b → b < a + es → 0 ≤ b → ∃ r ∈ l, (r.1 : Int) ≤ b ∧ b ≤ r.2) ∧
  ∀ r ∈ l, (∃ a, In a ∧ r.1 = a.toNat) ∧ ∃ a, In a ∧ (r.2 : Int) = a + es - 1

/-- A handler entry listed in the kernel descriptor of a wave's launch (R161, R334, R358). -/
def ListedEntry (s : State) (w : Wave) (e : Nat) : Prop :=
  ∃ x la, tget s.blocks w.block = some x ∧ tget s.launches x.launch = some la ∧ (la.handlerGranules e).isSome = true

/-! Matrix entries. -/

/-- A tile fits its role in a matrix step (R252): its level, its shape, the bytes of an element. -/
def RoleFits (y : Tile) (ma : Bool) (rows cols bytes : Nat) : Prop :=
  (ma = true ↔ y.lvl = 2) ∧ y.rows = rows ∧ y.cols = cols ∧ ewBytes y.ew = bytes

/-- The fault of a role's tile, as cause and sub-cause (R109, R252); an accumulator is never an engine's. -/
def RoleFails (s : State) (blk h : Nat) (ma : Bool) (rows cols bytes : Nat) (f : Nat × Nat) : Prop :=
  (findTile s blk h = none ∧ f = (7, 1)) ∨
  ∃ id y, findTile s blk h = some (id, y) ∧ ((¬RoleFits y ma rows cols bytes ∧ f = (17, 6)) ∨
    (RoleFits y ma rows cols bytes ∧ ma = false ∧ y.bd ≠ 0 ∧ f = (7, 4)))

def RoleOk (s : State) (blk h : Nat) (ma : Bool) (rows cols bytes : Nat) : Prop :=
  ∃ id y, findTile s blk h = some (id, y) ∧ RoleFits y ma rows cols bytes ∧ (ma = true ∨ y.bd = 0)

/-- The tiles of an MMA of a gang of `g` (R252, R268): the accumulator, then A, then B, then their soft errors (R365, R440), which is the model's
order (log 13). -/
def MmaFails (s : State) (blk g : Nat) (o : MmaOp) (f : Nat × Nat) : Prop :=
  RoleFails s blk o.tc true (32 * g) 32 (fcBytes o.fc) f ∨
  (RoleOk s blk o.tc true (32 * g) 32 (fcBytes o.fc) ∧
    ((o.aT = true ∧ RoleFails s blk o.aTile false (32 * g) (faDepth o.fa) (faBytes o.fa) f) ∨
     ((o.aT = true → RoleOk s blk o.aTile false (32 * g) (faDepth o.fa) (faBytes o.fa)) ∧
      ((o.bT = true ∧ RoleFails s blk o.bTile false (faDepth o.fa) 32 (faBytes o.fb) f) ∨
       ((o.bT = true → RoleOk s blk o.bTile false (faDepth o.fa) 32 (faBytes o.fb)) ∧ f = (26, 3) ∧
        ((o.aT = true ∧ ∃ x, findTile s blk o.aTile = some x ∧ tileBad s x.1 = true) ∨
         (o.bT = true ∧ ∃ x, findTile s blk o.bTile = some x ∧ tileBad s x.1 = true)))))))

def MmaOk (s : State) (blk g : Nat) (o : MmaOp) : Prop :=
  RoleOk s blk o.tc true (32 * g) 32 (fcBytes o.fc) ∧
  (o.aT = true → RoleOk s blk o.aTile false (32 * g) (faDepth o.fa) (faBytes o.fa) ∧ ∀ x, findTile s blk o.aTile = some x → tileBad s x.1 = false) ∧
  (o.bT = true → RoleOk s blk o.bTile false (faDepth o.fa) 32 (faBytes o.fb) ∧ ∀ x, findTile s blk o.bTile = some x → tileBad s x.1 = false)

/-- The fields on which the members of a joint step must agree (R256). -/
def Agree (a b : Arrival) : Prop :=
  a.op.tc = b.op.tc ∧ a.op.aT = b.op.aT ∧ a.op.bT = b.op.bT ∧ a.op.acc = b.op.acc ∧ a.op.fa = b.op.fa ∧ a.op.fb = b.op.fb ∧
  a.op.fc = b.op.fc ∧ a.op.rnd = b.op.rnd ∧ (a.op.aT = true → a.op.aTile = b.op.aTile) ∧ a.op.bTile = b.op.bTile ∧
  a.chain = b.chain ∧ a.ord = b.ord

/-- A step of some members handed to the end of a core's matrix queue (R257): nothing else of the machine but latches and the members' step
numbers changes. -/
structure StepQueued (s t : State) (w : Wave) (y : MStep) (inChain ordered : Bool) : Prop where
  steps : (t.core w.core).steps = (s.core w.core).steps ++ [y]
  fields : y.block = w.block ∧ y.inChain = inChain ∧ y.ordered = ordered ∧ y.behind = 0
  kept : t.mem = s.mem ∧ t.tiles = s.tiles ∧ t.vigils = s.vigils ∧ t.blocks = s.blocks

/-- What an entry of one wave alone does once its checks have passed (R257, R268): with the queue full it waits, else its step is queued; outside
a chain an entry that `awaits` its step waits on. -/
def StepEnters (s : State) (k : Nat) (w : Wave) (e : QEntry) (inChain ordered awaits : Bool) (r : Done) : Prop :=
  ((s.core w.core).steps.length ≥ 32 → r = .wait s none .boundary) ∧
  ((s.core w.core).steps.length < 32 → ∃ t y, r = (if inChain = false ∧ awaits = true then .wait t (some 1) .steps else .done t) ∧
    StepQueued s t w y inChain ordered ∧ t.waves = s.waves ∧ y.members = [k] ∧ y.handler = (if w.st.pl1 then [k] else []) ∧ y.op = e.op)

/-! Floating point, in the real numbers. -/

/-- The value of a finite encoding (R233); none for an infinity or a NaN. -/
def finValue (fmt x : Nat) : Option ℚ :=
  let p := fracBits fmt
  let e := x / 2 ^ p % 2 ^ expBits fmt
  let sign : ℚ := if x / 2 ^ (fwidth fmt - 1) % 2 = 1 then -1 else 1
  if e = 2 ^ expBits fmt - 1 then none
  else if e = 0 then some (sign * (2 : ℚ) ^ (1 - (fbias fmt : ℤ)) * ((x % 2 ^ p : Nat) / 2 ^ p))
  else some (sign * (2 : ℚ) ^ ((e : ℤ) - fbias fmt) * (1 + (x % 2 ^ p : Nat) / 2 ^ p))

/-- Whether an encoding is a NaN, and a signalling one (R233). -/
def isNaNOf (fmt x : Nat) : Prop := x / 2 ^ fracBits fmt % 2 ^ expBits fmt = 2 ^ expBits fmt - 1 ∧ x % 2 ^ fracBits fmt ≠ 0

def isSNaNOf (fmt x : Nat) : Prop := isNaNOf fmt x ∧ x / 2 ^ (fracBits fmt - 1) % 2 = 0

/-- The sign of an encoding. -/
def negOf (fmt x : Nat) : Bool := decide (x / 2 ^ (fwidth fmt - 1) % 2 = 1)

/-- The order of the encodings that are not NaNs (R206): by value, with -0 below +0. -/
def orderKey (fmt x : Nat) : ℤ := if negOf fmt x then (2 : ℤ) ^ (fwidth fmt - 1) - 1 - x else x

/-- FMAXI's and FMINI's order (R207): the pair `(b, ib)` wins over `(a, ia)` by the first rule that decides. Equal keys are equal
values, of one sign where they are zeros. -/
def PairBeats (isMax : Bool) (fmt a ia b ib : Nat) : Prop :=
  (isNaNOf fmt a ∧ ¬isNaNOf fmt b) ∨
  (¬isNaNOf fmt a ∧ ¬isNaNOf fmt b ∧
    (if isMax then orderKey fmt a < orderKey fmt b else orderKey fmt b < orderKey fmt a)) ∨
  (ib < ia ∧ ((isNaNOf fmt a ∧ isNaNOf fmt b) ∨
    (¬isNaNOf fmt a ∧ ¬isNaNOf fmt b ∧ orderKey fmt a = orderKey fmt b)))

/-- REDX's tree (R217): what thread `t` holds after the first `n` rounds, with the flags of the combinations under it. -/
def redSpec (code fmt rnd : Nat) (v : Nat → Option DWord) : Nat → Nat → Option DWord × FFlags
  | 0, t => (v t, 0)
  | n + 1, t =>
    let x := redSpec code fmt rnd v n t
    let y := redSpec code fmt rnd v n (t + 2 ^ n)
    let r := combineUnit code fmt rnd x.1 y.1
    (r.1, x.2 ||| y.2 ||| r.2)

/-- SCAN's accumulator after the terms of `l`, with the flags so far (R217). -/
def scanSpec (code fmt rnd : Nat) (l : List (Option DWord)) : Option DWord × FFlags :=
  l.foldl (fun acc x =>
    let r := combineUnit code fmt rnd acc.1 x
    (r.1, acc.2 ||| r.2)) (none, 0)

/-- `y` is `v` rounded, by the mode with the number `mode`, to a set of values (R236); of two equally near the even one. -/
def Nearest (mode : Nat) (In Even : ℝ → Prop) (v y : ℝ) : Prop :=
  In y ∧ match mode with
    | 0 => (∀ z, In z → |v - y| ≤ |v - z|) ∧ ((∃ z, In z ∧ z ≠ y ∧ |v - z| = |v - y|) → Even y)
    | 1 => |y| ≤ |v| ∧ 0 ≤ y * v ∧ ∀ z, In z → |z| ≤ |v| → 0 ≤ z * v → |z| ≤ |y|
    | 2 => v ≤ y ∧ ∀ z, In z → v ≤ z → y ≤ z
    | _ => y ≤ v ∧ ∀ z, In z → z ≤ v → z ≤ y

/-- The values of `p` fraction bits, as if the exponent range were unbounded. -/
def HasPrec (p : Nat) (y : ℝ) : Prop := ∃ n k : ℤ, |n| < 2 ^ (p + 1) ∧ y = n * (2 : ℝ) ^ k

/-- The finite values of a format, and those whose lowest fraction bit is 0. -/
def InFormat (fmt : Nat) (y : ℝ) : Prop := ∃ x q, finValue fmt x = some q ∧ y = q

def EvenInFormat (fmt : Nat) (y : ℝ) : Prop := ∃ x q, finValue fmt x = some q ∧ x % 2 = 0 ∧ y = q

/-- Rounding to an integer. -/
def NearestInt (mode : Nat) (v : ℝ) (n : ℤ) : Prop :=
  Nearest mode (fun y => ∃ m : ℤ, y = m) (fun y => ∃ m : ℤ, y = 2 * m) v n

/-- `r` is the encoding, and its flags, that Round delivers for the non-zero exact value `v` (R236, R237). A result below the smallest
normal value is rounded once, to the format's own values, which is the model's reading (log 7). -/
def Rounded (fmt mode : Nat) (v : ℝ) (r : Nat × FFlags) : Prop :=
  ∃ (y : ℝ) (top : ℚ), Nearest mode (HasPrec (fracBits fmt)) (HasPrec (fracBits fmt - 1)) v y ∧
    finValue fmt (maxBits fmt false) = some top ∧
    (|y| > top → ∀ neg, (neg = true ↔ v < 0) →
      r = (if mode = 0 ∨ (mode = 2 ∧ neg = false) ∨ (mode = 3 ∧ neg = true) then infBits fmt neg else maxBits fmt neg, flOF ||| flNX)) ∧
    (|y| ≤ top → ∃ d : ℚ, r.1 < 2 ^ fwidth fmt ∧ finValue fmt r.1 = some d ∧ Nearest mode (InFormat fmt) (EvenInFormat fmt) v d ∧
      (negOf fmt r.1 = true ↔ v < 0) ∧ ((d : ℝ) = v → r.2 = 0) ∧
      ((d : ℝ) ≠ v → |y| < (2 : ℝ) ^ (1 - (fbias fmt : ℤ)) → r.2 = flUF ||| flNX) ∧
      ((d : ℝ) ≠ v → (2 : ℝ) ^ (1 - (fbias fmt : ℤ)) ≤ |y| → r.2 = flNX))

end Machine
end Sys2Proof
end

