-- ==== Sys2Proof/WellFormed.lean ====
section
/-! DEFINITION. Well-formed instructions: those that pass every decode check of R65 in some wave. -/
namespace Sys2Proof

/-- An instruction word that no check of R65 refuses in a wave of 240 far registers at PL 0 (the widest wave that
R45 allows). The machine itself makes the same checks at issue under the issuing wave's own far count. -/
def WellFormed (i : Instr) : Bool := !i.isEvent && (Machine.illegalSub 240 false i).isNone

end Sys2Proof
end

