-- ==== Sys2Proof/Certificates/Slice0/Obligations.lean ====
section
/-! DEFINITION. The statements for the provers. Each docstring names the rule of the spec that it formalises, or says that it rests
on a choice of the model. -/

section
open Sys2Proof Sys2Proof.Machine

/-! Reset, encoding, step. -/

/-- After start-up (R346, R413, R414): every quad is in the pool of class 4, every core's refill is the floor of 8 lumens, every
die's share is 275 units. No wave, launch or block exists, and the only context is the management context. Which limits a quad
has is the model's choice (log 5), and nothing is said of it here. -/
def Obligations.ResetState : Prop :=
  (∀ q, (State.reset.quad q).cls = 4) ∧
  (∀ c, (State.reset.core c).refill = 8 ∧ (State.reset.core c).lumens = 0 ∧ (State.reset.core c).reserved = []) ∧
  (∀ d, (State.reset.die d).share = 275 ∧ (State.reset.die d).passin = 0 ∧ (State.reset.die d).passout = 0) ∧
  (∀ k, State.reset.wave k = none) ∧ State.reset.launches = [] ∧ State.reset.blocks = [] ∧
  (∀ c, (tget State.reset.ctxs c).isSome = true ↔ c = 4095)

/-- Memory is in canonical form at reset: keys rise and nothing is listed that an unlisted byte reads as (log 4). -/
def Obligations.ResetMemoryCanonical : Prop := Memory.wf State.reset.mem = true

/-- Every step keeps memory in canonical form, whoever moves: an instruction, a device step, a message or a soft error (log 4). -/
def Obligations.StepKeepsMemoryCanonical : Prop :=
  ∀ s t : State, Memory.wf s.mem = true → step s = .next t → Memory.wf t.mem = true

/-- Every well-formed instruction is what the decoder reads from its encoded word: no bit of an encoding is dropped (R41 to
R54, R62). -/
def Obligations.DecodeEncode : Prop := ∀ i : Instr, WellFormed i = true → decode (encode i) = i

/-- Every 96-bit word has one meaning and is the encoding of what it decodes to, reserved fields included (R40 to R54, R62,
R63). -/
def Obligations.EncodeDecode : Prop := ∀ w : IWord, encode (decode w) = w

/-- The worked words of the spec decode to the instructions that they stand for: `fadd.rz n4:1x2, n0, f20`,
`strand 0x0000_0030` (R65), `eret.drop` (R375), `trap 0x0123` (R373). -/
def Obligations.WorkedWords : Prop :=
  decode 0x4000820A0000428000000004#96 =
    .fadd ⟨⟨false, false, 0⟩, ⟨1, 4, 0, 1⟩, ⟨1, 0, 0, 0⟩, ⟨2, 20, 0, 0⟩, ⟨0, 0, 0, 0⟩, 0, 1, 0⟩ ∧
  decode 0x024000000000000000000600#96 = .strand ⟨⟨false, false, 0⟩, 0, ⟨0, 0, 0, 0⟩, 0x30, 0⟩ ∧
  decode 0x104000000000000000000004#96 =
    .eret ⟨⟨false, false, 0⟩, ⟨0, 0, 0, 0⟩, ⟨0, 0, 0, 0⟩, ⟨0, 0, 0, 0⟩, 0, 0, 4⟩ ∧
  decode 0x100000000000000000091800#96 =
    .trap ⟨⟨false, false, 0⟩, ⟨0, 0, 0, 0⟩, ⟨0, 0, 0, 0⟩, ⟨0, 0, 0, 0⟩, 0x0123, 0, 0⟩

/-- A step runs the decoded instruction (R40, R349): when it is a side's turn, the side chooses wave `k` and is not held for
lumens, the page of the wave's PC translates to a place with no uncorrectable error, the core's instruction cache holds no line
of that place, and the twelve bytes there decode to `i`, then the step is `exec` of `i` with `k` as the issuing wave, its
starvation count cleared, the caches filled and the lumen ring come to the side; after it no wave is issuing. The model draws the
next turn and a new free value (logs 1 and 2).
A step of the device or a message is `exec` of its row; an instruction word is never one (spec/95; log 2). What ends every step takes a
side without a lit wave out of its core's reserved sides, and frees what was set aside for it (R412), raises the virtual time of queues
that have become candidates (R340) and changes nothing else. -/
def Obligations.StepRunsDecoded : Prop :=
  (∀ (s s1 : State) (side k : Nat) (w : Wave) (p : Place) (i : Instr) (rest : List Byte),
     s.turn = .issue side → s1 = { s with free := s.free + 1, turn := Config.nextTurn s.free } →
     pick s1 side = (some k, false) → s1.wave k = some w → xlate s1 (.core w.core) w.ctx w.st.pc.toNat .fetch = .ok p →
     tget (s1.core w.core).icache (p.pa / 192) = none → uncorrectable s1 p.pa = false →
     decodeBytes (memRead s1.mem p.pa 12) = some (i, rest) →
     ∃ s2, step s = finishWith (exec i s2) ∧
       s2.cur = some k ∧ s2.wave k = some { w with starve := 0, starved := false } ∧ s2.mem = s.mem ∧ s2.free = s.free + 1 ∧
       s2.turn = s1.turn ∧ (∀ j, j ≠ k → s2.wave j = s.wave j) ∧ s2.blocks = s.blocks ∧ s2.launches = s.launches ∧
       s2.ctxs = s.ctxs ∧ s2.quads = s.quads ∧ s2.tiles = s.tiles ∧ s2.sent = s.sent ∧ s2.outbox = s.outbox) ∧
  (∀ (s : State) (e : Instr), s.turn = .event e →
     (e.isEvent = true → step s = finishWith (exec e { s with free := s.free + 1, turn := Config.nextTurn s.free })) ∧
     (e.isEvent = false → step s = .next (finishStep { s with free := s.free + 1, turn := Config.nextTurn s.free }))) ∧
  (∀ t : State, finishStep t = { t with cur := none, queues := (finishStep t).queues, cores := (finishStep t).cores } ∧
     (∀ q, (tget (finishStep t).queues q).map (fun x => { x with vt := 0, vtIn := false }) =
       (tget t.queues q).map fun x => { x with vt := 0, vtIn := false }) ∧
     ∀ c l, l = (t.core c).reserved.filter (fun i => litOf t (4 * c + i) ≠ []) →
       (finishStep t).core c = { t.core c with
         reserved := l, aside := if l.head? = (t.core c).reserved.head? then (t.core c).aside else 0 })

/-! Checks at issue, privilege, traps. -/

/-- Whatever the instruction: where a check at issue fails, the strand is rolled back and the trap is delivered with the strand head
as the point of resumption and the PC of the instruction in EPC; no other wave, no byte of memory changes (R181, R366, R368), and after a
page fault the caches hold no leaf of the page (R86). A word whose
primary opcode is unassigned raises illegal-instruction with sub-cause 1 (R63). -/
def Obligations.FailedCheckTraps : Prop :=
  (∀ (i : Instr) (k : Nat) (w : Wave) (s : State) (f : Fail), i.isEvent = false → s.cur = some k → s.wave k = some w →
     canTake s w.side (priceOf i) = true → issueFail w i = some f → TrapsAtIssue i s k w f.cause f.sub f.thr f.addr) ∧
  (∀ (x : IWord) (k : Nat) (w : Wave) (s : State), s.cur = some k → s.wave k = some w →
     TrapsAtIssue (.unassignedOpcode x) s k w 1 1 none none)

/-- Privilege (R363): at PL 0, an ERET, PATCH or HALT that decodes raises privilege fault 1; an SRD or SWR of a number that needs
PL 1 raises 2. At any level an SRD or SWR of an unassigned number raises 3, an SRD of a number that is write-only and an SWR of one
that is read-only raise 4. Where 2 and 4 meet, the lower is raised: R363 gives no order, and that is the model's choice (log 13). -/
def Obligations.PrivilegeFaults : Prop :=
  ∀ (i : Instr) (f : FmtY) (k : Nat) (w : Wave) (s : State), s.cur = some k → s.wave k = some w →
    illegalSub w.farRegs w.st.pl1 i = none →
    (w.st.pl1 = false → (i = .eret f ∨ i = .patch f ∨ i = .halt f) → TrapsAtIssue i s k w 2 1 none none) ∧
    (w.st.pl1 = false → (i = .srd f ∨ i = .swr f) →
      (f.sysn.toNat ∈ [0x30, 0x31, 0x32, 0x33, 0x42, 0x50, 0x150] ∨ (0x40 ≤ f.sysn.toNat ∧ f.sysn.toNat ≤ 0x4F) ∨
        (0x100 ≤ f.sysn.toNat ∧ f.sysn.toNat ≤ 0x13F) ∨ (0x141 ≤ f.sysn.toNat ∧ f.sysn.toNat ≤ 0x147)) →
      TrapsAtIssue i s k w 2 2 none none) ∧
    ((i = .srd f ∨ i = .swr f) → sysInfo f.sysn.toNat = none → TrapsAtIssue i s k w 2 3 none none) ∧
    (w.st.pl1 = true ∨ f.sysn.toNat ∉ [0x30, 0x31, 0x33, 0x42, 0x50] →
      ((i = .srd f ∧ f.sysn.toNat ∈ [0x42, 0x50]) ∨ (i = .swr f ∧ f.sysn.toNat ∈ [0x01, 0x02, 0x08, 0x30, 0x31, 0x33])) →
      TrapsAtIssue i s k w 2 4 none none)

/-! Control instructions. -/

/-- NOP, BRA, BRI, CALL and RET (R222, R228): only the PC and the return stack change; an indirect target that is no multiple of 12 or lies
at 2^57 or above, a full or an empty return stack and a DEPTH that differs raise the control fault (sub-causes of R228). A CALL that
meets 2 and 5 raises the lower, which is the model's choice (log 13). -/
def Obligations.DirectControl : Prop :=
  ∀ (f : FmtC) (k : Nat) (w : Wave) (s : State),
    (Ready (.nop f) k w s → Leaves (.nop f) s k { w with st := { w.st with pc := w.st.pc + 12 } }) ∧
    (Ready (.bra f) k w s → Leaves (.bra f) s k { w with st := { w.st with pc := w.st.pc + 12 * f.offs.signExtend 64 } }) ∧
    (Ready (.bri f) k w s →
      if (w.st.s f.a.idx.toNat).toNat % 12 = 0 ∧ (w.st.s f.a.idx.toNat).toNat < 2 ^ 57
      then Leaves (.bri f) s k { w with st := { w.st with pc := w.st.s f.a.idx.toNat } }
      else TrapsAtIssue (.bri f) s k w 15 5 none none) ∧
    (Ready (.call f) k w s →
      if w.st.rstack.length ≥ 16 then TrapsAtIssue (.call f) s k w 15 2 none none
      else if f.sub = 0 then Leaves (.call f) s k { w with st := { w.st with
        rstack := ⟨w.st.pc + 12, w.st.dstack.length⟩ :: w.st.rstack, pc := w.st.pc + 12 * f.offs.signExtend 64 } }
      else if (w.st.s f.a.idx.toNat).toNat % 12 = 0 ∧ (w.st.s f.a.idx.toNat).toNat < 2 ^ 57
      then Leaves (.call f) s k { w with st := { w.st with
        rstack := ⟨w.st.pc + 12, w.st.dstack.length⟩ :: w.st.rstack, pc := w.st.s f.a.idx.toNat } }
      else TrapsAtIssue (.call f) s k w 15 5 none none) ∧
    (Ready (.ret f) k w s →
      match w.st.rstack with
      | [] => TrapsAtIssue (.ret f) s k w 15 3 none none
      | e :: rest =>
        if e.depth = w.st.dstack.length
        then Leaves (.ret f) s k { w with st := { w.st with rstack := rest, pc := e.rpc } }
        else TrapsAtIssue (.ret f) s k w 15 4 none none)

/-- BRC, the one divergent branch (R223): T are the threads of EXEC whose guard holds, Fl the others. Where both are there, the path
that holds the lowest thread runs first, and one entry is pushed for the other. -/
def Obligations.DivergentBranch : Prop :=
  ∀ (f : FmtC) (k : Nat) (w : Wave) (s : State) (joffs : BitVec 24) (t fl : Word) (target jpc : DWord), Ready (.brc f) k w s →
    joffs = f.imm.truncate 24 → jpc = w.st.pc + 12 * joffs.signExtend 64 → target = w.st.pc + 12 * f.offs.signExtend 64 →
    t = w.st.exec &&& (if f.h.gn then ~~~(w.st.p f.h.gp.toNat) else w.st.p f.h.gp.toNat) → fl = w.st.exec &&& ~~~t →
    (if joffs = 0 then TrapsAtIssue (.brc f) s k w 15 6 none none
     else if t = 0 then Leaves (.brc f) s k { w with st := { w.st with pc := w.st.pc + 12 } }
     else if fl = 0 then Leaves (.brc f) s k { w with st := { w.st with pc := target } }
     else if w.st.dstack.length ≥ 32 then TrapsAtIssue (.brc f) s k w 15 1 none none
     else if lowestThread t < lowestThread fl then Leaves (.brc f) s k { w with st := { w.st with
       dstack := ⟨jpc, w.st.pc + 12, w.st.exec, fl⟩ :: w.st.dstack, exec := t, pc := target } }
     else Leaves (.brc f) s k { w with st := { w.st with
       dstack := ⟨jpc, target, w.st.exec, t⟩ :: w.st.dstack, exec := fl, pc := w.st.pc + 12 } })

/-- RCV (R224): every entry on top whose join it is is resolved, in the loop of the rule, and a wave left with no thread on its path
resolves its stack. In particular, on a wave with a thread on its path: no entry on top whose join it is, and it acts as NOP; one whose
other path still has a live thread, and that path runs; else the entry's threads are joined and it is popped. -/
def Obligations.JoinResolves : Prop :=
  ∀ (f : FmtC) (k : Nat) (w : Wave) (s : State), Ready (.rcv f) k w s →
    (∃ st st', Joins w.st.pc w.st st ∧ Resolves st st' ∧ Leaves (.rcv f) s k { w with st := st' }) ∧
    (w.st.exec ≠ 0 → (∀ e ∈ w.st.dstack.head?, e.jpc ≠ w.st.pc) →
      Leaves (.rcv f) s k { w with st := { w.st with pc := w.st.pc + 12 } }) ∧
    (∀ e rest, w.st.dstack = e :: rest → e.jpc = w.st.pc → e.pmask &&& w.st.live ≠ 0 →
      Leaves (.rcv f) s k { w with st := { w.st with
        exec := e.pmask &&& w.st.live, pc := e.ppc, dstack := { e with pmask := 0 } :: rest } }) ∧
    (∀ e rest, w.st.dstack = e :: rest → e.jpc = w.st.pc → e.pmask &&& w.st.live = 0 → e.saved &&& w.st.live ≠ 0 →
      (∀ x ∈ rest.head?, x.jpc ≠ w.st.pc) →
      Leaves (.rcv f) s k { w with st := { w.st with
        exec := e.saved &&& w.st.live, pc := w.st.pc + 12, dstack := rest } })

/-! Boundary instructions, their strand queue empty. -/

/-- STRAND (R174 to R176), with nothing queued: the mask becomes SVM, the survivors are banked, the head is the next instruction, the
bank's other entries and every other wave are kept. The die's capture units of source 5 sample the depth of the queue (R437, R438). -/
def Obligations.StrandBoundary : Prop :=
  ∀ (f : FmtC) (k : Nat) (w : Wave) (s : State), Ready (.strand f) k w s → w.queue = [] → w.victim = false →
    ∃ t w', exec (.strand f) s = .next t ∧ t.wave k = some w' ∧ OnlyWave k s t ∧ AfterBoundary f.imm w w' ∧
      w'.st = w.nextHead f.imm ∧ w'.head = w'.st ∧ SampledBy (dieOfCore w.core) 5 0 s t

/-- EXIT (R225, R265), with nothing queued. One that would end an open chain raises matrix fault 3 at issue. Else the active threads, here
none of them a taper, leave LIVE, EXEC and every SAVED and PMASK; the path goes on at PC + 12 while it has a thread, else the stack is
resolved; a wave without a live thread has ended and its private frame is free, and one formed from a bin is no more. Where such a wave's
launch keeps the token order, contributions that its threads held back may then be applied (R402); else nothing but the wave changes. -/
def Obligations.ExitRetires : Prop :=
  ∀ (f : FmtC) (k : Nat) (w : Wave) (s : State) (x live : Word) (st : WState), Ready (.exit f) k w s → x = w.st.act f.h →
    (w.st.chain = true → x = w.st.live → TrapsAtIssue (.exit f) s k w 17 3 none none) ∧
    (w.queue = [] → w.victim = false → (∀ n b, n ∈ threads x → tget w.born n = some b → b.taper = false) →
      (w.st.chain = false ∨ x ≠ w.st.live) → live = w.st.live &&& ~~~x →
      st = { w.nextHead w.keptMask with
        live := live, exec := w.st.exec &&& ~~~x
        dstack := w.st.dstack.map fun e => { e with saved := e.saved &&& ~~~x, pmask := e.pmask &&& ~~~x } } →
      (live ≠ 0 → ∃ t w' st', exec (.exit f) s = .next t ∧ t.wave k = some w' ∧ (w.isBin = false ∨ Tokenless s w → OnlyWave k s t) ∧
        (∀ j, j ≠ k → t.wave j = s.wave j) ∧ AfterBoundary w.keptMask w w' ∧ w'.head = w'.st ∧ Resolves st st' ∧ w'.st = st' ∧ (st.exec ≠ 0 → w'.st = st) ∧
        ∀ e rest, st.exec = 0 → st.dstack = e :: rest → e.pmask &&& live ≠ 0 →
          w'.st = { st with exec := e.pmask &&& live, pc := e.ppc, dstack := { e with pmask := 0 } :: rest }) ∧
      (live = 0 → w.isBin = false →
        ∃ t w', exec (.exit f) s = .next t ∧ t.wave k = some w' ∧ w'.wait = .ended ∧ w'.lit = false ∧ w'.st.live = 0 ∧
          w'.frameNo = none ∧ w'.far = w.far ∧ ∀ j, j ≠ k → t.wave j = s.wave j) ∧
      (live = 0 → w.isBin = true → (∀ e ∈ (s.core w.core).bins, e.2.refused = none) → tsorted s.waves = true →
        ∃ t, exec (.exit f) s = .next t ∧ t.wave k = none ∧ ∀ j, j ≠ k → t.wave j = s.wave j))

/-- TEND (R165, R167, R225, R265), and EXIT in a wave formed from a bin. An active thread that is no taper raises taper fault 1 at issue of
TEND; one that would end an open chain raises matrix fault 3. Else, with nothing queued or still only sent, the tapers retire as under
EXIT; closing ones count no bytes (R166), and one taper of an operation that is not its last adds its %blen to the bytes that the operation
has counted, which land on the operation's barrier object. Contributions that the threads held back in a launch's token order may then be
applied (R402); without such an order nothing else changes. -/
def Obligations.TendRetires : Prop :=
  ∀ (i : Instr) (h : Hdr) (k : Nat) (w : Wave) (s : State) (x : Word),
    ((∃ f, i = .tend f ∧ h = f.h) ∨ (∃ f, i = .exit f ∧ h = f.h ∧ w.isBin = true)) → Ready i k w s → x = w.st.act h →
    (∀ n f, i = .tend f → (threads x).find? (fun t => !isTaper w t) = some n → TrapsAtIssue i s k w 14 1 (some n) none) ∧
    ((∀ n ∈ threads x, isTaper w n = true) → w.st.chain = true → x = w.st.live → TrapsAtIssue i s k w 17 3 none none) ∧
    (w.queue = [] → w.victim = false → w.isBin = true → w.st.chain = false → w.st.exec &&& ~~~x ≠ 0 → w.st.live &&& ~~~x ≠ 0 →
      ((∀ n ∈ threads x, ∃ b, tget w.born n = some b ∧ b.taper = true ∧ b.closing = true) →
        ∃ t w', exec i s = .next t ∧ t.wave k = some w' ∧ (Tokenless s w → OnlyWave k s t) ∧ (∀ j, j ≠ k → t.wave j = s.wave j) ∧
          AfterBoundary w.keptMask w w' ∧ w'.head = w'.st ∧
          w'.st.live = w.st.live &&& ~~~x ∧ w'.st.exec = w.st.exec &&& ~~~x ∧ w'.st.pc = w.st.pc + 12) ∧
      (∀ n b o, threads x = [n] → tget w.born n = some b → b.taper = true → b.closing = false → tget s.engops b.op = some o →
        s.sent = [] → o.counted + b.blen.toNat ≠ o.total →
        (o.bar = .none →
          ∃ t w', exec i s = .next t ∧ t.wave k = some w' ∧ AfterBoundary w.keptMask w w' ∧ w'.head = w'.st ∧
            w'.st.live = w.st.live &&& ~~~x ∧ w'.st.exec = w.st.exec &&& ~~~x ∧ w'.st.pc = w.st.pc + 12 ∧ (Tokenless s w → t.mem = s.mem) ∧
            tget t.engops b.op = some { o with counted := o.counted + b.blen.toNat } ∧
            (∀ j, j ≠ b.op → tget t.engops j = tget s.engops j) ∧ ∀ j, j ≠ k → t.wave j = s.wave j) ∧
        (∀ va pa, o.bar = .mem va → barPlace s (.core o.core) o.ctx o.block o.bar = .ok (some (.mem pa)) → Calm s w →
          Memory.wf s.mem = true →
          ∃ t w', exec i s = .next t ∧ t.wave k = some w' ∧ AfterBoundary w.keptMask w w' ∧
            w'.st.live = w.st.live &&& ~~~x ∧ w'.st.exec = w.st.exec &&& ~~~x ∧ w'.st.pc = w.st.pc + 12 ∧
            (Tokenless s w → barAt t (.mem pa) = (barAt s (.mem pa)).landed b.blen.toNat ∧
              ∀ a, a < pa ∨ pa + 16 ≤ a → memByte t.mem a = memByte s.mem a) ∧
            tget t.engops b.op = some { o with counted := o.counted + b.blen.toNat } ∧ ∀ j, j ≠ k → t.wave j = s.wave j)))

/-- YIELD (R226), with nothing queued: it is a boundary that keeps SVM; where a wave waits for the side's lit slot, the yielding one
gives its up and goes to the end of the lighting queue (R350). -/
def Obligations.YieldGivesWay : Prop :=
  ∀ (f : FmtC) (k : Nat) (w : Wave) (s : State), Ready (.yield f) k w s → w.queue = [] → w.victim = false →
    ((s.side w.side).lighting = [] →
      ∃ t w', exec (.yield f) s = .next t ∧ t.wave k = some w' ∧ OnlyWave k s t ∧ AfterBoundary w.keptMask w w' ∧
        w'.st = w.nextHead w.keptMask ∧ w'.head = w'.st) ∧
    ((s.side w.side).lighting ≠ [] → k ∉ (s.side w.side).lighting → s.blockRuns w.block = true →
      ∃ t w', exec (.yield f) s = .next t ∧ t.wave k = some w' ∧ OnlyWave k s t ∧ w'.lit = false ∧ w'.wait = .parked ∧
        w'.st = w.nextHead w.keptMask ∧ w'.head = w'.st ∧ Banked w.keptMask w w' ∧ w'.far = w.far ∧
        (t.side w.side).lighting = (s.side w.side).lighting ++ [k])

/-- TRAP and BKPT (R373), with nothing queued: with no active thread they are a boundary that keeps SVM; else they raise cause 24 or 25 with
EPC their own PC, ERES the next, EADDR their code and THR the lowest active thread, here where R367 gives it to the handler. -/
def Obligations.TrapRaises : Prop :=
  ∀ (i : Instr) (f : FmtY) (cause k : Nat) (w : Wave) (s : State), ((i = .trap f ∧ cause = 24) ∨ (i = .bkpt f ∧ cause = 25)) →
    Ready i k w s → w.queue = [] → w.victim = false →
    (w.st.act f.h = 0 →
      ∃ t w', exec i s = .next t ∧ t.wave k = some w' ∧ OnlyWave k s t ∧ AfterBoundary w.keptMask w w' ∧
        w'.st = w.nextHead w.keptMask ∧ w'.head = w'.st) ∧
    (w.st.act f.h ≠ 0 → trapToHost s w cause = false →
      ∃ t w', exec i s = .next t ∧ t.wave k = some w' ∧ OnlyWave k s t ∧ Banked w.st.svm w w' ∧
        AtHandler (handlerEntry s w) (w.nextHead w.st.svm) w w' cause 0 0 (some (lowestThread (w.st.act f.h))) w.st.pc
          (w.st.pc + 12) false false ∧
        w'.eaddr = f.sysn.zeroExtend 64)

/-- HALT (R374), with nothing queued: its context is halted and its own block no longer runs; its owner is told with cause 28. With no active
thread it is a boundary. -/
def Obligations.HaltStopsContext : Prop :=
  ∀ (f : FmtY) (k : Nat) (w : Wave) (s : State), Ready (.halt f) k w s → w.queue = [] → w.victim = false →
    (w.st.act f.h = 0 →
      ∃ t w', exec (.halt f) s = .next t ∧ t.wave k = some w' ∧ OnlyWave k s t ∧ AfterBoundary w.keptMask w w' ∧
        w'.st = w.nextHead w.keptMask ∧ w'.head = w'.st) ∧
    (∀ x c, w.st.act f.h ≠ 0 → tget s.blocks w.block = some x → x.ctx = w.ctx → tget s.ctxs w.ctx = some c →
      ∃ t, exec (.halt f) s = .next t ∧ (∃ c', tget t.ctxs w.ctx = some c' ∧ c'.halted = true) ∧ t.blockRuns w.block = false ∧
        ∃ m ∈ t.outbox, m.typ = 6 ∧ m.ctx = BitVec.ofNat 12 w.ctx ∧ m.cmd = 28)

/-- A trap that R367 gives to the host (R369): the block is written out as escalated, with the wave's number and HCAUSE, HPC and HADDR, and the
owner is told the context, the slot and the cause; where its save area fails the block is stranded, and the notify waits until the save
area has been written (R434, R442). A wave formed from a bin has no number; 255 is the model's choice (log 10). -/
def Obligations.EscalationTellsHost : Prop :=
  ∀ (i : Instr) (k : Nat) (w : Wave) (s : State) (f : Fail) (x : Block), i.isEvent = false → s.cur = some k → s.wave k = some w →
    canTake s w.side (priceOf i) = true → issueFail w i = some f → trapToHost s w.rollback f.cause = true →
    tget s.blocks w.block = some x → (tget s.ctxs x.ctx).isSome = true → tsorted s.blocks = true →
    ∃ t y, exec i s = .next t ∧ tget t.blocks w.block = some y ∧
      Escalated t w.ctx f.cause (BitVec.ofNat 64 (x.slot + f.sub * 2 ^ 52)) y ∧
      y.escWave = (if w.isBin then 255 else w.wid) ∧ y.hpc = w.st.pc ∧ (∀ a, f.addr = some a → y.haddr = a) ∧
      CauseIs y.hcause f.cause f.sub 0 (decide (w.residual ≠ [])) w.be.isSome f.thr

/-- ERET (R375). Without HOST, where no residual queue is left to it and at most a STRAND is pending: the state of FRAME, but for AIV, comes
back at PL 0 and ERES, the survivors that its SVM names are reloaded from the bank, and every other near and wick register holds
nothing. With one residual entry, that is performed first, in the state so restored. With HOST the restored wave's block is escalated
again with the cause, PC and address that the handler was given. -/
def Obligations.EretRestores : Prop :=
  ∀ (f : FmtY) (k : Nat) (w : Wave) (s : State) (fr st : WState), Ready (.eret f) k w s → w.queue = [] → w.victim = false →
    w.frame = some fr → st = { fr with pl1 := false, pc := w.eres, aiv := w.st.aiv } →
    ((w.fbe = none ∨ ∃ g pc, w.fbe = some (.strand g, pc)) →
      ((f.sub = 0 ∧ w.fresidual = []) ∨ (f.sub = 2 ∧ w.fresidual.length ≤ 1) ∨ f.sub = 4) →
      ∃ t w', exec (.eret f) s = .next t ∧ t.wave k = some w' ∧ OnlyWave k s t ∧ w'.st = st ∧
        w'.head = w'.st ∧ w'.frame = none ∧ w'.residual = [] ∧ w'.be = none ∧ w'.queue = [] ∧ w'.wick = [] ∧ w'.far = w.far ∧
        w'.bank = w.bank ∧ w'.lit = w.lit ∧ ∀ i l, (i, l) ∈ w'.near ↔ (i, l) ∈ w.bank ∧ bit fr.svm i = true) ∧
    (∀ e w0 w1 s0 s1, f.sub = 0 → w.fresidual = [e] → w.fbe = none → absentOf w e.dsts = [] →
      w0 = { w with
        st := st, head := st, frame := none, residual := [e], fresidual := [], be := none, queue := [], farRead := [], wick := []
        near := w.bank.filter fun e => bit fr.svm e.1, mflags := w.fmflags, fmflags := 0, parity := 0, wait := .none } →
      s0 = { s.setWave k w0 with free := s.free + 1 } → performOp s0 k w0 e = .done s1 → s1.wave k = some w1 →
      w1 = { w1 with residual := [e], wait := .none, be := none, lit := true, victim := false } → s1.blockRuns w1.block = true →
      ∃ t w', exec (.eret f) s = .next t ∧ t.wave k = some w' ∧ t.mem = s1.mem ∧ t.outbox = s1.outbox ∧ t.vigils = s1.vigils ∧
        t.tiles = s1.tiles ∧ t.engops = s1.engops ∧ (∀ j, j ≠ k → t.wave j = s1.wave j) ∧ w'.st = w1.st ∧ w'.head = w1.head ∧
        w'.residual = [] ∧ w'.be = none ∧ w'.queue = [] ∧ w'.wick = [] ∧ w'.far = w1.far ∧ w'.bank = w1.bank) ∧
    (∀ x, f.sub = 1 → tget s.blocks w.block = some x → (tget s.ctxs x.ctx).isSome = true → tsorted s.blocks = true →
      tsorted s.waves = true → (s.core x.core).steps = [] →
      ∃ t y, exec (.eret f) s = .next t ∧ tget t.blocks w.block = some y ∧
        Escalated t w.ctx (bitsOf w.ecause.toNat 31 24) (BitVec.ofNat 64 (x.slot + bitsOf w.ecause.toNat 23 20 * 2 ^ 52)) y ∧
        y.hcause = w.ecause ∧ y.hpc = w.epc ∧ y.haddr = w.eaddr ∧ y.escWave = (if w.isBin then 255 else w.wid) ∧
        ∃ w', t.wave k = some w' ∧ w'.st = st ∧ w'.head = st ∧ w'.frame = none ∧ w'.lit = false)

/-- VIGIL (R275 to R277, R284 to R291), with nothing queued. With no active thread it is a boundary. The checks of R291 at issue raise their
faults. Else its word or barrier, here sound, answers at once or the wave registers: a plain condition that holds answers true, one that
does not and has a budget of 0 answers false, else an entry is made; a queue entry is made whatever the word holds, but for a budget of 0.
Where the registration answers, D takes the value, also in the head record, and a named predicate the flag in every live thread; where an
entry is made, the wave waits dark in its VIGIL. The compare codes are those of R276. -/
def Obligations.VigilAnswersOrWaits : Prop :=
  (∀ (f : FmtM) (k : Nat) (w : Wave) (s : State), Ready (.vigil f) k w s →
    (w.st.act f.h = 0 → w.queue = [] → w.victim = false →
      ∃ t w', exec (.vigil f) s = .next t ∧ t.wave k = some w' ∧ OnlyWave k s t ∧ AfterBoundary w.keptMask w w' ∧
        w'.st = w.nextHead w.keptMask ∧ w'.head = w'.st) ∧
    (∀ n, (threads (w.st.act f.h)).find? (isTaper w) = some n → TrapsAtIssue (.vigil f) s k w 14 2 (some n) none) ∧
    (w.st.act f.h ≠ 0 → (∀ n ∈ threads (w.st.act f.h), isTaper w n = false) →
      (∀ e, vigilPlace s w f = .error e → TrapsAtIssue (.vigil f) s k w e.cause e.sub e.thr e.addr) ∧
      (∀ a n, a = w.st.s f.a.idx.toNat → n = (if f.sub.getLsbD 3 then 8 else 4) → f.ofs.getLsbD 0 = false →
        (a.toNat + n > vlim → TrapsAtIssue (.vigil f) s k w 3 1 none (some a)) ∧
        (a.toNat + n ≤ vlim → a.toNat % n ≠ 0 → TrapsAtIssue (.vigil f) s k w 4 1 none (some a)) ∧
        (a.toNat + n ≤ vlim → a.toNat % n = 0 → ∀ x, xlate s (.core w.core) w.ctx a.toNat .load = .error x → x ≠ 0 →
          TrapsAtIssue (.vigil f) s k w (if x = 7 then 18 else 3) (if x = 7 then 3 else x) none (some a))) ∧
      (f.ofs.getLsbD 0 = true → parseBar s w.block (w.st.s f.a.idx.toNat) = none → TrapsAtIssue (.vigil f) s k w 19 1 none none) ∧
      ∀ s0 s' loc va v, w.queue = [] → w.victim = false → s0 = s.setWave k w.bounded → vigilPlace s0 w.bounded f = .ok (loc, va) →
        v = vigilEntry s0 k w.bounded f loc va → vigilBad s0 loc v.width = false → s' = vigilTouch s0 k w.bounded loc va v.width →
        (∀ flag value, registerVigil s' v = .answer flag value → s.sent = [] →
          ∃ t w', exec (.vigil f) s = .next t ∧ t.wave k = some w' ∧ OnlyCaches k s t ∧ AfterBoundary w.keptMask w w' ∧
            w'.st.pc = w.st.pc + 12 ∧ w'.st.s f.d.idx.toNat = value ∧ w'.head.s f.d.idx.toNat = value ∧
            (∀ n, n ≠ f.d.idx.toNat → w'.st.s n = w.st.s n) ∧
            (f.sub.toNat % 8 ≠ 0 → w'.st.p (f.sub.toNat % 8) &&& w.st.live = if flag then w.st.live else 0)) ∧
        (∀ s1, registerVigil s' v = .entry (.made s1) →
          ∃ t w', exec (.vigil f) s = .next t ∧ t.wave k = some w' ∧ w'.lit = false ∧ w'.wait = .vigil ∧ w'.st.pc = w.st.pc + 12 ∧
            w'.head = w'.st ∧ t.vigils = s1.vigils ∧ t.tickets = s1.tickets ∧ ∀ j, j ≠ k → t.wave j = s1.wave j))) ∧
  (∀ (s : State) (v : Vigil),
    ((v.kind = .plain ∨ v.kind = .queue) →
      (v.w64 = false → (v.holds s = true ↔ CompareHolds v.cmp (BitVec.ofNat 32 (readLoc s v.loc 4)) (v.operand.truncate 32)
        (v.mask.truncate 32))) ∧
      (v.w64 = true → (v.holds s = true ↔ CompareHolds v.cmp (BitVec.ofNat 64 (readLoc s v.loc 8)) v.operand v.mask))) ∧
    (v.kind = .phase → (v.holds s = true ↔ (barAt s v.loc).phase ≠ (v.operand.truncate 16).toNat)) ∧
    (v.kind = .drain → (v.holds s = true ↔ (barAt s v.loc).drn = false)) ∧
    (v.kind ≠ .queue → (v.holds s = true → registerVigil s v = .answer true (v.value s)) ∧
      (v.holds s = false → v.timed = true → v.budget = 0 → registerVigil s v = .answer false (v.value s)) ∧
      (v.holds s = false → v.timed = false ∨ v.budget ≠ 0 → ∃ r, registerVigil s v = .entry r)) ∧
    (v.kind = .queue → (v.timed = true → v.budget = 0 → registerVigil s v = .answer (v.holds s) (v.value s)) ∧
      (v.timed = false ∨ v.budget ≠ 0 → ∃ r, registerVigil s v = .entry r)))

/-! Register instructions. -/

/-- The instructions that compute their elements one by one, or across lanes, into a block (U = 0; R66, R68, R186, R190, R194 to R202, R204 to
R209, R216, R217): every unit of the destination block in every active thread takes the value that the form gives it from the registers
before the instruction, at its first register and, for a 64-bit unit, the next; every other register, scalar, predicate and thread, and the
rest of the machine, are kept; the flags of all are joined to FPSTAT.
The pair that FMAXI and FMINI choose, one a column in `.f32` and one a half in the 16-bit formats (R207); Combine, REDX's tree over the 32
threads and SCAN's running values, where an absent side gives the other (R217). -/
def Obligations.VectorResults : Prop :=
  (∀ (i : Instr) (e : UnitForm) (k : Nat) (w : Wave) (s : State) (act : Word), unitForm i = some e → e.h.u = false → act = w.st.act e.h →
     Ready i k w s →
     ∃ t w', exec i s = .next t ∧ t.wave k = some w' ∧ OnlyWave k s t ∧ Effect (writesOf i) act (e.flags s w act) w w' ∧
       ∀ off n, off ∈ unitOffs e.fmt e.d → n < 32 → bit act n = true →
         w'.lane e.d.lvl.toNat (e.d.idx.toNat + off) n = some ((e.val s w n off).1.truncate 32) ∧
         (e.fmt = 1 → w'.lane e.d.lvl.toNat (e.d.idx.toNat + off + 1) n = some (((e.val s w n off).1 >>> 32).truncate 32))) ∧
  (∀ (isMax : Bool) (fmt a ia b ib : Nat),
     (fmt ≤ 3 → a < 2 ^ fwidth fmt → b < 2 ^ fwidth fmt → ∀ x : Nat × Nat,
       (PairBeats isMax fmt a ia b ib → x = (b, ib)) → (¬PairBeats isMax fmt a ia b ib → x = (a, ia)) →
       (isNaNOf fmt x.1 → (fMaxI isMax fmt a ia b ib).1 = defaultNaN fmt) ∧
       (¬isNaNOf fmt x.1 → (fMaxI isMax fmt a ia b ib).1 = x.1) ∧ (fMaxI isMax fmt a ia b ib).2.1 = x.2 ∧
       (isSNaNOf fmt a ∨ isSNaNOf fmt b → (fMaxI isMax fmt a ia b ib).2.2 = flNV) ∧
       (¬isSNaNOf fmt a → ¬isSNaNOf fmt b → (fMaxI isMax fmt a ia b ib).2.2 = 0)) ∧
     pairWin isMax 0 a ia b ib = fMaxI isMax 0 a ia b ib ∧
     ∀ j l h, (fmt = 2 ∨ fmt = 3) → (j = fun x k : Nat => x / 2 ^ (16 * k) % 2 ^ 16) →
       l = fMaxI isMax fmt (j a 0) (j ia 0) (j b 0) (j ib 0) → h = fMaxI isMax fmt (j a 1) (j ia 1) (j b 1) (j ib 1) →
       pairWin isMax fmt a ia b ib = (l.1 + h.1 * 2 ^ 16, l.2.1 + h.2.1 * 2 ^ 16, l.2.2 ||| h.2.2)) ∧
  (∀ fmt rnd n : Nat, ∀ a b : BitVec n, fmt ≤ 3 → elemBits false fmt = n →
     (List.range 5).map (fun c => combineOp c fmt rnd a.toNat b.toNat) =
       [((a + b).toNat, 0), ((if a.sle b then a else b).toNat, 0), ((if b.sle a then a else b).toNat, 0),
        (min a.toNat b.toNat, 0), (max a.toNat b.toNat, 0)]) ∧
  ∀ code fmt rnd : Nat,
    (∀ a b, combineOp 5 fmt rnd a b = fAdd fmt rnd a b ∧ combineOp 6 fmt rnd a b = fMinMax false fmt a b ∧
      combineOp 7 fmt rnd a b = fMinMax true fmt a b) ∧
    (∀ x y, combineUnit code fmt rnd none y = (y, 0) ∧ combineUnit code fmt rnd x none = (x, 0)) ∧
    (∀ x y, combineUnit code fmt rnd (some x) (some y) =
      let r := mapElems (unitBits fmt) (elemBits (code ≥ 5) fmt) (fun l => combineOp code fmt rnd (arg l 0) (arg l 1)) [x, y]
      (some r.1, r.2)) ∧
    ∀ l : List (Option DWord), l.length = 32 →
      (redTree code fmt rnd l).2 = (redSpec code fmt rnd (fun t => (l[t]?).join) 5 0).2 ∧
      (∀ x, (redSpec code fmt rnd (fun t => (l[t]?).join) 5 0).1 = some x → (redTree code fmt rnd l).1 = x) ∧
      (scanList code fmt rnd none l).2 = (scanSpec code fmt rnd l).2 ∧
      ∀ t x, t < 32 → (scanSpec code fmt rnd (l.take (t + 1))).1 = some x → (scanList code fmt rnd none l).1[t]? = some x

/-- The same under U = 1 (R42, R187): executed once for the wave when a thread is active, the result in one scalar; with no active thread
nothing is written and no flag is raised. -/
def Obligations.ScalarResults : Prop :=
  ∀ (i : Instr) (e : UnitForm) (k : Nat) (w : Wave) (s : State) (act : Word), unitForm i = some e → e.h.u = true → act = w.st.act e.h →
    Ready i k w s →
    ∃ t w', exec i s = .next t ∧ t.wave k = some w' ∧ OnlyWave k s t ∧
      (act ≠ 0 → Effect (writesOf i) 0 (e.val s w 0 0).2 w w' ∧ w'.st.s e.d.idx.toNat = (e.val s w 0 0).1) ∧
      (act = 0 → Effect [] 0 0 w w')

/-- Every element of a unit is computed independently (R190): element `j` of the result is the operation on the elements `j` of the
sources, whatever the other elements hold; the flags of all are joined.
The FP operation on one element of each format (R204, R205, R206, R209, R233, R236, R237): FADD, FSUB, FMUL, FFMA, FDIVS, FRCP, FSQRT and
FRSQ are the exact value rounded once, with the signs of zero results, the infinities, the NaNs and their flags; FMIN and FMAX are the
operand that comes first or last, with -0 below +0; FCLS sets one bit. FEXP2 is so stated at every whole number, at every value below 2^-65
or from 2^13 on in magnitude, FLOG2 at the powers of two, FSIN and FCOS below 2^-31, and all four at zeros, infinities, negative
arguments and NaNs; of their other arguments nothing is said. That a result below the smallest normal value is rounded once is the
model's reading (log 7). -/
def Obligations.ElementsIndependent : Prop :=
  (∀ (ub eb j : Nat) (op : List Nat → Nat × FFlags) (imgs : List DWord), (ub = 32 ∨ ub = 64) → (eb = 8 ∨ eb = 16 ∨ eb = 32 ∨ eb = 64) →
    eb ≤ ub → j < ub / eb →
    (mapElems ub eb op imgs).1.toNat / 2 ^ (eb * j) % 2 ^ eb = (op (imgs.map fun x => x.toNat / 2 ^ (eb * j) % 2 ^ eb)).1 % 2 ^ eb ∧
    (mapElems ub eb op imgs).1.toNat < 2 ^ ub ∧
    (mapElems ub eb op imgs).2 =
      (List.range (ub / eb)).foldl (fun a i => a ||| (op (imgs.map fun x => x.toNat / 2 ^ (eb * i) % 2 ^ eb)).2) 0) ∧
  ([0, 1, 2, 3].map fwidth = [32, 64, 16, 16] ∧ [0, 1, 2, 3].map fracBits = [23, 52, 10, 7] ∧
    [0, 1, 2, 3].map fbias = [127, 1023, 15, 127] ∧
    [0, 1, 2, 3].map (infBits · false) = [0x7F800000, 0x7FF0000000000000, 0x7C00, 0x7F80] ∧
    [0, 1, 2, 3].map defaultNaN = [0x7FC00000, 0x7FF8000000000000, 0x7E00, 0x7FC0] ∧
    [0, 1, 2, 3].map (maxBits · false) = [0x7F7FFFFF, 0x7FEFFFFFFFFFFFFF, 0x7BFF, 0x7F7F]) ∧
  ∀ fmt mode a b c : Nat, fmt ≤ 3 → mode ≤ 3 → a < 2 ^ fwidth fmt → b < 2 ^ fwidth fmt → c < 2 ^ fwidth fmt →
    (∀ x y : ℚ, finValue fmt a = some x → finValue fmt b = some y →
      (x + y ≠ 0 → Rounded fmt mode (x + y) (fAdd fmt mode a b)) ∧
      (x - y ≠ 0 → Rounded fmt mode (x - y) (fSub fmt mode a b)) ∧
      (x * y ≠ 0 → Rounded fmt mode (x * y) (fMul fmt mode a b)) ∧
      (x ≠ 0 → y ≠ 0 → Rounded fmt mode (x / y) (fDiv fmt mode a b)) ∧
      (x + y = 0 → fAdd fmt mode a b = (signBit fmt (if negOf fmt a = negOf fmt b then negOf fmt a else decide (mode = 3)), 0)) ∧
      (x - y = 0 → fSub fmt mode a b = (signBit fmt (if negOf fmt a ≠ negOf fmt b then negOf fmt a else decide (mode = 3)), 0)) ∧
      (x * y = 0 → fMul fmt mode a b = (signBit fmt (negOf fmt a != negOf fmt b), 0)) ∧
      (x = 0 → y ≠ 0 → fDiv fmt mode a b = (signBit fmt (negOf fmt a != negOf fmt b), 0)) ∧
      (x ≠ 0 → y = 0 → fDiv fmt mode a b = (infBits fmt (negOf fmt a != negOf fmt b), flDZ)) ∧
      (x = 0 → y = 0 → fDiv fmt mode a b = (defaultNaN fmt, flNV)) ∧
      ∀ z : ℚ, finValue fmt c = some z →
        (x * y + z ≠ 0 → Rounded fmt mode (x * y + z) (fFma fmt mode a b c)) ∧
        (x * y + z = 0 → fFma fmt mode a b c =
          (signBit fmt (if (negOf fmt a != negOf fmt b) = negOf fmt c then negOf fmt c else decide (mode = 3)), 0))) ∧
    (∀ x : ℚ, finValue fmt a = some x →
      (x ≠ 0 → Rounded fmt mode (1 / x) (fRcp fmt mode a)) ∧
      (0 < x → Rounded fmt mode (Real.sqrt x) (fSqrt fmt mode a) ∧ Rounded fmt mode (1 / Real.sqrt x) (fRsq fmt mode a)) ∧
      (x = 0 → fRcp fmt mode a = (infBits fmt (negOf fmt a), flDZ) ∧ fRsq fmt mode a = (infBits fmt (negOf fmt a), flDZ) ∧
        fSqrt fmt mode a = (a, 0) ∧ fLog2 fmt mode a = (infBits fmt true, flDZ) ∧ fSin fmt mode a = (a, 0)) ∧
      (x < 0 → ∀ f ∈ [fSqrt, fRsq, fLog2], f fmt mode a = (defaultNaN fmt, flNV)) ∧
      ((∃ n : ℤ, x = n) ∨ |x| < 2 ^ (-65 : ℤ) ∨ 2 ^ 13 ≤ |x| → Rounded fmt mode ((2 : ℝ) ^ (x : ℝ)) (fExp2 fmt mode a)) ∧
      (∀ n : ℤ, x = 2 ^ n → (n = 0 → fLog2 fmt mode a = (0, 0)) ∧ (n ≠ 0 → Rounded fmt mode n (fLog2 fmt mode a))) ∧
      (|x| < 2 ^ (-31 : ℤ) → (x ≠ 0 → Rounded fmt mode (Real.sin x) (fSin fmt mode a)) ∧
        Rounded fmt mode (Real.cos x) (fCos fmt mode a))) ∧
    (∀ neg nan, a = infBits fmt neg → nan = (defaultNaN fmt, flNV) →
      (∀ y : ℚ, finValue fmt b = some y →
        fAdd fmt mode a b = (a, 0) ∧ fAdd fmt mode b a = (a, 0) ∧ fSub fmt mode a b = (a, 0) ∧
        fSub fmt mode b a = (infBits fmt !neg, 0) ∧ fDiv fmt mode a b = (infBits fmt (neg != negOf fmt b), 0) ∧
        fDiv fmt mode b a = (signBit fmt (neg != negOf fmt b), 0) ∧
        fMul fmt mode a b = (if y = 0 then nan else (infBits fmt (neg != negOf fmt b), 0)) ∧ fMul fmt mode b a = fMul fmt mode a b ∧
        (∀ neg', c = infBits fmt neg' → y ≠ 0 → fFma fmt mode b a c = fFma fmt mode a b c ∧
          fFma fmt mode a b c = if (neg != negOf fmt b) = neg' then (c, 0) else (defaultNaN fmt, 0)) ∧
        ∀ z : ℚ, finValue fmt c = some z → fFma fmt mode b c a = (a, 0) ∧
          (y ≠ 0 → fFma fmt mode a b c = (infBits fmt (neg != negOf fmt b), 0) ∧ fFma fmt mode b a c = fFma fmt mode a b c)) ∧
      (∀ neg', b = infBits fmt neg' → fAdd fmt mode a b = (if neg = neg' then (a, 0) else nan) ∧
        fSub fmt mode a b = (if neg = neg' then nan else (a, 0)) ∧ fMul fmt mode a b = (infBits fmt (neg != neg'), 0) ∧
        fDiv fmt mode a b = nan) ∧
      fRcp fmt mode a = (signBit fmt neg, 0) ∧ fSqrt fmt mode a = (if neg then nan else (a, 0)) ∧
      fRsq fmt mode a = (if neg then nan else (0, 0)) ∧ fExp2 fmt mode a = (if neg then 0 else a, 0) ∧
      fLog2 fmt mode a = (if neg then nan else (a, 0)) ∧ fSin fmt mode a = nan ∧ fCos fmt mode a = nan) ∧
    (∀ f ∈ [fAdd, fSub, fMul, fDiv],
      (isSNaNOf fmt a ∨ isSNaNOf fmt b → f fmt mode a b = (defaultNaN fmt, flNV)) ∧
      (isNaNOf fmt a ∨ isNaNOf fmt b → ¬isSNaNOf fmt a → ¬isSNaNOf fmt b → f fmt mode a b = (defaultNaN fmt, 0))) ∧
    (∀ f ∈ [fRcp, fRsq, fSqrt, fExp2, fLog2, fSin, fCos],
      (isSNaNOf fmt a → f fmt mode a = (defaultNaN fmt, flNV)) ∧
      (isNaNOf fmt a → ¬isSNaNOf fmt a → f fmt mode a = (defaultNaN fmt, 0))) ∧
    (∀ zi : Prop, (zi ↔ ((∃ neg, a = infBits fmt neg) ∧ finValue fmt b = some 0) ∨
        (finValue fmt a = some 0 ∧ ∃ neg, b = infBits fmt neg)) →
      (isSNaNOf fmt a ∨ isSNaNOf fmt b ∨ isSNaNOf fmt c ∨ zi → fFma fmt mode a b c = (defaultNaN fmt, flNV)) ∧
      (isNaNOf fmt a ∨ isNaNOf fmt b ∨ isNaNOf fmt c → ¬isSNaNOf fmt a → ¬isSNaNOf fmt b → ¬isSNaNOf fmt c → ¬zi →
        fFma fmt mode a b c = (defaultNaN fmt, 0))) ∧
    (¬isNaNOf fmt a → ¬isNaNOf fmt b →
      fMinMax false fmt a b = (if orderKey fmt b < orderKey fmt a then b else a, 0) ∧
      fMinMax true fmt a b = (if orderKey fmt a < orderKey fmt b then b else a, 0)) ∧
    (∀ m, (isNaNOf fmt a → isNaNOf fmt b → (fMinMax m fmt a b).1 = defaultNaN fmt) ∧
      (isNaNOf fmt a → ¬isNaNOf fmt b → (fMinMax m fmt a b).1 = b) ∧ (¬isNaNOf fmt a → isNaNOf fmt b → (fMinMax m fmt a b).1 = a) ∧
      (isSNaNOf fmt a ∨ isSNaNOf fmt b → (fMinMax m fmt a b).2 = flNV) ∧
      (¬isSNaNOf fmt a → ¬isSNaNOf fmt b → (fMinMax m fmt a b).2 = 0)) ∧
    (∀ e f, e = a / 2 ^ fracBits fmt % 2 ^ expBits fmt → f = a % 2 ^ fracBits fmt →
      (isSNaNOf fmt a → fCls fmt a = 1) ∧ (isNaNOf fmt a → ¬isSNaNOf fmt a → fCls fmt a = 2) ∧
      (∀ neg, a = infBits fmt neg → fCls fmt a = if neg then 4 else 512) ∧
      (e = 0 → f = 0 → fCls fmt a = if negOf fmt a then 32 else 64) ∧
      (e = 0 → f ≠ 0 → fCls fmt a = if negOf fmt a then 16 else 128) ∧
      (0 < e → e < 2 ^ expBits fmt - 1 → fCls fmt a = if negOf fmt a then 8 else 256))

/-- The instructions that write a predicate (R200, R203, R208, R216): each active thread writes its own bit, every other thread keeps its
bit, and p0 is never one of them. The eight relations of ISET on 32-bit and 64-bit elements, and of FSET with its flags: -0 and +0 are
equal. -/
def Obligations.PredicateResults : Prop :=
  (∀ (i : Instr) (e : PredForm) (k : Nat) (w : Wave) (s : State) (act : Word), predForm i = some e → act = w.st.act e.h → Ready i k w s →
     e.d ≠ 0 ∧
     ∃ t w', exec i s = .next t ∧ t.wave k = some w' ∧ OnlyWave k s t ∧
       Effect (writesOf i) act (joinFlags act fun n => (e.val s w n).2) w w' ∧
       ∀ n, n < 32 → bit (w'.st.p e.d) n = if bit act n then (e.val s w n).1 else bit (w.st.p e.d) n) ∧
  (∀ (n : Nat) (a b : BitVec n), (n = 32 ∨ n = 64) →
     (List.range 8).map (fun c => relation c n a.toNat b.toNat) =
       [a == b, a != b, a.slt b, a.sle b, a.ult b, a.ule b, a &&& b != 0, a &&& b == 0]) ∧
  ∀ fmt a b : Nat, fmt ≤ 3 → a < 2 ^ fwidth fmt → b < 2 ^ fwidth fmt →
    (∀ un eq lt : Prop, (un ↔ isNaNOf fmt a ∨ isNaNOf fmt b) →
      (eq ↔ orderKey fmt a = orderKey fmt b ∨ (finValue fmt a = some 0 ∧ finValue fmt b = some 0)) →
      (lt ↔ orderKey fmt a < orderKey fmt b ∧ ¬eq) →
      ((fSet 0 fmt a b).1 = true ↔ ¬un ∧ eq) ∧ ((fSet 1 fmt a b).1 = true ↔ ¬un ∧ ¬eq) ∧ ((fSet 2 fmt a b).1 = true ↔ ¬un ∧ lt) ∧
      ((fSet 3 fmt a b).1 = true ↔ ¬un ∧ (lt ∨ eq)) ∧ ((fSet 4 fmt a b).1 = true ↔ ¬un) ∧ ((fSet 5 fmt a b).1 = true ↔ un) ∧
      ((fSet 6 fmt a b).1 = true ↔ un ∨ ¬eq) ∧ ((fSet 7 fmt a b).1 = true ↔ un ∨ eq) ∧
      ∀ rel, rel < 8 →
        (isSNaNOf fmt a ∨ isSNaNOf fmt b ∨ (un ∧ (rel = 2 ∨ rel = 3)) → (fSet rel fmt a b).2 = flNV) ∧
        (¬isSNaNOf fmt a → ¬isSNaNOf fmt b → ¬(un ∧ (rel = 2 ∨ rel = 3)) → (fSet rel fmt a b).2 = 0))

/-- PMOV to a register, CVT, and the packing and unpacking of BFP blocks (R203, R210 to R215): consecutive registers in every active thread;
a thread that reads a block with a spare bit set raises the format trap, the lowest one reported. CVT under U = 1 (R187, R211): one scalar. -/
def Obligations.RegisterRunResults : Prop :=
  (∀ (i : Instr) (e : RunForm) (k : Nat) (w : Wave) (s : State) (act : Word), runForm i = some e → act = w.st.act e.h → Ready i k w s →
     (∀ n rest, spareThreads s w i = n :: rest → TrapsAtIssue i s k w 16 1 (some n) none) ∧
     (spareThreads s w i = [] →
       ∃ t w', exec i s = .next t ∧ t.wave k = some w' ∧ OnlyWave k s t ∧
         Effect (writesOf i) act (joinFlags act fun n => e.flags s w n) w w' ∧
         ∀ j n, j < e.n → n < 32 → bit act n = true → w'.lane e.d.lvl.toNat (e.d.idx.toNat + j) n = some (e.val s w n j))) ∧
  (∀ (f : FmtV) (k : Nat) (w : Wave) (s : State) (r : Nat × FFlags), f.h.u = true → Ready (.cvt f) k w s →
     r = cvtElem (cvtS f) (cvtD f) f.rnd.toNat (f.subop.getLsbD 2)
       (cvtTake (cvtS f) (f.subop.getLsbD 0) (srcUnit s w (cvtS f < 4) true (cvtFmt (cvtS f)) f.a 0 0)) →
     ∃ t w', exec (.cvt f) s = .next t ∧ t.wave k = some w' ∧ OnlyWave k s t ∧
       (w.st.act f.h ≠ 0 → Effect (writesOf (.cvt f)) 0 r.2 w w' ∧ w'.st.s f.d.idx.toNat =
         cvtImage (cvtD f) (f.subop.getLsbD 1) true ((srcUnit s w false true 0 (dstSrc f.d) 0 0).truncate 32) r.1) ∧
       (w.st.act f.h = 0 → Effect [] 0 0 w w'))

/-! Random numbers, special registers, status words. -/

/-- RAND (R218): each unit of the block in each active thread is a draw from the wave's SEED, the thread's identifier and its counter,
which rises by one a unit, modulo 2^32; nothing else changes. The identifier, the draw and its elements: the FP ones are exact.
RSEED (R219): with an active thread SEED takes the 64-bit operand and the counters of the active threads are 0; with none nothing
changes but the PC. -/
def Obligations.RandomNumbers : Prop :=
  (∀ (f : FmtV) (k : Nat) (w : Wave) (s : State) (act : Word) (offs : List Nat), Ready (.rand f) k w s → act = w.st.act f.h →
     offs = unitOffs f.fmt.toNat f.d →
     ∃ t w', exec (.rand f) s = .next t ∧ t.wave k = some w' ∧ OnlyWave k s t ∧
       Effect (writesOf (.rand f)) act 0 { w with st := { w.st with ctr := w'.st.ctr } } w' ∧
       (∀ n, n < 32 → w'.st.draws n = if bit act n then (w.st.draws n + offs.length) % 2 ^ 32 else w.st.draws n) ∧
       ∀ j off n x, offs[j]? = some off → n < 32 → bit act n = true →
         x = drawElem (f.subop.getLsbD 0) f.fmt.toNat (draw w.st.seed (drawId s w n) ((w.st.draws n + j) % 2 ^ 32)) →
         w'.lane f.d.lvl.toNat (f.d.idx.toNat + off) n = some (x.truncate 32) ∧
         (f.fmt = 1 → w'.lane f.d.lvl.toNat (f.d.idx.toNat + off + 1) n = some ((x >>> 32).truncate 32))) ∧
  (∀ (f : FmtV) (k : Nat) (w : Wave) (s : State), Ready (.rseed f) k w s →
     (w.st.act f.h = 0 → Leaves (.rseed f) s k { w with st := { w.st with pc := w.st.pc + 12 } }) ∧
     (w.st.act f.h ≠ 0 → ∃ ctr, Leaves (.rseed f) s k { w with st := { w.st with
         seed := read64w s w f.a, ctr := ctr, pc := w.st.pc + 12 } } ∧
       ∀ n, n < 32 → tget ctr n = if bit (w.st.act f.h) n then some 0 else tget w.st.ctr n)) ∧
  (∀ (s : State) (w : Wave) (t wid bx bY bz gx gy : Nat), wid = (special s w 66 t).toNat → bx = (special s w 67 t).toNat →
     bY = (special s w 68 t).toNat → bz = (special s w 69 t).toNat → gx = (special s w 71 t).toNat → gy = (special s w 72 t).toNat →
     drawId s w t = ((bz * gy + bY) * gx + bx) * 1024 + wid * 32 + t) ∧
  (∀ (seed : DWord) (id ctr x y z m : Nat), m = 2 ^ 64 →
     x = (seed.toNat ^^^ id * 0x9E3779B97F4A7C15 % m) ^^^ ctr * 0xD1B54A32D192ED03 % m →
     y = (x ^^^ x / 2 ^ 30) * 0xBF58476D1CE4E5B9 % m → z = (y ^^^ y / 2 ^ 27) * 0x94D049BB133111EB % m →
     (draw seed id ctr).toNat = z ^^^ z / 2 ^ 31) ∧
  ∀ x : DWord, drawElem false 0 x = BitVec.ofNat 64 (x.toNat % 2 ^ 32) ∧ drawElem false 1 x = x ∧
    (∃ r, drawElem true 0 x = BitVec.ofNat 64 r ∧ r < 2 ^ 32 ∧ negOf 0 r = false ∧
      finValue 0 r = some (((x.toNat / 2 ^ 40 : Nat) : ℚ) / 2 ^ 24)) ∧
    ∃ r, drawElem true 1 x = BitVec.ofNat 64 r ∧ r < 2 ^ 64 ∧ negOf 1 r = false ∧
      finValue 1 r = some (((x.toNat / 2 ^ 11 : Nat) : ℚ) / 2 ^ 53)

/-- SRD, LUMQ and MONRD (R371, R372, R426, R427): with an active thread the scalar D takes the word that the register, the reading or the
monitor gives, field by field, and nothing else of the wave changes; with none nothing does. A reading of DCYC is no less than the last (log
9). -/
def Obligations.SpecialReads : Prop :=
  ∀ (f : FmtY) (k : Nat) (w : Wave) (s : State) (i : Instr), (i = .srd f ∨ i = .lumq f ∨ i = .monrd f) → Ready i k w s →
    ∃ t w', exec i s = .next t ∧ t.wave k = some w' ∧ OnlyWave k s t ∧
      (w.st.act f.h = 0 → Effect [] 0 0 w w') ∧
      (w.st.act f.h ≠ 0 → Effect [(3, f.d.idx.toNat)] 0 0 w w' ∧
        (i = .srd f → f.sysn ≠ 1 → w'.st.s f.d.idx.toNat = sysValue s w f.sysn.toNat) ∧
        (i = .srd f → f.sysn = 1 → (t.die (dieOfCore w.core)).cyc ≥ (s.die (dieOfCore w.core)).cyc ∧
          w'.st.s f.d.idx.toNat = BitVec.ofNat 64 (t.die (dieOfCore w.core)).cyc) ∧
        (i = .lumq f → w'.st.s f.d.idx.toNat = BitVec.ofNat 64 (lumWord s w (f.sub.toNat % 8)) ∧
          LumIs s w (f.sub.toNat % 8) (w'.st.s f.d.idx.toNat).toNat) ∧
        (i = .monrd f → w'.st.s f.d.idx.toNat = monValue s w f ∧
          MonIs s w (f.sub.getLsbD 0) (w.st.s f.a.idx.toNat).toNat (w'.st.s f.d.idx.toNat).toNat))

/-- TINFO, ECHK and TALC (R120, R140, R142, R168): the 64-bit word goes to the scalar D under U = 1, else to the registers of D in every
active thread, low word first; further registers take zero, and TINFO and TALC under U = 1 act though no thread is active, both the model's
readings (logs 13 and 18; R120 against R187). TINFO returns the tile-table entry, 0 where the handle names no tile (R106); ECHK the status
or the address of the core's fault record, which with its clearing bit it clears; TALC a status, and with status 0 the handle names a tile
of the shape asked for. -/
def Obligations.StatusReads : Prop :=
  ∀ (f : FmtE) (k : Nat) (w : Wave) (s : State) (i : Instr) (act : Word), (i = .tinfo f ∨ i = .echk f ∨ i = .talc f) →
    act = w.st.act f.h → Ready i k w s →
    ∃ t w', ∃ v : DWord, exec i s = .next t ∧ t.wave k = some w' ∧ t.mem = s.mem ∧ (∀ j, j ≠ k → t.wave j = s.wave j) ∧
      (act = 0 → f.h.u = false ∨ i = .echk f → OnlyWave k s t ∧ Effect [] 0 0 w w') ∧
      (act ≠ 0 ∨ i ≠ .echk f → f.h.u = true → Effect [(3, f.d.idx.toNat)] 0 0 w w' ∧ w'.st.s f.d.idx.toNat = v) ∧
      (f.h.u = false → Effect (writesOf i) act 0 w w' ∧ ∀ j off n, (blockOffs f.d)[j]? = some off → n < 32 → bit act n = true →
        w'.lane f.d.lvl.toNat (f.d.idx.toNat + off) n = some (statusPart v j)) ∧
      (i = .tinfo f → v = tileInfo s w f.t.toNat ∧ OnlyWave k s t ∧ (findTile s w.block f.t.toNat = none → v = 0) ∧
        ∀ id x, findTile s w.block f.t.toNat = some (id, x) → TileEntryIs x v.toNat) ∧
      (i = .echk f → v = (if f.sub.getLsbD 0 then BitVec.ofNat 64 (engineRecord s w.core w.ctx).addr else engineStatus s w.core w.ctx) ∧
        OnlyWave k s t ∧ (f.sub.getLsbD 1 = false → ∀ c, (t.core c).efaults = (s.core c).efaults) ∧
        (f.sub.getLsbD 1 = true → act ≠ 0 → tsorted (s.core w.core).efaults = true → tget (t.core w.core).efaults w.ctx = none)) ∧
      (i = .talc f → act ≠ 0 ∨ f.h.u = true → v.toNat ≤ 4 ∧ (v ≠ 0 → OnlyWave k s t) ∧
        (v = 0 → ∃ id x, findTile t w.block f.t.toNat = some (id, x) ∧ x.lvl = f.lvl.toNat ∧
          x.rows = bitsOf (read32w s w f.a).toNat 9 0 + 1 ∧ x.cols = bitsOf (read32w s w f.a).toNat 19 10 + 1 ∧
          x.ew = bitsOf (read32w s w f.a).toNat 22 20))

/-! Loads and cache control. -/

/-- LD, LDC, LDP, LDL and TLD (R84, R85, R120, R121, R124, R130, R133, R136, R137, R139): the lowest thread whose access fails raises its
trap and no register is written; else every active thread's registers, or under U = 1 the scalar, take the bytes that the access answers,
a code below 4 widened to one word; nothing but caches changes elsewhere. An acquiring LD sets AIV to its
context's CSYNC (R326). LDC under U = 1 acts though no
thread is active, as R120 says (log 18; R187). -/
def Obligations.LoadResults : Prop :=
  ∀ (i : Instr) (e : LoadForm) (k : Nat) (w : Wave) (s : State) (act : Word), loadForm s k w i = some e → act = w.st.act e.h →
    Ready i k w s →
    (∀ x, e.answer = .error x → TrapsAtIssue i s k w x.cause x.sub x.thr x.addr) ∧
    (∀ v, e.answer = .ok v → Calm s w →
      ∃ t w', exec i s = .next t ∧ t.wave k = some w' ∧ OnlyCaches k s t ∧
        (w'.st.aiv ≠ w.st.aiv → ∃ f, i = .ld f ∧ f.sub.toNat / 2 % 4 = 1) ∧
        (∀ f, i = .ld f → f.sub.toNat / 2 % 4 = 1 → act ≠ 0 → w'.st.aiv = ((tget s.ctxs w.ctx).map Ctx.csync).getD 0) ∧
        (e.h.u = true → e.one = none → Effect [] 0 0 { w with st := { w.st with aiv := w'.st.aiv } } w') ∧
        (∀ n, e.h.u = true → e.one = some n → Effect [(3, e.d.idx.toNat)] 0 0 { w with st := { w.st with aiv := w'.st.aiv } } w' ∧
          w'.st.s e.d.idx.toNat = loadedValue e.sz (v n)) ∧
        (e.h.u = false → Effect (writesOf i) act 0 { w with st := { w.st with aiv := w'.st.aiv } } w' ∧
          ∀ j off n, (blockOffs e.d)[j]? = some off → n < 32 → bit act n = true →
            w'.lane e.d.lvl.toNat (e.d.idx.toNat + off) n =
              some (if e.sz < 4 then (loadedValue e.sz (v n)).truncate 32 else wordAt (v n) j)))

/-- One sector of a load (R96 to R99): where the core holds no copy of the sector and no private line, and the wave has nothing on its way to
it, the bytes are those of memory at the translated address, unless the sector is uncorrectable (R440), and then there is no value.
One sector of a store (R83, R96, R101, R312, R314): on a private page memory is unchanged and the bytes stand in the core's own line; on an
SO page the bytes at the translated address are the stored ones and every other byte is kept; on a page of another kind the write may
instead be only sent.
ST, STP, ATOM, RED and REDD when they are performed, on one thread's bytes on a plain page (R114, R127, R130, R136, R298, R300): the bytes or
the atomic's new word are stored, and no others; ATOM under U = 1 delivers the old word, also to the head record. An STP that is out of
bounds is layout fault 3. The launch is not deterministic. -/
def Obligations.HomeAccesses : Prop :=
  (∀ (s : State) (k : Nat) (w : Wave) (fresh : Bool) (x : Part), ptePriv x.p.pte = false →
     tget (s.core w.core).l1 (x.p.pa / 48) = none → (s.core w.core).priv = [] → s.sent = [] → s.early = [] →
     if uncorrectable s x.p.pa then loadPart s k w fresh x = .error ()
     else ∃ t, loadPart s k w fresh x = .ok (t, memRead s.mem x.p.pa x.n) ∧ t.mem = s.mem ∧ t.waves = s.waves ∧
       ∀ c, c ≠ w.core → t.core c = s.core c) ∧
  (∀ (s : State) (k : Nat) (w : Wave) (x : Part) (bs : List Byte), x.p.pa % 48 + bs.length ≤ 48 →
     (ptePriv x.p.pte = true → (s.core w.core).l1.length + (s.core w.core).priv.length < (s.core w.core).splitL * 256 →
       (storePart s k w x bs).mem = s.mem ∧ (storePart s k w x bs).waves = s.waves ∧ (storePart s k w x bs).vigils = s.vigils ∧
       ∃ y, tget ((storePart s k w x bs).core w.core).priv (x.p.pa / 48) = some y ∧ y.dirty = true ∧
         ((tget (s.core w.core).priv (x.p.pa / 48) = none ∨
           ∃ y, tget (s.core w.core).priv (x.p.pa / 48) = some y ∧ y.bytes.length = 48) →
           (y.bytes.drop (x.p.pa % 48)).take bs.length = bs)) ∧
     (ptePriv x.p.pte = false → s.sent = [] → Memory.wf s.mem = true → (storePart s k w x bs).waves = s.waves ∧
       (pteOrd x.p.pte = 0 → Stored s (storePart s k w x bs) x.p.pa bs) ∧
       (Stored s (storePart s k w x bs) x.p.pa bs ∨ ((storePart s k w x bs).mem = s.mem ∧
         ∃ y, (storePart s k w x bs).sent = [y] ∧ y.wave = k ∧ y.pa = x.p.pa ∧ y.bytes = bs ∧ y.red = none)))) ∧
  (∀ (s : State) (k : Nat) (w : Wave), Calm s w → Memory.wf s.mem = true → s.wave k = some w →
     (∀ scope n va bs p, PlainAt s w .store va bs.length p →
       ∃ t, performStore s k w false scope [⟨n, va, bs⟩] = .done t ∧ Stored s t p.pa bs ∧ t.waves = s.waves) ∧
     (∀ n h coord bs r, layUse s w.core w.ctx h = .ok (s, r) →
       (layElem r coord = none → performStp s k w [⟨n, h, coord, bs⟩] = .fault ⟨8, 3, some n, none⟩) ∧
       (∀ a va es p, layElem r coord = some a → es = layEs (layFmt r) → elemAddr a es = .ok va → PlainAt s w .store va es p →
         ∃ t, performStp s k w [⟨n, h, coord, bs⟩] = .done t ∧ Stored s t p.pa ((bs ++ List.replicate 16 0).take es) ∧
           t.waves = s.waves)) ∧
     (∀ which op pk w64 rnd scope dst uni l n p old new, which ≤ 2 → s.isDet w = false → n = atomBytes op pk w64 →
       PlainAt s w .atomic l.va n p → old = leNat (memRead s.mem p.pa n) →
       new = (atomOp op pk w64 rnd old (l.v.toNat % 2 ^ (8 * n)) (l.cmp.toNat % 2 ^ (8 * n))).1 →
       ∃ t, performAtomic s k w which op pk w64 rnd scope 0 dst uni [l] = .done t ∧ Stored s t p.pa (leBytes n new) ∧
         (∀ j, j ≠ k → t.wave j = s.wave j) ∧ (which ≠ 0 → t.wave k = some w) ∧
         (which = 0 → uni = true → t.wave k = some (w.setScalBoth dst.idx.toNat (BitVec.ofNat 64 old)))))

/-- PRF, LAYINV, INVL1 and WBL2 (R134, R144, R146, R147): no register and no byte of memory changes. LAYINV takes one handle's entries, or
all of the context, out of the core's layout cache; INVL1 empties the L1 but for private lines; WBL2 of a misaligned address raises 4, here
before a length of 0 does nothing (log 13), of a page that may not be read its page fault, and else the dirty sectors of the range become
clean and no other sector changes. -/
def Obligations.CacheControl : Prop :=
  ∀ (f : FmtM) (k : Nat) (w : Wave) (s : State),
    (Ready (.prf f) k w s → s.locks = [] → w.queue = [] → Calm s w →
      ∃ t w', exec (.prf f) s = .next t ∧ t.wave k = some w' ∧ OnlyCaches k s t ∧ Effect [] 0 0 w w') ∧
    (Ready (.layinv f) k w s →
      ∃ t, exec (.layinv f) s = .next t ∧ t.wave k = some { w with st := { w.st with pc := w.st.pc + 12 } } ∧ OnlyWave k s t ∧
        ∀ e, e ∈ (t.core w.core).layouts ↔ e ∈ (s.core w.core).layouts ∧
          ¬(w.st.act f.h ≠ 0 ∧ e.ctx = w.ctx ∧ (read32w s w f.a = 0xFFFFFFFF ∨ e.handle = (read32w s w f.a).toNat))) ∧
    (Ready (.invl1 f) k w s →
      ∃ t, exec (.invl1 f) s = .next t ∧ t.wave k = some { w with st := { w.st with pc := w.st.pc + 12 } } ∧ OnlyWave k s t ∧
        (t.core w.core).priv = (s.core w.core).priv ∧ (t.core w.core).l1 = if w.st.act f.h = 0 then (s.core w.core).l1 else []) ∧
    (∀ va n, Ready (.wbl2 f) k w s → va = (w.st.s f.a.idx.toNat).toNat → n = 192 * (read64w s w f.b).toNat →
      (w.st.act f.h = 0 ∨ (va % 192 = 0 ∧ n = 0) → Leaves (.wbl2 f) s k { w with st := { w.st with pc := w.st.pc + 12 } }) ∧
      (w.st.act f.h ≠ 0 → va % 192 ≠ 0 → TrapsAtIssue (.wbl2 f) s k w 4 1 none (some (w.st.s f.a.idx.toNat))) ∧
      (w.st.act f.h ≠ 0 → va % 192 = 0 → n ≠ 0 → ∀ x, readableFail s w va n = some x →
        TrapsAtIssue (.wbl2 f) s k w x.cause x.sub x.thr x.addr) ∧
      (w.st.act f.h ≠ 0 → va % 192 = 0 → n ≠ 0 → readableFail s w va n = none → s.errs = [] → tsorted s.l2 = true →
        (∀ e ∈ s.l2, tsorted e.2.sects = true) →
        ∃ t, exec (.wbl2 f) s = .next t ∧ t.wave k = some { w with st := { w.st with pc := w.st.pc + 12 } } ∧ OnlyCaches k s t ∧
          ∀ x, (l2At t x).map L2Sector.dirty = if x ∈ dirtyIn s w va n then some false else (l2At s x).map L2Sector.dirty))

/-! Queued instructions. -/

/-- Every instruction of class Q (R58, R59, R67, R120, R126, R179) that no check of its own stops and whose strand has room is entered at the end
of its wave's queue with the operands that it read at issue; with no active thread the entry does nothing, but for SEAL and UNSEAL under
U = 1 (R120; log 18). Of the wave only the queue, the far-read marks, the PC and the chain bits of MBEG and MEND (R265) change; nothing is
performed yet, but that an active FENCE `.full` or `.ld` orders the loads after it at once (R306, R317): none of its wave's early reads is
left, and the writes that a release has ordered, both scopes containing both waves, have been performed. -/
def Obligations.QueuedAppends : Prop :=
  ∀ (i : Instr) (k : Nat) (w : Wave) (s : State) (op : QOp) (marks : List Nat) (act : Word) (idle : Bool),
    queuedAs s w i = some (op, marks) → Ready i k w s → act = activeOf w i →
    (idle = true ↔ act = 0 ∧ ∀ f, (i = .seal f ∨ i = .unseal f) → f.h.u = false) → queueFail s w i = none → w.queue.length < 32 →
    ∃ t w', exec i s = .next t ∧ t.wave k = some w' ∧ (∀ j, j ≠ k → t.wave j = s.wave j) ∧
      ((∀ f, i = .fence f → act = 0 ∨ f.sub.toNat % 4 = 2 ∨ ∀ x ∈ s.sent, x.rel = 0) →
        OnlyCaches k s t ∧ ((∀ f, i ≠ .stp f) → OnlyWave k s t)) ∧
      (∀ f, i = .fence f → act ≠ 0 → f.sub.toNat % 4 ≠ 2 → (∀ x ∈ t.early, x.wave ≠ k) ∧
        ∀ x ∈ t.sent, x ∈ s.sent ∧ (x.releasedTo s w.core = false ∨
          ∃ v, s.wave x.wave = some v ∧ inScope f.scope.toNat w.core v.core = false)) ∧
      w' = { w with
        queue := w.queue ++ [⟨w.st.pc, if idle then .nothing else op, act, writesOf i, if idle then [] else marks, none⟩]
        farRead := w'.farRead
        st := { w.st with pc := w.st.pc + 12, chain := (chainAfter w i).1, chainOrd := (chainAfter w i).2 } } ∧
      ∀ r, r ∈ w'.farRead ↔ r ∈ w.farRead ∨ r ∈ farRefs (readsOf i)

/-- An instruction of class Q that fails a check of its own at issue (R85, R125, R137, R165, R244, R254, R265, R296, R300, R301, R360) is
not queued: its trap rolls the strand back. That taper faults 3 and 4 are reported with the lowest taper (log 17), and that an ATOM or RED
of a deterministic launch faults with no thread active (log 12; R301 against R59), are the model's readings. The 33rd queued instruction
of a strand raises the strand-overflow trap, sub-cause 1 (R180, R189; log 13 on R67), at that instruction, whether its guard leaves a
thread active or not. -/
def Obligations.QueuedChecksTrap : Prop :=
  (∀ (i : Instr) (k : Nat) (w : Wave) (s : State) (x : Fail), queueFail s w i = some x → Ready i k w s →
     TrapsAtIssue i s k w x.cause x.sub x.thr x.addr) ∧
  (∀ (i : Instr) (k : Nat) (w : Wave) (s : State) (op : QOp) (marks : List Nat), queuedAs s w i = some (op, marks) →
     queueFail s w i = none → Ready i k w s → w.queue.length ≥ 32 → TrapsAtIssue i s k w 12 1 none none)

/-- A boundary performs its queue (R175, R179): STRAND with one queued entry, none of its far granules absent, that is performed in the
state that steps 1 and 2 leave, gives the machine that the performance leaves, with the queue empty and the wave at its next strand.
What an entry does then: TST writes its bytes of the tile (R139); TFREE frees a tile that nothing uses (R141); LAYSET stores the record and
takes the handle out of every layout cache (R143); SEAL enters its range and UNSEAL removes it, with their statuses (R145); BINIT writes a
fresh barrier object and ARV counts its arrival and bytes, completing the phase with the last (R293 to R295); WAKE releases the first n, in
ticket order, of the queue entries whose condition holds, or all of fewer (R284, R296), and WAKEQ does so after it has stored its value (R296);
FENCE leaves nothing of its wave only sent, and nothing read early (R306); DTOK ends the wave's contributions where its launch keeps the token
order, and has no effect elsewhere (R305); STL writes a word of the core's own line of the private page (R101, R138), which the L1 may write
home at once. -/
def Obligations.StrandPerformsEntry : Prop :=
  (∀ (f : FmtC) (k : Nat) (w w0 w1 : Wave) (s s0 s1 : State) (e : QEntry), Ready (.strand f) k w s → w.victim = false → w.wait = .none →
    w.queue = [e] → absentOf w e.dsts = [] →
    w0 = { w.newHead f.imm (w.st.pc + 12) with residual := [e], queue := [], be := some (.strand f, w.st.pc), parity := 0 } →
    s0 = { s.setWave k w0 with free := s.free + 1 } → performOp s0 k w0 e = .done s1 → s1.wave k = some w1 →
    w1 = { w1 with residual := [e], wait := .none, be := some (.strand f, w.st.pc), lit := true, victim := false } →
    s1.blockRuns w1.block = true →
    ∃ t w', exec (.strand f) s = .next t ∧ t.wave k = some w' ∧ t.mem = s1.mem ∧ t.outbox = s1.outbox ∧ t.ctxs = s1.ctxs ∧
      t.vigils = s1.vigils ∧ t.wakes = s1.wakes ∧ t.tiles = s1.tiles ∧ t.engops = s1.engops ∧ t.seals = s1.seals ∧
      (∀ j, j ≠ k → t.wave j = s1.wave j) ∧ w'.st = w1.st ∧ w'.head = w1.head ∧ w'.queue = [] ∧ w'.residual = [] ∧ w'.be = none ∧
      w'.wick = [] ∧ w'.far = w1.far ∧ w'.bank = w1.bank ∧ SampledBy (dieOfCore w.core) 5 1 s1 t) ∧
  (∀ (s : State) (w : Wave) (h lvl n row col : Nat) (bs : List Byte),
    (∀ x, tilePlace s w h lvl row col bs.length true = .error x →
      performTst s w h lvl [(n, row, col, bs)] = .fault ⟨7, x, some n, none⟩) ∧
    (∀ id off x, tilePlace s w h lvl row col bs.length true = .ok (id, off) → tget s.tiles id = some x → tsorted s.tiles = true →
      tsorted x.data = true →
      ∃ t y, performTst s w h lvl [(n, row, col, bs)] = .done t ∧ tget t.tiles id = some y ∧ y = { x with data := y.data } ∧
        (∀ i, i < bs.length → tget y.data (off + i) = bs[i]?) ∧
        (∀ a, a < off ∨ off + bs.length ≤ a → tget y.data a = tget x.data a) ∧
        (∀ j, j ≠ id → tget t.tiles j = tget s.tiles j) ∧ t.mem = s.mem ∧ t.waves = s.waves)) ∧
  (∀ (s : State) (w : Wave) (h lvl : Nat),
    (findTile s w.block h = none → performTfree s w h lvl = .done s) ∧
    (∀ id x, findTile s w.block h = some (id, x) →
      (x.lvl ≠ lvl → performTfree s w h lvl = .fault ⟨7, 3, none, none⟩) ∧
      (x.lvl = lvl → x.bd ≠ 0 ∨ x.bs ≠ 0 → performTfree s w h lvl = .wait s none .boundary) ∧
      (x.lvl = lvl → x.bd = 0 → x.bs = 0 → lvl ≠ 2 ∨ (s.core w.core).steps = [] → tsorted s.tiles = true →
        ∃ t, performTfree s w h lvl = .done t ∧ (∀ j, tget t.tiles j = if j = id then none else tget s.tiles j) ∧ t.mem = s.mem ∧
          t.waves = s.waves))) ∧
  (∀ (s : State) (k : Nat) (w : Wave) (h : Nat) (record : List Byte),
    (∀ f, layAddr s w.ctx h = .error f → performLayset s k w h record = .fault f) ∧
    (∀ va p, layAddr s w.ctx h = .ok va → record.length = 48 → PlainAt s w .store va 48 p → Calm s w → Memory.wf s.mem = true →
      ∃ t, performLayset s k w h record = .done t ∧ Stored s t p.pa record ∧ t.waves = s.waves ∧
        ∀ c e, e ∈ (t.core c).layouts → ¬(e.ctx = w.ctx ∧ e.handle = h))) ∧
  (∀ (s : State) (k : Nat) (w : Wave) (e : QEntry) (base lines : Nat) (dst : Dst) (uni good : Bool), e.stage = none → s.wave k = some w →
    (good = true ↔ base % 192 = 0 ∧ 0 < lines ∧ lines ≤ 2 ^ 24 ∧ base + 192 * lines ≤ vlim) →
    (good = false → performSeal s k w e base lines dst uni = .done (s.setWave k (w.statusBoth uni dst e.act 3)) ∧
      performUnseal s k w e base lines dst uni = .done (s.setWave k (w.statusBoth uni dst e.act 3))) ∧
    (good = true →
      (s.seals.contains ⟨w.ctx, base, lines⟩ = false →
        performUnseal s k w e base lines dst uni = .done (s.setWave k (w.statusBoth uni dst e.act 1)) ∧
        (s.seals.length ≥ 64 → performSeal s k w e base lines dst uni = .done (s.setWave k (w.statusBoth uni dst e.act 1))) ∧
        (s.seals.length < 64 → (s.seals.filter fun x => x.ctx = w.ctx).length ≥ 16 →
          performSeal s k w e base lines dst uni = .done (s.setWave k (w.statusBoth uni dst e.act 2)))) ∧
      (s.seals.contains ⟨w.ctx, base, lines⟩ = true ∨
          (s.seals.length < 64 ∧ (s.seals.filter fun x => x.ctx = w.ctx).length < 16) → s.locks = [] → s.sent = [] →
        ∃ t, performSeal s k w e base lines dst uni = .done t ∧ t.mem = s.mem ∧
          (∀ x, x ∈ t.seals ↔ x ∈ s.seals ∨ x = ⟨w.ctx, base, lines⟩) ∧ t.wave k = some (w.statusBoth uni dst e.act 0) ∧
          ∀ j, j ≠ k → t.wave j = s.wave j) ∧
      (s.seals.contains ⟨w.ctx, base, lines⟩ = true →
        ∃ t, performUnseal s k w e base lines dst uni = .done t ∧ t.mem = s.mem ∧
          (∀ x, x ∈ t.seals ↔ x ∈ s.seals ∧ x ≠ ⟨w.ctx, base, lines⟩) ∧ t.wave k = some (w.statusBoth uni dst e.act 0) ∧
          ∀ j, j ≠ k → t.wave j = s.wave j))) ∧
  (∀ (s : State) (k : Nat) (w : Wave) (ref : DWord) (o : Bool) (pa : Nat) (b : Bar), barOfRef s w ref = .ok (.mem pa, o) → Calm s w →
    Memory.wf s.mem = true → s.wave k = some w → b = barAt s (.mem pa) →
    (∀ reload,
      (b.wreg ≠ 0 ∨ b.drn = true → performBinit s k w ref reload = .fault ⟨19, 2, none, none⟩) ∧
      (b.wreg = 0 → b.drn = false → reload % 2 ^ 16 = 0 → performBinit s k w ref reload = .fault ⟨19, 4, none, none⟩) ∧
      (b.wreg = 0 → b.drn = false → reload % 2 ^ 16 ≠ 0 → ∃ t, performBinit s k w ref reload = .done t ∧
        barAt t (.mem pa) = ⟨0, reload % 2 ^ 16, reload % 2 ^ 16, 0, 0, 0, false, false, 0⟩ ∧ t.waves = s.waves ∧
        ∀ a, a < pa ∨ pa + 16 ≤ a → memByte t.mem a = memByte s.mem a)) ∧
    (∀ e bytes scope dst pr, e.stage = none → s.isDet w = false → hasSteps s k w = false →
      (b.drn = true → ∃ t, performArv s k w e ref bytes scope dst pr = .done t ∧ t.mem = s.mem ∧
        t.wave k = some (w.arvResult dst pr (BitVec.ofNat 64 b.phase))) ∧
      (b.drn = false → b.arrive = 0 → performArv s k w e ref bytes scope dst pr = .fault ⟨19, 3, none, none⟩) ∧
      (b.drn = false → b.arrive ≠ 0 → ∃ t, performArv s k w e ref bytes scope dst pr = .done t ∧
        barAt t (.mem pa) = { b with arrive := b.arrive - 1, bytes := (b.bytes + bytes.toNat) % 2 ^ 32 }.landed 0 ∧
        (∀ a, a < pa ∨ pa + 16 ≤ a → memByte t.mem a = memByte s.mem a) ∧
        t.wave k = some (w.arvResult dst pr (BitVec.ofNat 64 (b.phase + 2 ^ 16 + if b.arrive = 1 then 2 ^ 17 else 0))) ∧
        ∀ j, j ≠ k → t.wave j = s.wave j))) ∧
  (∀ (s : State) (k : Nat) (w : Wave) (va n scope : Nat) (p : Place), wakePlace s w.core w.ctx va 4 .load = .ok p → Calm s w →
    hasSteps s k w = false →
    ∃ t l, performWake s k w va n scope = .done t ∧ t.mem = s.mem ∧ t.waves = s.waves ∧ t.wakes = s.wakes ++ l ∧
      ∀ due, due = (tvals s.vigils).filter (fun v => v.kind = .queue && v.loc = .mem p.pa && v.holds s) → l.length = min n due.length ∧
        (∀ x ∈ l, ∃ v ∈ due, v.waiter = x.waiter ∧ x.value = v.value s ∧ x.flag = true) ∧
        ∀ v ∈ due, (∃ x ∈ l, x.waiter = v.waiter) ∨ ∀ x ∈ l, ∃ u ∈ due, u.waiter = x.waiter ∧ u.ticket ≤ v.ticket) ∧
  (∀ (s : State) (k : Nat) (w : Wave) (kind scope : Nat), s.wave k = some w → hasSteps s k w = false →
    ∃ t, performFence s k w kind scope = .done t ∧ (kind = 0 ∨ kind = 2 → ∀ x ∈ t.sent, x.wave ≠ k) ∧
      (kind ≠ 2 → ∀ x ∈ t.early, x.wave ≠ k) ∧ (∀ j, j ≠ k → t.wave j = s.wave j) ∧ (s.sent = [] → t.mem = s.mem)) ∧
  (∀ (s : State) (k : Nat) (w : Wave) (va n scope len : Nat) (v : DWord) (w64 : Bool) (p : Place), len = (if w64 then 8 else 4) →
    Calm s w → Memory.wf s.mem = true → s.wave k = some w → hasSteps s k w = false → (∀ x ∈ tvals s.vigils, x.kind = .queue) →
    wakePlace s w.core w.ctx va len .store = .ok p → pteOrd p.pte = 0 → sealedBy s w.ctx va len = false → s.locks = [] →
    va % 48 + len ≤ 48 →
    ∃ t l, performWakeq s k w va v w64 n scope = .done t ∧ Stored s t p.pa (leBytes len v.toNat) ∧ t.waves = s.waves ∧
      t.wakes = s.wakes ++ l ∧
      ∀ due, due = (tvals s.vigils).filter (fun x => x.loc = .mem p.pa && x.holds t) → l.length = min n due.length ∧
        (∀ x ∈ l, ∃ u ∈ due, u.waiter = x.waiter ∧ x.value = u.value t ∧ x.flag = true) ∧
        ∀ u ∈ due, (∃ x ∈ l, x.waiter = u.waiter) ∨ ∀ x ∈ l, ∃ y ∈ due, y.waiter = x.waiter ∧ y.ticket ≤ u.ticket) ∧
  (∀ (s : State) (k : Nat) (w : Wave), s.wave k = some w →
    ((∀ la, s.launchOf w = some la → la.det = false ∨ la.dord = true) → performDtok s k w = .done s) ∧
    (∀ la, s.launchOf w = some la → la.det = true → la.dord = false →
      ∃ t, performDtok s k w = .done t ∧ t.wave k = some { w with dtok := true } ∧ (∀ j, j ≠ k → t.wave j = s.wave j) ∧
        ((∀ e ∈ s.blocks, e.2.redd = []) → t.mem = s.mem))) ∧
  (∀ (s : State) (k n va : Nat) (w : Wave) (e : QEntry) (bs : List Byte) (p : Place), e.op = .store .stl false 0 [⟨n, va, bs⟩] →
    bs.length = 4 → Calm s w → Memory.wf s.mem = true → va % 48 + 4 ≤ 48 → xlate s (.lsu w.core) w.ctx va .store = .ok p →
    ptePriv p.pte = true → p.pa % 48 + 4 ≤ 48 → sealedBy s w.ctx va 4 = false → s.locks = [] →
    (s.core w.core).l1.length < (s.core w.core).splitL * 256 →
    ∃ t, performOp s k w e = .done t ∧ t.waves = s.waves ∧
      ((t.mem = s.mem ∧ ∃ y, tget (t.core w.core).priv (p.pa / 48) = some y ∧ y.dirty = true ∧
          y.bytes = (memRead s.mem (p.pa / 48 * 48) 48).take (p.pa % 48) ++ bs ++ (memRead s.mem (p.pa / 48 * 48) 48).drop (p.pa % 48 + 4)) ∨
        Stored s t p.pa bs))

/-- A queued entry that fails when it is performed (R125, R182, R366, R368), here the first of a STRAND's queue: the failure is
delivered with WHEN = 1, RQ and BE, the entry's PC in EPC and the next strand in ERES, and the unperformed entries are the residual queue
that the handler's ERET performs. -/
def Obligations.StrandEntryFails : Prop :=
  ∀ (f : FmtC) (k : Nat) (w w0 : Wave) (s s0 : State) (e : QEntry) (rest : List QEntry) (x : Fail), Ready (.strand f) k w s →
    w.victim = false → w.wait = .none → w.queue = e :: rest → absentOf w e.dsts = [] →
    w0 = { w.newHead f.imm (w.st.pc + 12) with residual := e :: rest, queue := [], be := some (.strand f, w.st.pc), parity := 0 } →
    s0 = { s.setWave k w0 with free := s.free + 1 } → performOp s0 k w0 e = .fault x → trapToHost s w x.cause = false →
    ∃ t w', exec (.strand f) s = .next t ∧ t.wave k = some w' ∧ OnlyWave k s t ∧
      AtHandler (handlerEntry s w) w0.st w0 w' x.cause x.sub 1 x.thr e.pc (w.st.pc + 12) true true ∧
      w'.bank = w0.bank ∧ w'.fresidual = e :: rest ∧ w'.fbe = some (.strand f, w.st.pc) ∧ (∀ a, x.addr = some a → w'.eaddr = a)

/-- SWR when it is performed (R89, R238, R281, R325, R330, R371, R372): a value with a reserved bit set, or an address that breaks its
register's alignment, is privilege fault 4. FPSTAT takes its value, also in the head record; ASTAT loses the flags written as 1; ERES and the
FRAME registers change the wave's saved state; RDCTL takes EN and MODE, its OVF is written 1 to clear and its ERR ends when EN rises; another
context register takes its value and no other does. XLBASE, once written, and XLINV begin an invalidation, for which the boundary
waits; QCTL of a queue whose descriptor is uncorrectable is the soft-error fault
(R440), of one that is not the context's, or with operation 3, privilege fault 5, else the queue control acts. -/
def Obligations.SystemWrites : Prop :=
  ∀ (s : State) (k : Nat) (w : Wave) (e : QEntry) (n : Nat) (a b : DWord), s.wave k = some w → e.stage = none →
    (n ≠ 0x42 → sysRefused n a = true → performSwr s k w e n a b = .fault ⟨2, 4, none, none⟩) ∧
    (n = 0x20 → sysRefused n a = false → performSwr s k w e n a b = .done (s.setWave k { w with
      st := { w.st with fpstat := a.truncate 5 }, head := { w.head with fpstat := a.truncate 5 } })) ∧
    (n ∈ [0x40, 0x43, 0x44, 0x45, 0x46, 0x47, 0x48, 0x49, 0x4B, 0x4C, 0x4D, 0x4E, 0x4F] → sysRefused n a = false →
      (tget s.ctxs w.ctx).isSome = true →
      ∃ t, performSwr s k w e n a b = .done t ∧ t.ctxReg w.ctx n = a ∧ t.mem = s.mem ∧ t.waves = s.waves ∧
        ∀ c m, (c, m) ≠ (w.ctx, n) → t.ctxReg c m = s.ctxReg c m) ∧
    (∀ c old, n = 0x4A → sysRefused n a = false → tget s.ctxs w.ctx = some c → old = s.ctxReg w.ctx 0x4A →
      ∃ t, performSwr s k w e n a b = .done t ∧ t.mem = s.mem ∧ t.waves = s.waves ∧
        (t.ctxReg w.ctx 0x4A).getLsbD 0 = a.getLsbD 0 ∧ (t.ctxReg w.ctx 0x4A).getLsbD 1 = a.getLsbD 1 ∧
        (t.ctxReg w.ctx 0x4A).getLsbD 2 = (old.getLsbD 2 && !a.getLsbD 2) ∧
        (t.ctxReg w.ctx 0x4A).getLsbD 3 = (old.getLsbD 3 && !(a.getLsbD 0 && !old.getLsbD 0)) ∧
        ∀ c m, (c, m) ≠ (w.ctx, 0x4A) → t.ctxReg c m = s.ctxReg c m) ∧
    (∀ c, n = 0x21 → sysRefused n a = false → tget s.ctxs w.ctx = some c →
      ∃ t, performSwr s k w e n a b = .done t ∧ tget t.ctxs w.ctx = some { c with astat := c.astat &&& ~~~(a.truncate 5) } ∧
        t.mem = s.mem ∧ t.waves = s.waves ∧ ∀ j, j ≠ w.ctx → tget t.ctxs j = tget s.ctxs j) ∧
    (n = 0x32 → sysRefused n a = false → performSwr s k w e n a b = .done (s.setWave k { w with eres := a })) ∧
    (∀ fr, w.frame = some fr → sysRefused n a = false →
      (0x100 ≤ n → n ≤ 0x13F →
        performSwr s k w e n a b = .done (s.setWave k { w with frame := some (fr.setS (n - 0x100) a) })) ∧
      (0x141 ≤ n → n ≤ 0x147 →
        performSwr s k w e n a b = .done (s.setWave k { w with frame := some (fr.setP (n - 0x140) (a.truncate 32)) })) ∧
      (n = 0x150 → performSwr s k w e n a b = .done (s.setWave k { w with frame := some { fr with fpstat := a.truncate 5 } }))) ∧
    (n = 0x42 →
      (a.toNat ≥ 2 ^ 42 → performSwr s k w e n a b = .fault ⟨2, 4, none, none⟩) ∧
      (a.toNat < 2 ^ 42 → ∃ x, performSwr s k w e n a b = .wait { s with xlinvs := s.xlinvs ++ [x] } (some x.id) .inval ∧
        x = ⟨x.id, w.ctx, a.toNat, b.toNat % 2 ^ 32, some k, none⟩ ∧ ∀ y ∈ s.xlinvs, y.id ≠ x.id)) ∧
    (n = 0x41 → sysRefused n a = false → (tget s.ctxs w.ctx).isSome = true →
      ∃ t x, performSwr s k w e n a b = .wait t (some x.id) .inval ∧ t.xlinvs = s.xlinvs ++ [x] ∧
        x = ⟨x.id, w.ctx, 0, 0, some k, none⟩ ∧ t.ctxReg w.ctx 0x41 = a ∧ t.mem = s.mem) ∧
    (∀ i, performSwr s k w { e with stage := some i } n a b =
      if s.xlinvs.any fun x => x.id = i then .wait s (some i) .inval else .done s) ∧
    (n = 0x50 → sysRefused n a = false → performSwr s k w e n a b =
      if descBad s (a.toNat % 1024) = true then .fault ⟨26, 3, none, none⟩
      else if qdCtx (queueDesc s (a.toNat % 1024)) ≠ w.ctx ∨ a.toNat / 1024 = 3 then .fault ⟨2, 5, none, none⟩
      else .done (queueControl s (a.toNat % 1024) (a.toNat / 1024)).1)

/-! Matrix and bin instructions at issue. -/

/-- GANG and MRD (R260, R263 to R266, R270, R356, R365): GANG in an open chain, or of a wave formed from a bin, or with a mask that lacks its own
wave or names more than 6, traps; else GANG.MASK takes the mask and GANG.SEQ is 0. MRD of a handle that is no such tile, or of one that its
own strand has queued, traps; while a step on the tile is queued it stays where it is; one that reads an uncorrectable word of a tile that
is not poisoned traps; else it writes the row of each live thread. Of several sub-causes the lowest is raised (log 13); an MRD that waits
leaves nothing (logs 2 and 19).
MBEG, MEND, MZERO, MWR, MSCL and MMA when they are performed (R252, R255 to R259, R265, R268): an MBEG lays its fixed point behind the wave's
queued steps; a MEND waits for its chain's steps and then merges their flags; a tile that does not fit its role faults; the others hand a step
to the core's matrix queue, or wait for room; of a gang the members wait at their latch, whose last arrival, if all agree, hands the joint
step over. -/
def Obligations.GangAndRead : Prop :=
  (∀ (f : FmtX) (k : Nat) (w : Wave) (s : State) (m : Word), m = read32w s w f.a →
     (Ready (.gang f) k w s →
       (w.st.chain = true → TrapsAtIssue (.gang f) s k w 17 3 none none) ∧
       (w.st.chain = false → m ≠ 0 → (w.isBin = true ∨ bit m w.wid = false ∨ (threads m).length > 6) →
         TrapsAtIssue (.gang f) s k w 17 4 none none) ∧
       (w.st.chain = false → m = 0 ∨ (w.isBin = false ∧ bit m w.wid = true ∧ (threads m).length ≤ 6) →
         Leaves (.gang f) s k { w with st := { w.st with gmask := m, gseq := 0, pc := w.st.pc + 12 } })) ∧
     (Ready (.mrd f) k w s →
       (∀ n, maTileFault s w.block f.tc.toNat (some (f.fc.toNat, rowBlock f)) = some n →
         TrapsAtIssue (.mrd f) s k w (n / 16) (n % 16) none none) ∧
       (maTileFault s w.block f.tc.toNat (some (f.fc.toNat, rowBlock f)) = none →
         (tileQueued w f.tc.toNat = true → TrapsAtIssue (.mrd f) s k w 17 9 none none) ∧
         (tileQueued w f.tc.toNat = false → mrdHeld s w f.tc.toNat = true → Leaves (.mrd f) s k w) ∧
         (∀ id x (bad : Nat → Prop), tileQueued w f.tc.toNat = false → mrdHeld s w f.tc.toNat = false →
           findTile s w.block f.tc.toNat = some (id, x) →
           (∀ n, bad n ↔ tileWordsBad s id (((32 * rowBlock f + n) * x.cols + 8 * colGroup f) * fcBytes f.fc.toNat)
             (8 * fcBytes f.fc.toNat) = true) →
           (x.poison = false → (∃ n ∈ threads w.st.live, bad n) → TrapsAtIssue (.mrd f) s k w 26 4 none none) ∧
           (x.poison = true ∨ (∀ n ∈ threads w.st.live, ¬bad n) →
             ∃ t w', exec (.mrd f) s = .next t ∧ t.wave k = some w' ∧ OnlyWave k s t ∧
               Effect (writesOf (.mrd f)) w.st.live 0 w w' ∧
               ∀ j n, j < mrdRegs f.fc → n < 32 → bit w.st.live n = true → w'.lane f.a.lvl.toNat (f.a.idx.toNat + j) n =
                 some (wordAt (mrdBytes s id x f.fc.toNat (rowBlock f) (colGroup f) n) j)))))) ∧
  ∀ (s : State) (k : Nat) (w : Wave) (e : QEntry) (x : Core) (r : Done), e.stage = none → s.wave k = some w → x = s.core w.core →
    r = performOp s k w e →
    (e.op = .mbeg → ∃ t, r = .done t ∧ t.waves = s.waves ∧ t.mem = s.mem ∧ t.tiles = s.tiles ∧
      (t.core w.core).steps = x.steps.map fun y => if k ∈ y.members then { y with behind := y.behind + 1 } else y) ∧
    (e.op = .mend →
      ((∃ y ∈ x.steps, k ∈ y.members ∧ y.inChain = true ∧ (k ∈ y.handler ↔ w.st.pl1 = true)) → r = .wait s none .steps) ∧
      ((∀ y ∈ x.steps, k ∈ y.members → y.inChain = true → ¬(k ∈ y.handler ↔ w.st.pl1 = true)) → r = .done (s.setWave k { w with
        mflags := 0, st := { w.st with fpstat := w.st.fpstat ||| w.mflags }
        head := { w.head with fpstat := w.head.fpstat ||| w.mflags } }))) ∧
    (∀ h inChain awaits form, (e.op = .mzero h inChain ∧ awaits = false ∧ form = none) ∨
        (∃ rc cq fc regs, e.op = .mwr h rc cq fc regs inChain ∧ awaits = false ∧ form = some (fc, rc)) ∨
        (∃ rc fc rnd al, e.op = .mscl h rc fc rnd al inChain ∧ awaits = true ∧ form = some (fc, rc)) →
      (findTile s w.block h = none → r = .fault ⟨7, 1, none, none⟩) ∧
      ∀ id y, findTile s w.block h = some (id, y) →
        (y.lvl ≠ 2 ∨ (∃ fc rc, form = some (fc, rc) ∧ (ewBytes y.ew ≠ fcBytes fc ∨ y.rows ≤ 32 * rc)) → r = .fault ⟨17, 6, none, none⟩) ∧
        (y.lvl = 2 → (∀ fc rc, form = some (fc, rc) → ewBytes y.ew = fcBytes fc ∧ 32 * rc < y.rows) →
          StepEnters s k w e inChain true awaits r)) ∧
    ∀ o inChain ord g mine, e.op = .mma o inChain ord → g = (threads o.mask).length →
      mine = (⟨k, w.st.pl1, ((threads o.mask).filter fun u => u < w.wid).length, o, inChain, ord⟩ : Arrival) →
      (g ≤ 1 → (∀ f, MmaFails s w.block 1 o f → r = .fault ⟨f.1, f.2, none, none⟩) ∧
        (MmaOk s w.block 1 o → StepEnters s k w e inChain (ord || s.isDet w) true r)) ∧
      (2 ≤ g → (∀ l ∈ x.latches, ¬(l.block = w.block ∧ l.mask = o.mask ∧ l.seq = w.st.gseq)) →
        (x.latches.length ≥ 8 → r = .wait s none .boundary) ∧
        (x.latches.length < 8 → (∀ v ∈ s.waves, v.2.block = w.block → v.2.isBin = false → bit o.mask v.2.wid = true → v.2.wait ≠ .ended) →
          ∃ t, r = .wait t (some w.st.gseq.toNat) .latch ∧ t.mem = s.mem ∧ t.tiles = s.tiles ∧ (t.core w.core).steps = x.steps ∧
            t.wave k = some { w with st := { w.st with gseq := w.st.gseq + 1 }, head := { w.head with gseq := w.head.gseq + 1 } } ∧
            (∀ j, j ≠ k → t.wave j = s.wave j) ∧ (t.core w.core).latches = x.latches ++ [⟨w.block, o.mask, w.st.gseq, [mine], none, []⟩])) ∧
      (∀ l, 2 ≤ g → l ∈ x.latches → l.block = w.block → l.mask = o.mask → l.seq = w.st.gseq → l.failed = none → k ∉ l.done →
        (∀ l' ∈ x.latches, l'.block = w.block → l'.mask = o.mask → l'.seq = w.st.gseq → l' = l) →
        (∀ a ∈ l.arrivals, a.wave ≠ k ∧ a.pos ≠ mine.pos) → l.arrivals.length + 1 = g →
        ((∃ a ∈ l.arrivals, ¬Agree a mine) → ∃ t, r = .faultIn t ⟨17, 7, none, none⟩) ∧
        ((∀ a ∈ l.arrivals, Agree a mine) → (∀ f, MmaFails s w.block g o f → ∃ t, r = .faultIn t ⟨f.1, f.2, none, none⟩) ∧
          (MmaOk s w.block g o → x.steps.length < 32 → (∀ i, i < g → ∃ a ∈ mine :: l.arrivals, a.pos = i) →
            ∃ t y, r = (if inChain then .done t else .wait t (some w.st.gseq.toNat) .steps) ∧
              StepQueued s t w y inChain (ord || s.isDet w) ∧ (t.core w.core).latches = x.latches.erase l ∧
              (∀ j, j ∈ y.members ↔ ∃ a ∈ mine :: l.arrivals, a.wave = j) ∧
              (∀ j, j ∈ y.handler ↔ ∃ a ∈ mine :: l.arrivals, a.pl1 = true ∧ a.wave = j) ∧
              y.rows.length = g ∧ ∀ a ∈ mine :: l.arrivals, y.rows[a.pos]? = some a.op)))

/-- BINCFG (R163, R359): the block's bin timer takes the low 16 bits of its operand; with no active thread nothing happens. A flush of the
entry's bin, where there is one that holds a thread and was not refused before, makes it a wave of the block at the entry, or, without room,
refuses it, and it keeps its threads; a bin refused before is left as it is, and an empty one, which no run has, is left out. It completes
in every case. -/
def Obligations.BinControl : Prop :=
  ∀ (f : FmtE) (k : Nat) (w : Wave) (s : State) (x : Block) (y : Core), Ready (.bincfg f) k w s → tget s.blocks w.block = some x →
    y = s.core w.core →
    (w.st.act f.h = 0 → Leaves (.bincfg f) s k { w with st := { w.st with pc := w.st.pc + 12 } }) ∧
    (w.st.act f.h ≠ 0 →
      ∃ t, exec (.bincfg f) s = .next t ∧ t.wave k = some { w with st := { w.st with pc := w.st.pc + 12 } } ∧ t.mem = s.mem ∧
        (∀ j v, j ≠ k → s.wave j = some v → t.wave j = some v) ∧ (∀ b, b ≠ w.block → tget t.blocks b = tget s.blocks b) ∧
        tget t.blocks w.block = some (if f.sub.getLsbD 1 then { x with binTimer := (read32w s w f.b).toNat % 2 ^ 16 } else x) ∧
        ((f.sub.getLsbD 0 = false ∨
            ∀ e ∈ y.bins, e.2.block = w.block → e.2.entry = (w.st.s f.a.idx.toNat).toNat → e.2.refused.isSome = true) →
          (t.core w.core).bins = y.bins ∧ ∀ j, j ≠ k → t.wave j = s.wave j) ∧
        (∀ i b, f.sub.getLsbD 0 = true →
          y.bins.find? (fun e => e.2.block = w.block && e.2.entry = (w.st.s f.a.idx.toNat).toNat) = some (i, b) →
          tget y.bins i = some b → b.refused = none → b.threads ≠ [] →
          (∃ b', tget (t.core w.core).bins i = some b' ∧ b'.refused.isSome = true ∧ b'.threads = b.threads) ∨
            ∃ k' w', k' ≠ k ∧ s.wave k' = none ∧ t.wave k' = some w' ∧ w'.isBin = true ∧ w'.block = w.block ∧
              w'.st.pc = BitVec.ofNat 64 b.entry ∧ w'.core = w.core ∧ w'.st.live = maskOf fun n => n < b.threads.length))

/-! Steps of the power control and of the internal activities. -/

/-- LUMEN_ROTATION, SIDE_RESERVATION, WAVE_STARVATION (R410, R412): a rotation begins at side 0, the core takes its refill in up to 256
lumens, what does not fit is returned, and no other core changes; the sides denied in 4 rotations join the end of their core's reserved
sides, the one denied longest first, on a tie the lower; a wave that could issue and was passed over in 4 is starved. A step that is not due
changes nothing. -/
def Obligations.RotationSteps : Prop :=
  ∀ s : State,
    (∀ c, c < 192 → (s.core c).lumens ≤ 256 →
      ∃ t, exec (.lumenRotation c) s = .next t ∧ (t.core c).pass = 0 ∧ (t.core c).lumens = min 256 ((s.core c).lumens + (s.core c).refill) ∧
        (t.core c).lumens + (t.core c).returned = (s.core c).lumens + (s.core c).refill + (s.core c).returned ∧
        (t.core c).cycles = (s.core c).cycles + 4 ∧ (∀ j, j ≠ c → t.core j = s.core j) ∧ t.mem = s.mem ∧ t.blocks = s.blocks) ∧
    (∀ c, 192 ≤ c → exec (.lumenRotation c) s = .next s) ∧
    (∀ sd, (768 ≤ sd ∨ (s.side sd).denied < 4 ∨ sd % 4 ∈ (s.core (sd / 4)).reserved) → exec (.sideReservation sd) s = .next s) ∧
    (∀ sd, sd < 768 → (s.side sd).denied ≥ 4 → sd % 4 ∉ (s.core (sd / 4)).reserved →
      ∃ t l, exec (.sideReservation sd) s = .next t ∧
        (∀ i, i ∈ l ↔ i < 4 ∧ (s.side (4 * (sd / 4) + i)).denied ≥ 4 ∧ i ∉ (s.core (sd / 4)).reserved) ∧
        l.Pairwise (fun a b => (s.side (4 * (sd / 4) + a)).denied > (s.side (4 * (sd / 4) + b)).denied ∨
          (s.side (4 * (sd / 4) + a)).denied = (s.side (4 * (sd / 4) + b)).denied ∧ a < b) ∧
        t.core (sd / 4) = { s.core (sd / 4) with reserved := (s.core (sd / 4)).reserved ++ l } ∧
        (∀ j, j ≠ sd / 4 → t.core j = s.core j) ∧ t.waves = s.waves ∧ t.mem = s.mem) ∧
    (∀ k w, s.wave k = some w → canIssue s k w = true → w.starve ≥ 4 →
      exec (.waveStarvation k) s = .next (s.setWave k { w with starved := true })) ∧
    (∀ k, (s.wave k = none ∨ ∃ w, s.wave k = some w ∧ (canIssue s k w = false ∨ w.starve < 4)) →
      exec (.waveStarvation k) s = .next s)

/-- DIE_TICK (R282, R414): dies 0 to 3 are the compute dies and 4 the hub. A compute die's tick counts a microsecond, gives each of its cores
a refill of 8 to 32 lumens, takes one from the budget of every timed vigil of its waves and counts their waits; a hub tick counts a
microsecond of the hub. Memory and the other dies' cores are kept.
STALL_WINDOW_END (R423): at the end of a window of 10 microseconds a side's stall word takes the number of the window and its three ratios to
the window's cycles in 1/65,536, saturated, and the counts begin again; that a side's turn is one cycle is the model's choice (log 9).
MONITOR_SAMPLE (R437, R438): a unit that is enabled takes a sample into its minimum, its maximum and the bin of the shifted value, which stops
at 4,095; what sources 0 to 4 show of the state, and when, is the model's choice (log 9). Source 5 is sampled at strand boundaries
(StrandBoundary) and source 6, the corrected errors of a microsecond, at a compute die's tick, and at no other step. -/
def Obligations.TickSteps : Prop :=
  (∀ s : State,
     (∀ d, d < 4 → ∃ t, exec (.dieTick d) s = .next t ∧ t.mem = s.mem ∧ (t.die d).usec = (s.die d).usec + 1 ∧
       (t.die d).corrected = 0 ∧ (t.die d).correctedUs = (s.die d).corrected ∧ SampledBy d 6 (s.die d).corrected s t ∧
       (∀ j, j ≠ d → (t.die j).usec = (s.die j).usec) ∧ (∀ c, c / 48 = d → 8 ≤ (t.core c).refill ∧ (t.core c).refill ≤ 32) ∧
       (∀ c, c / 48 ≠ d → t.core c = s.core c) ∧
       (∀ k, t.wave k = (s.wave k).map fun w =>
         if dieOfCore w.core = d ∧ w.wait = .vigil then { w with waited := w.waited + 1 } else w) ∧
       (∀ n k v w, tget s.vigils n = some v → v.waiter = .wave k → s.wave k = some w → dieOfCore w.core = d → v.timed = true →
         tget t.vigils n = some { v with budget := v.budget - 1 }) ∧
       (∀ n v, tget s.vigils n = some v → v.timed = false → tget t.vigils n = some v)) ∧
     (∃ t, exec (.dieTick 4) s = .next t ∧ t.hubUs = s.hubUs + 1 ∧ t.mem = s.mem ∧ t.waves = s.waves ∧ t.dies = s.dies ∧
       t.cores = s.cores) ∧
     (∀ d, 4 < d → exec (.dieTick d) s = .next s)) ∧
  (∀ s : State,
     (∀ sd n x, sd < 768 → n = (s.die (sd / 4 / 48)).usec / 10 → x = s.side sd →
       (n ≤ x.winUs → exec (.stallWindowEnd sd) s = .next s) ∧
       (n > x.winUs → ∃ t, exec (.stallWindowEnd sd) s = .next t ∧
         (t.side sd).stall.toNat = n % 2 ^ 16 * 2 ^ 48 + min 65535 (x.lums * 65536 / x.cycles) * 2 ^ 32 +
           min 65535 (x.opnd * 65536 / x.cycles) * 2 ^ 16 + min 65535 (x.iss * 65536 / x.cycles) ∧
         t.side sd = { x with stall := (t.side sd).stall, winUs := n, cycles := 0, lums := 0, opnd := 0, iss := 0 } ∧
         (∀ j, j ≠ sd → t.side j = s.side j) ∧ t.waves = s.waves ∧ t.mem = s.mem)) ∧
     (∀ d u v, (∀ c, tget (s.die d).capture u = some c → c.en = false) → exec (.monitorSample d u v) s = .next s) ∧
     (∀ d u v c, tget (s.die d).capture u = some c → c.src = 5 ∨ c.src = 6 → exec (.monitorSample d u v) s = .next s) ∧
     (∀ d u v c x, tget (s.die d).capture u = some c → c.en = true → c.src ≠ 5 → c.src ≠ 6 →
       x = (if c.src = 2 then sliceEntries s (48 * d + v % 48) else if c.src = 4 then (s.core (48 * d + v % 48)).lumens else v) % 2 ^ 32 →
       ∃ t c', exec (.monitorSample d u v) s = .next t ∧ tget (t.die d).capture u = some c' ∧ Sampled c c' x ∧
         (∀ j, j ≠ d → t.die j = s.die j) ∧ t.mem = s.mem ∧ t.waves = s.waves))

/-- BUDGET_UNIT_EXPIRY, POWER_LIMIT_ADJUST, QUAD_CLASS_CHANGE, RETENTION_ENTRY, SELF_REFRESH, BANK_REFRESH and SCRUB_SECTOR (R70, R415, R417,
R439, R440): units that have made 3 hops go; every share falls by the step, never below 96; a change of class ends; a quad without waves
enters retention, or one leaves it; the refresh steps and the scrub touch no value that a program reads.
RETENTION_LOSS (R386): a quad in retention that loses a context's banked state leaves it; the context is halted with RLOSS set and its
slots are lost, and its owner is told with cause 27, sub-cause 1. Of the management context, or of a quad that is not in retention,
nothing is lost. That every slot of the context is lost, and that the notify names slot 0, is the model's choice (log 23).
OPCLS when it is performed (R425): statuses 4, 1 and 2 move nothing; else the quads of its mask that are its queue's, hold no resident wave and
are granted to no other queue are moved to the class, and the status says which. -/
def Obligations.PowerSteps : Prop :=
  (∀ s : State,
     (∀ d, d < 4 → ∃ t, exec (.budgetUnitExpiry d) s = .next t ∧ (∀ j, j ≠ d → t.die j = s.die j) ∧
       t.die d = { s.die d with left := (s.die d).left.filter fun e => e.2 < 3 } ∧ t.cores = s.cores ∧ t.mem = s.mem) ∧
     (∀ step, ∃ t, exec (.powerLimitAdjust step) s = .next t ∧ t.cores = s.cores ∧ t.mem = s.mem ∧
       ∀ d, t.die d = if d < 4 then { s.die d with share := max 96 ((s.die d).share - step) } else s.die d) ∧
     (∀ q, ∃ t, exec (.quadClassChange q) s = .next t ∧ t.quad q = { s.quad q with chg := 0 } ∧ t.mem = s.mem ∧ t.waves = s.waves ∧
       ∀ j, j ≠ q → t.quad j = s.quad j) ∧
     (∀ q, q < 48 → ∃ t, exec (.retentionEntry q) s = .next t ∧ (∀ j, j ≠ q → t.quad j = s.quad j) ∧ t.mem = s.mem ∧
       t.waves = s.waves ∧
       t.quad q = { s.quad q with retention := !(s.quad q).retention && !quadWaves s q }) ∧
     exec .selfRefresh s = .next { s with selfRefresh := !s.selfRefresh } ∧
     (∀ b, ∃ t, exec (.bankRefresh b) s = .next t ∧ t = { s with refreshing := t.refreshing } ∧
       ∀ x, x ∈ t.refreshing ↔ (if x = b then x ∉ s.refreshing else x ∈ s.refreshing)) ∧
     (∀ x, exec (.scrubSector x) s = .next s)) ∧
  (∀ (s : State) (q ctx : Nat) (c : Ctx),
     ((s.quad q).retention = false ∨ tget s.ctxs ctx = none ∨ ctx = 4095 → exec (.retentionLoss q ctx) s = .next s) ∧
     ((s.quad q).retention = true → tget s.ctxs ctx = some c → ctx ≠ 4095 →
       ∃ t c', exec (.retentionLoss q ctx) s = .next t ∧ tget t.ctxs ctx = some c' ∧ c'.halted = true ∧ c'.rloss = true ∧
         c'.lost = c.slots ∧ (t.quad q).retention = false ∧
         ∃ m ∈ t.outbox, m.typ = 6 ∧ m.ctx = BitVec.ofNat 12 ctx ∧ m.cmd = 27 ∧ m.arg = BitVec.ofNat 64 (2 ^ 52))) ∧
  (∀ (s : State) (k : Nat) (w : Wave) (kk m : DWord) (dst : Nat) (la : Launch) (x : Queue) (give : Nat → Done) (Free : Nat → Prop),
     s.wave k = some w → s.launchOf w = some la → tget s.queues la.queue = some x →
     (∀ v, give v = .done (s.setWave k (w.setScalBoth dst (BitVec.ofNat 64 (v * 2 ^ 61))))) →
     (∀ q, Free q ↔ qdPmask x.desc / 2 ^ q % 2 = 1 ∧ (∀ e ∈ s.waves, quadOfCore e.2.core = q → s.residentBlock e.2.block = false) ∧
       ((s.quad q).grant = none ∨ (s.quad q).grant = some la.queue)) →
     (kk.toNat ≥ 8 ∨ m.toNat ≥ 2 ^ 48 → performOpcls s k w kk m dst = give 4) ∧
     (kk.toNat < 8 → m.toNat < 2 ^ 48 →
       ((∃ q, m.getLsbD q = true ∧ kk.toNat < (s.quad q).vfloor) → performOpcls s k w kk m dst = give 1) ∧
       ((∀ q, m.getLsbD q = true → (s.quad q).vfloor ≤ kk.toNat) →
         ((∃ q, m.getLsbD q = true ∧ (s.quad q).vceil < kk.toNat) → performOpcls s k w kk m dst = give 2) ∧
         ((∀ q, m.getLsbD q = true → kk.toNat ≤ (s.quad q).vceil) →
           ∃ t v, performOpcls s k w kk m dst = .done t ∧ t.wave k = some (w.setScalBoth dst v) ∧ t.mem = s.mem ∧
             (∀ j, j ≠ k → t.wave j = s.wave j) ∧ (∀ q, q < 48 → (v.getLsbD q = true ↔ m.getLsbD q = true ∧ Free q)) ∧
             bitsOf v.toNat 60 48 = 0 ∧ ((∀ q, m.getLsbD q = true → Free q) → bitsOf v.toNat 63 61 = 0) ∧
             ((∃ q, m.getLsbD q = true ∧ ¬Free q) → bitsOf v.toNat 63 61 = 3) ∧
             ∀ q, (m.getLsbD q = true → Free q → t.quad q = if (s.quad q).cls = kk.toNat then s.quad q else
                 { s.quad q with cls := kk.toNat, chg := 1 }) ∧
               (m.getLsbD q = false ∨ ¬Free q → t.quad q = s.quad q)))))

/-! The fabric. -/

/-- FABRIC_READ and FABRIC_WRITE (R430 to R432, R435, R440): a message for another node, or to a module that has not started, is not taken
(the model's reading, log 22); a malformed one is answered with status 1, one in minimal mode 5, one to no context 4, one from a node that
may not make it 2; a place that does not translate 3 with its sub-cause, or 6 where the walk meets an uncorrectable entry, a sealed range
3 with 9, an uncorrectable read or waiting entry 6. Else a read answers the bytes, what a release at `.pod` or `.sys` has ordered before it
performed (R131), and a write stores them and no others. A page that did not translate leaves the hub's cache (R86). The management
context reaches the queue table, the first 48 KiB of it: its own node all of it, the owner of a queue's context by a write the queue's TAIL
word, but for one of an uncorrectable descriptor, which is answered with 6. -/
def Obligations.FabricAccesses : Prop :=
  ∀ (s : State) (m : Msg),
    (taken s m = false → exec (.fabricRead m) s = .next s ∧ exec (.fabricWrite m) s = .next s) ∧
    (∀ wr i n, (wr = false ∧ i = .fabricRead m ∧ m.typ = 0 ∨ wr = true ∧ i = .fabricWrite m ∧ m.typ = 2) → n = msgBytes m →
      taken s m = true →
      (accessBad m wr = true → exec i s = .next (reply s m (m.typ + 1) 1 [])) ∧
      (accessBad m wr = false → s.minimal = true → exec i s = .next (reply s m (m.typ + 1) 5 [])) ∧
      (accessBad m wr = false → s.minimal = false → tget s.ctxs m.ctx.toNat = none → exec i s = .next (reply s m (m.typ + 1) 4 [])) ∧
      (∀ c, accessBad m wr = false → s.minimal = false → tget s.ctxs m.ctx.toNat = some c → m.ctx ≠ 4095 → c.owner ≠ m.src.toNat →
        exec i s = .next (reply s m (m.typ + 1) 2 [])) ∧
      (∀ tail own : Prop, (tail ↔ wr = true ∧ m.va.toNat / 48 < 1024 ∧ m.va.toNat % 48 ≥ 44 ∧ m.va.toNat % 48 + n ≤ 48) →
        (own ↔ tail ∧ qdCtx (queueDesc s (m.va.toNat / 48)) ≠ 4095 ∧
          ∃ c, tget s.ctxs (qdCtx (queueDesc s (m.va.toNat / 48))) = some c ∧ c.owner = m.src.toNat) →
        accessBad m wr = false → s.minimal = false → (tget s.ctxs 4095).isSome = true → m.ctx = 4095 →
        (m.src.toNat ≠ s.mgmtNode →
          (tail → descBad s (m.va.toNat / 48) = true → exec i s = .next (reply s m (m.typ + 1) 6 [])) ∧
          (¬(tail ∧ descBad s (m.va.toNat / 48) = true) → ¬own → exec i s = .next (reply s m (m.typ + 1) 2 []))) ∧
        (m.src.toNat = s.mgmtNode → m.va.toNat ≥ 49152 → exec i s = .next (reply s m (m.typ + 1) (3 + 16 * 2) [])))) ∧
    (∀ n pa, m.typ = 0 → taken s m = true → accessBad m false = false → s.minimal = false → n = msgBytes m →
      (∀ c e, tget s.ctxs m.ctx.toNat = some c → m.ctx ≠ 4095 → c.owner = m.src.toNat →
        xlate s .hub m.ctx.toNat m.va.toNat .load = .error e →
        exec (.fabricRead m) s = .next (reply
          { s with tlb := s.tlb.filter fun e => !(e.cache = .hub && e.maps m.ctx.toNat (pageNo m.va.toNat)) } m 1
          (if e = 0 then 6 else 3 + 16 * e) [])) ∧
      ((∃ c p, tget s.ctxs m.ctx.toNat = some c ∧ m.ctx ≠ 4095 ∧ c.owner = m.src.toNat ∧
          xlate s .hub m.ctx.toNat m.va.toNat .load = .ok p ∧ pa = p.pa) ∨
        ((tget s.ctxs 4095).isSome = true ∧ m.ctx = 4095 ∧ m.src.toNat = s.mgmtNode ∧ m.va.toNat < 49152 ∧
          pa = s.qtBase + m.va.toNat) →
        ((∀ x ∈ s.sent, x.rel < 6) →
          (accessErrs s pa n = true → exec (.fabricRead m) s = .next (reply s m 1 6 [])) ∧
          (accessErrs s pa n = false → ∃ t r, exec (.fabricRead m) s = .next t ∧ t.outbox = s.outbox ++ [r] ∧ r.typ = 1 ∧
            r.dst = m.src ∧ r.arg = 0 ∧ r.data.take n = memRead s.mem pa n ∧ t.mem = s.mem ∧ t.waves = s.waves ∧ t.blocks = s.blocks)) ∧
        (s.errs = [] → (∀ d, (s.die d).poison = []) → ∃ t r, exec (.fabricRead m) s = .next t ∧ t.outbox = s.outbox ++ [r] ∧ r.typ = 1 ∧
          r.dst = m.src ∧ r.arg = 0 ∧ r.data.take n = memRead t.mem pa n ∧ t.waves = s.waves ∧
          ∀ x ∈ t.sent, x.rel ≥ 6 → x.pa + x.bytes.length ≤ pa ∨ pa + n ≤ x.pa))) ∧
    (∀ n pa, m.typ = 2 → taken s m = true → accessBad m true = false → s.minimal = false → n = msgBytes m →
      (∀ c e, tget s.ctxs m.ctx.toNat = some c → m.ctx ≠ 4095 → c.owner = m.src.toNat →
        xlate s .hub m.ctx.toNat m.va.toNat .store = .error e →
        exec (.fabricWrite m) s = .next (reply
          { s with tlb := s.tlb.filter fun e => !(e.cache = .hub && e.maps m.ctx.toNat (pageNo m.va.toNat)) } m 3
          (if e = 0 then 6 else 3 + 16 * e) [])) ∧
      (∀ c p, tget s.ctxs m.ctx.toNat = some c → m.ctx ≠ 4095 → c.owner = m.src.toNat →
        xlate s .hub m.ctx.toNat m.va.toNat .store = .ok p → sealedBy s m.ctx.toNat m.va.toNat n = true →
        exec (.fabricWrite m) s = .next (reply s m 3 (3 + 16 * 9) [])) ∧
      ((∃ c p, tget s.ctxs m.ctx.toNat = some c ∧ m.ctx ≠ 4095 ∧ c.owner = m.src.toNat ∧
          xlate s .hub m.ctx.toNat m.va.toNat .store = .ok p ∧ sealedBy s m.ctx.toNat m.va.toNat n = false ∧ pa = p.pa) ∨
        ((tget s.ctxs 4095).isSome = true ∧ m.ctx = 4095 ∧ m.va.toNat < 49152 ∧ pa = s.qtBase + m.va.toNat ∧
          (m.src.toNat = s.mgmtNode ∨ (descBad s (m.va.toNat / 48) = false ∧ m.va.toNat % 48 ≥ 44 ∧ m.va.toNat % 48 + n ≤ 48 ∧
            qdCtx (queueDesc s (m.va.toNat / 48)) ≠ 4095 ∧
            ∃ c, tget s.ctxs (qdCtx (queueDesc s (m.va.toNat / 48))) = some c ∧ c.owner = m.src.toNat))) →
        (vigilErr s (.mem pa) n = true → exec (.fabricWrite m) s = .next (reply s m 3 6 [])) ∧
        (vigilErr s (.mem pa) n = false → Memory.wf s.mem = true →
          ∃ t r, exec (.fabricWrite m) s = .next t ∧ t.outbox = s.outbox ++ [r] ∧ r.typ = 3 ∧ r.dst = m.src ∧ r.arg = 0 ∧
            t.waves = s.waves ∧ t.blocks = s.blocks ∧ (∀ i, i < n → some (memByte t.mem (pa + i)) = m.data[i]?) ∧
            ∀ a, a < pa ∨ pa + n ≤ a → memByte t.mem a = memByte s.mem a)))

/-- INFO, ATTEST, FWLOAD, MONCFG and FABRIC_UNKNOWN_COMMAND (R430, R433, R435, R436, R438): INFO answers the reason, the mode, the failed starts
and ARCHID; ATTEST uses a signature that is never used again and is answered 5 when none is left, and else by one command response with the
report, behind which its signature follows in messages of at most 8 data flits; FWLOAD is for the management node, reads the image from its
sender line by line, and stores it only if it is signed and no older than the fuses allow; MONCFG sets its unit on every compute die; a
code that no command has is answered with status 1, and in minimal mode all but four commands 5. The report's order, how its signature is
sent, where the bytes that the reads return stand (log 8), that MONCFG sets every compute die, and that status 2 comes before 1 (log 22)
are the model's choices. -/
def Obligations.ModuleCommands : Prop :=
  ∀ (s : State) (m : Msg),
    (Commanded s m 1 → exec (.info m) s =
      .next (reply s m 5 (s.reason % 256 * 2 ^ 56 + (if s.minimal then 2 ^ 54 else 0) + s.fails % 4 * 2 ^ 52 + 0x01070100) [])) ∧
    (Commanded s m 0x0B → s.sigIndex ≥ 2 ^ 40 → exec (.attest m) s = .next (reply s m 5 5 [])) ∧
    (∀ r, Commanded s m 0x0B → s.sigIndex < 2 ^ 40 → r = leBytes 4 s.nodeId ++ leBytes 8 s.serial.toNat ++ leBytes 4 0x01070100 ++
        s.romDigest ++ s.fwDigest ++ s.fuseDigest ++ leBytes 1 s.fails ++ leBytes 8 m.arg.toNat →
      ∃ m0 l z z', exec (.attest m) s = .next { s with sigIndex := s.sigIndex + 1, outbox := s.outbox ++ m0 :: l } ∧ z < 24 ∧ z' < 24 ∧
        m0.typ = 5 ∧ m0.dst = m.src ∧ m0.arg = 0 ∧ m0.data = r ++ List.replicate z 0 ∧
        (r.length ≤ 192 → m0.len.toNat ≤ 8 ∧ m0.data.length = 24 * m0.len.toNat) ∧
        l.flatMap Msg.data = hssSign s.sigIndex r ++ List.replicate z' 0 ∧
        ∀ x ∈ l, x.typ = 1 ∧ x.dst = m.src ∧ x.arg = 0 ∧ x.len.toNat ≤ 8 ∧ x.data.length = 24 * x.len.toNat) ∧
    (Commanded s m 0x0C →
      (m.src.toNat ≠ s.mgmtNode → exec (.fwload m) s = .next (reply s m 5 2 [])) ∧
      (m.src.toNat = s.mgmtNode → m.arg.toNat ≥ 2 ^ 32 ∨ m.data.length ≠ m.arg.toNat → exec (.fwload m) s = .next (reply s m 5 1 [])) ∧
      (m.src.toNat = s.mgmtNode → m.arg.toNat < 2 ^ 32 → m.data.length = m.arg.toNat → ∃ l s1, s1 = { s with outbox := s.outbox ++ l } ∧
        exec (.fwload m) s = .next (if imageSigned s m.data = false then reply s1 m 5 (7 + 16 * 1) []
          else if Config.imageVersion m.data < s.minVersion then reply s1 m 5 (7 + 16 * 2) []
          else reply { s1 with nextFw := m.data } m 5 0 []) ∧
        (∀ x ∈ l, x.typ = 0 ∧ x.dst = m.src ∧ x.len = 0) ∧
        (m.va.toNat + m.arg.toNat ≤ 2 ^ 57 → (∀ x ∈ l, x.va.toNat % 192 + x.arg.toNat < 192) ∧
          ∀ i, i < m.arg.toNat → ∃ x ∈ l, x.va.toNat ≤ m.va.toNat + i ∧ m.va.toNat + i ≤ x.va.toNat + x.arg.toNat))) ∧
    (∀ a, Commanded s m 0x0A → a = m.arg.toNat →
      (m.src.toNat ≠ s.mgmtNode → exec (.moncfg m) s = .next (reply s m 5 2 [])) ∧
      (m.src.toNat = s.mgmtNode → a ≥ 2 ^ 16 ∨ bitsOf a 8 8 = 1 ∨ a % 256 ≥ 7 → exec (.moncfg m) s = .next (reply s m 5 1 [])) ∧
      (m.src.toNat = s.mgmtNode → a < 2 ^ 16 → bitsOf a 8 8 = 0 → a % 256 < 7 →
        (tget s.ctxs m.ctx.toNat = none → exec (.moncfg m) s = .next (reply s m 5 4 [])) ∧
        ((tget s.ctxs m.ctx.toNat).isSome = true → ∃ t, exec (.moncfg m) s = .next t ∧ t.mem = s.mem ∧ t.waves = s.waves ∧
          ∀ d, d < 4 → ∃ c, tget (t.die d).capture (m.va.toNat % 64) = some c ∧ c.ctx = m.ctx.toNat ∧ c.src = a % 256 ∧
            c.shift = bitsOf a 13 9 ∧ (c.en = true ↔ bitsOf a 14 14 = 1)))) ∧
    (taken s m = true → (m.typ = 4 ∧ (m.cmd = 0 ∨ m.cmd.toNat > 0x0D)) ∨ m.typ.toNat ≥ 7 →
      exec (.fabricUnknownCommand m) s = .next (reply s m 5 1 [])) ∧
    (∀ code i, (code = 2 ∧ i = .createctx m ∨ code = 3 ∧ i = .killctx m ∨ code = 4 ∧ i = .haltctx m ∨ code = 5 ∧ i = .runctx m ∨
        code = 6 ∧ i = .resume m ∨ code = 7 ∧ i = .resumedrop m ∨ code = 8 ∧ i = .fabricXlinv m ∨ code = 9 ∧ i = .fabricQctl m ∨
        code = 0x0A ∧ i = .moncfg m) → taken s m = true → m.typ = 4 → m.cmd.toNat = code →
      (m.len ≠ 0 → exec i s = .next (reply s m 5 1 [])) ∧
      (m.len = 0 → s.minimal = true → exec i s = .next (reply s m 5 5 [])))

/-- RESET and START_UP (R346, R413, R433, R435): RESET is for the management node, in minimal mode too, and after it the module takes nothing
until a start ends. A start that completes leaves no wave, block or launch, the management context alone and every quad in the permitted
class nearest to 4, and runs the firmware that was stored; one that fails, at the first two steps by the stored image, counts, with its
reason, and the third in a row enters minimal mode. Memory after a start (log 5), how an image is read (log 8) and that a module that has
not started takes no message (log 22) are the model's choices. -/
def Obligations.Restart : Prop :=
  ∀ (s : State) (m : Msg),
    (Commanded s m 0x0D → m.src.toNat ≠ s.mgmtNode → exec (.resetCmd m) s = .next (reply s m 5 2 [])) ∧
    (Commanded s m 0x0D → m.src.toNat = s.mgmtNode → ∃ t r, exec (.resetCmd m) s = .next t ∧ t.started = false ∧
      t.outbox = s.outbox ++ [r] ∧ r.typ = 5 ∧ r.dst = m.src ∧ r.arg = 0 ∧ ∀ m', exec (.fabricRead m') t = .next t) ∧
    (∀ n, s.started = true ∨ n > 9 → exec (.startUp n) s = .next s) ∧
    (∀ n r, s.started = false → n ≤ 9 → r = (if s.nextFw = [] then n else if imageSigned s s.nextFw = false then 1
        else if Config.imageVersion s.nextFw < s.minVersion then 2 else n) →
      ∃ t, exec (.startUp n) s = .next t ∧ t.waves = [] ∧ t.blocks = [] ∧
        t.launches = [] ∧ (∀ c, (tget t.ctxs c).isSome = true ↔ c = 4095) ∧ t.outbox = s.outbox ∧ t.sigIndex = s.sigIndex ∧
        (∀ q, (t.quad q).cls = max (t.quad q).vfloor (min (t.quad q).vceil 4)) ∧
        (r = 0 → t.started = true ∧ t.minimal = false ∧ t.fails = 0 ∧ t.reason = 0 ∧ t.nextFw = [] ∧
          t.fwDigest = if s.nextFw = [] then s.fwDigest else sha256 s.nextFw) ∧
        (r ≠ 0 → t.fails = min 3 (s.fails + 1) ∧ t.reason = r ∧ t.nextFw = s.nextFw ∧ (t.started = true ↔ s.fails ≥ 2) ∧
          (t.minimal = true ↔ s.fails ≥ 2)))

/-- The commands on a context (R89, R330, R370, R372, R386, R432, R433, R442): to no context they are answered 4, to the management context
5 or 2, from a node that does not own it 2, and after a loss of its state all but KILLCTX 5. HALTCTX halts; RUNCTX makes the accesses that
had failed again, among them a stranded block's write-out and a header's, after which the notify that waited for it is sent, and lets the
context run when they and its CFLAGS write succeed; RESUME and RESUMEDROP give an escalated block back, the second without its residual
queue; KILLCTX leaves none of the context's waves, blocks, launches, vigils, engine operations, seals or translations, stops its queues and
takes their grants away, and leaves no capture unit of its number, and no context; XLINV begins an invalidation and is answered when it
ends; QCTL enables, disables or restarts a queue of the context. Which status comes first where two apply is the model's choice (log 22). -/
def Obligations.ContextCommands : Prop :=
  ∀ (s : State) (m : Msg) (n : Nat), n = m.ctx.toNat →
    (∀ code i, (code = 3 ∧ i = .killctx m ∨ code = 4 ∧ i = .haltctx m ∨ code = 5 ∧ i = .runctx m ∨ code = 6 ∧ i = .resume m ∨
        code = 7 ∧ i = .resumedrop m ∨ code = 8 ∧ i = .fabricXlinv m ∨ code = 9 ∧ i = .fabricQctl m) → Commanded s m code →
      (tget s.ctxs n = none → exec i s = .next (reply s m 5 4 [])) ∧
      (∀ c, tget s.ctxs n = some c → n = 4095 → exec i s = .next (reply s m 5 (if m.src.toNat = s.mgmtNode then 5 else 2) [])) ∧
      (∀ c, tget s.ctxs n = some c → n ≠ 4095 → m.src.toNat ≠ c.owner → exec i s = .next (reply s m 5 2 [])) ∧
      (∀ c, tget s.ctxs n = some c → n ≠ 4095 → m.src.toNat = c.owner → c.rloss = true → code ≠ 3 →
        exec i s = .next (reply s m 5 5 []))) ∧
    (∀ c, tget s.ctxs n = some c → n ≠ 4095 → m.src.toNat = c.owner →
      (Commanded s m 3 → tsorted s.ctxs = true → ∃ t, exec (.killctx m) s = .next t ∧ tget t.ctxs n = none ∧
        (∀ e ∈ t.blocks, e.2.ctx ≠ n) ∧ (∀ e ∈ t.launches, e.2.ctx ≠ n) ∧ (∀ e ∈ t.engops, e.2.ctx ≠ n) ∧ (∀ e ∈ t.seals, e.ctx ≠ n) ∧
        (∀ e ∈ t.tlb, e.ctx ≠ n) ∧ (∀ e ∈ t.xlinvs, e.ctx ≠ n) ∧ (∀ d ∈ t.dies, ∀ e ∈ d.2.capture, e.2.ctx ≠ n) ∧
        (tsorted s.waves = true → ∀ e ∈ t.waves, e.2.ctx ≠ n) ∧
        (tsorted s.vigils = true → (∀ e ∈ s.vigils, e.1 = e.2.id) → ∀ e ∈ t.vigils, e.2.ctx ≠ n) ∧
        (tsorted s.queues = true → Memory.wf s.mem = true → ∀ q x, tget s.queues q = some x → qdCtx x.desc = n →
          (∃ y, tget t.queues q = some y ∧ qdStop y.desc = true ∧ y.running = none) ∧ qdStop (queueDesc t q) = true ∧
          ∀ i, (t.quad i).grant ≠ some q)) ∧
      (Commanded s m 4 → c.rloss = false → ∃ t c', exec (.haltctx m) s = .next t ∧ tget t.ctxs n = some c' ∧ c'.halted = true) ∧
      (∀ s1 s2, Commanded s m 5 → c.rloss = false → s1 = s.modCtx n (fun c => { c with failed := [] }) →
        s2 = s1.modCtx n (fun c => { c with halted := false }) →
        (c.failed = [] → ∀ u, saWrite s2 n (c.sabase + 20) (leBytes 4 0) = .ok u →
          ∃ t c', exec (.runctx m) s = .next t ∧ tget t.ctxs n = some c' ∧ c'.halted = false ∧ t.waves = s.waves) ∧
        (c.failed = [] → ∀ e, saWrite s2 n (c.sabase + 20) (leBytes 4 0) = .error e →
          ∃ t c', exec (.runctx m) s = .next t ∧ tget t.ctxs n = some c' ∧ c'.halted = c.halted ∧ c'.failed ≠ []) ∧
        (∀ f k e, c.failed = [f] → f.redo = .read k → saRead s1 n f.va k = .error e →
          ∃ t c', exec (.runctx m) s = .next t ∧ tget t.ctxs n = some c' ∧ c'.halted = c.halted ∧ c'.failed ≠ [] ∧ t.waves = s.waves) ∧
        (∀ f k bs s3 u, c.failed = [f] → f.redo = .read k → saRead s1 n f.va k = .ok bs → s3 = saTouch s1 n f.va k →
          saWrite (s3.modCtx n fun c => { c with halted := false }) n (c.sabase + 20) (leBytes 4 0) = .ok u →
          ∃ t c', exec (.runctx m) s = .next t ∧ tget t.ctxs n = some c' ∧ c'.halted = false ∧ c'.failed = [] ∧ t.waves = s.waves) ∧
        (∀ f b x, c.failed = [f] → tget s.blocks b = some x → x.ctx = n →
          (f.redo = .swap b ∧ x.status = .stranded ∧ (swapOutRaw s1 b x.strandAs).2 = none) ∨
            (f.redo = .header b ∧ ∃ u, tryHeader s1 b = .ok u) →
          ∃ t y, exec (.runctx m) s = .next t ∧ tget t.blocks b = some y ∧ (f.redo = .swap b → y.status = x.strandAs) ∧
            ∀ cause arg, x.notice = some (cause, arg) → y.notice = none ∧ ∃ m ∈ t.outbox, m.typ = 6 ∧ m.ctx = BitVec.ofNat 12 n ∧
              m.cmd = BitVec.ofNat 8 cause ∧ m.arg = arg)) ∧
      (∀ drop i, c.rloss = false → (drop = false ∧ i = .resume m ∧ Commanded s m 6 ∨ drop = true ∧ i = .resumedrop m ∧ Commanded s m 7) →
        (m.arg.toNat ≥ 2 ^ 14 → exec i s = .next (reply s m 5 1 [])) ∧
        (m.arg.toNat < 2 ^ 14 → (∀ e ∈ s.blocks, ¬(e.2.ctx = n ∧ e.2.slot = m.arg.toNat ∧ e.2.status = .escalated)) →
          exec i s = .next (reply s m 5 5 [])) ∧
        (∀ b x, m.arg.toNat < 2 ^ 14 → s.blocks.find? (fun e => e.2.ctx = n && e.2.slot = m.arg.toNat && e.2.status = .escalated) =
            some (b, x) → tget s.blocks b = some x →
          (x.lost = true → exec i s = .next (reply s m 5 5 [])) ∧
          (∀ s1 dropped, x.lost = false →
            dropped = (fun w : Wave => if w.residual = [] then { w with fresidual := [] } else { w with residual := [] }) →
            s1 = (if drop then s.modWave x.escKey (fun w => if w.block = b then dropped w else w)
              else s).setBlock b { x with status := .swapped } →
            ∃ t, exec i s = .next t ∧ tget t.blocks b = some { x with status := .swapped } ∧
              ∀ u, tryHeader s1 b = .ok u → t.waves = s1.waves ∧
                (drop = true → ∀ w, s.wave x.escKey = some w → w.block = b → t.wave x.escKey = some (dropped w)) ∧
                (drop = false → t.waves = s.waves)))) ∧
      (Commanded s m 8 → c.rloss = false →
        (m.arg.toNat ≥ 2 ^ 32 ∨ pageOff m.va.toNat ≠ 0 → exec (.fabricXlinv m) s = .next (reply s m 5 1 [])) ∧
        (m.arg.toNat < 2 ^ 32 → pageOff m.va.toNat = 0 → ∃ t x, exec (.fabricXlinv m) s = .next t ∧ t = { s with xlinvs := s.xlinvs ++ [x] } ∧
          x.ctx = n ∧ x.base = pageNo m.va.toNat ∧ x.count = m.arg.toNat ∧ x.wave = none ∧ x.reply.isSome = true)) ∧
      (∀ q op d, Commanded s m 9 → c.rloss = false → q = m.arg.toNat % 1024 → op = m.arg.toNat / 1024 → d = queueDesc s q →
        (op ≥ 3 → exec (.fabricQctl m) s = .next (reply s m 5 1 [])) ∧
        (op < 3 → descBad s q = true → exec (.fabricQctl m) s = .next (reply s m 5 6 [])) ∧
        (descBad s q = false →
        (op < 3 → qdCtx d ≠ n → exec (.fabricQctl m) s = .next (reply s m 5 2 [])) ∧
        (op = 0 → qdCtx d = n → descRefused d = true → exec (.fabricQctl m) s = .next (reply s m 5 5 [])) ∧
        (op = 0 → qdCtx d = n → descRefused d = false → Memory.wf s.mem = true →
          ∃ t x, exec (.fabricQctl m) s = .next t ∧ tget t.queues q = some x ∧ qdEn x.desc = true ∧ x.desc = queueDesc t q ∧
            x.taken = qdTail d ∧ x.running = (tget s.queues q).bind Queue.running ∧ t.waves = s.waves) ∧
        (op = 1 → qdCtx d = n → Memory.wf s.mem = true → tsorted s.queues = true →
          ∃ t, exec (.fabricQctl m) s = .next t ∧ qdEn (queueDesc t q) = false ∧ qdStop (queueDesc t q) = qdStop d ∧ t.waves = s.waves ∧
            (∀ x, tget s.queues q = some x → x.running = none → tget t.queues q = none) ∧
            ∀ x, tget s.queues q = some x → x.running.isSome = true →
              ∃ y, tget t.queues q = some y ∧ qdEn y.desc = false ∧ y.running = x.running) ∧
        (op = 2 → qdCtx d = n → Memory.wf s.mem = true →
          ∃ t, exec (.fabricQctl m) s = .next t ∧ qdStop (queueDesc t q) = false ∧ qdQerr (queueDesc t q) = 0 ∧
            qdEn (queueDesc t q) = qdEn d ∧ t.waves = s.waves))))

/-- CREATECTX (R376, R377, R433): a context that exists is answered 5, a malformed root or save area 1, in this order, which is the model's
choice (log 22), as it reads the header through the hub (log 3); a header that cannot be read is answered 3 with its sub-cause or 6, and one
that does not read as R377 fixes it 5; else the context exists, owned by its sender, with the slots that the header gives. -/
def Obligations.ContextCreated : Prop :=
  ∀ (s : State) (m : Msg) (n : Nat), n = m.ctx.toNat → Commanded s m 2 →
    ((tget s.ctxs n).isSome = true → exec (.createctx m) s = .next (reply s m 5 5 [])) ∧
    (tget s.ctxs n = none →
      (sysRefused 0x41 m.arg = true ∨ m.va.toNat % 49152 ≠ 0 → exec (.createctx m) s = .next (reply s m 5 1 [])) ∧
      (∀ c s1, sysRefused 0x41 m.arg = false → m.va.toNat % 49152 = 0 →
        c = { Ctx.fresh m.src.toNat m.va.toNat 0 with regs := [(0x41, m.arg)] } → s1 = { s with ctxs := tset s.ctxs n c } →
        (∀ e a, saRead s1 n m.va.toNat 192 = .error (e, a) →
          exec (.createctx m) s = .next (reply s m 5 (if e = 0 then 6 else 3 + 16 * e) [])) ∧
        (∀ s2 bs bslots, saRead s1 n m.va.toNat 192 = .ok bs → bslots = bitsOf (leNat bs) 159 128 →
          (bslots = 0 ∨ bslots > 16384 ∨ maskHeader (leNat bs) ≠ saHeader bslots → exec (.createctx m) s = .next (reply s m 5 5 [])) ∧
          (0 < bslots → bslots ≤ 16384 → maskHeader (leNat bs) = saHeader bslots →
            saWrites (saTouch s1 n m.va.toNat 192) n
              [(m.va.toNat + 20, List.replicate 4 0), (m.va.toNat + 32, List.replicate 32 0)] = .ok s2 →
            ∃ t, exec (.createctx m) s = .next t ∧ tget t.ctxs n = some { c with bslots := bslots } ∧ t.waves = s.waves ∧
              (∀ j, j ≠ n → (tget t.ctxs j).map Ctx.owner = (tget s.ctxs j).map Ctx.owner)))))

/-! Waiting waves. -/

/-- STRAND_BOUNDARY_RESUME (R150, R182): of a wave that does not wait in its boundary nothing changes. An entry that still has to wait waits
on, dark, with the state that it reached; one that is done empties the queue, and the wave may run its next strand as soon as its side
has a slot. Each look at an entry has free values of its own (log 1). -/
def Obligations.BoundaryResumes : Prop :=
  ∀ (k : Nat) (s : State),
    ((s.wave k = none ∨ ∃ w, s.wave k = some w ∧ (boundaryWaits w = false ∨ s.blockRuns w.block = false)) →
      exec (.strandBoundaryResume k) s = .next s) ∧
    (∀ w e f pc w0 s0, WaitsAt s k w e f pc → w0 = { w with wait := .none } → s0 = { s.setWave k w0 with free := s.free + 1 } →
      (∀ s1 w1 stage why, performOp s0 k w0 e = .wait s1 stage why → why ≠ .none → s1.wave k = some w1 →
        ∃ t w', exec (.strandBoundaryResume k) s = .next t ∧ t.wave k = some w' ∧ t.mem = s1.mem ∧ w'.wait = why ∧ w'.lit = false ∧
          w'.residual.head? = some { e with stage := stage } ∧ w'.st = w1.st ∧ w'.head = w1.head ∧
          ∀ j, j ≠ k → t.wave j = s1.wave j) ∧
      (∀ s1 w1, performOp s0 k w0 e = .done s1 → s1.wave k = some w1 → w1.residual = [e] → w1.wait = .none → w1.lit = false →
        w1.be = w.be → s1.blockRuns w1.block = true →
        ∃ t w', exec (.strandBoundaryResume k) s = .next t ∧ t.wave k = some w' ∧ t.mem = s1.mem ∧ w'.residual = [] ∧ w'.be = none ∧
          (w'.wait = .none ∨ w'.wait = .parked) ∧ w'.st = w1.st ∧ w'.head = w1.head ∧ w'.far = w1.far ∧
          ∀ j, j ≠ k → t.wave j = s1.wave j))

/-- VIGIL_BUDGET_EXPIRY, VIGIL_WITHDRAWAL and WAKE_DELIVERY (R279, R282, R283, R290, R380, R442): a timed vigil whose budget is spent is to be
withdrawn; a withdrawal wakes its waiter with the word and a false flag; a wake for a wave in its VIGIL gives D its value, in the head
record too, and a named predicate the flag in every live thread, and the wave may run; one for a swapped-out wave waits in its record,
with the block's pending-wake bit, and where the record cannot be written the context is halted and the wake stays. A wake for a waiter
that is gone is dropped. -/
def Obligations.VigilSteps : Prop :=
  ∀ (k i : Nat) (s : State),
    (∀ v, vigilOf s k = some v → v.timed = true → v.budget = 0 → ∃ t, exec (.vigilBudgetExpiry k) s = .next t ∧
      tget t.vigils v.id = some { v with withdraw := true } ∧ t.mem = s.mem ∧ t.waves = s.waves ∧
      ∀ n, n ≠ v.id → tget t.vigils n = tget s.vigils n) ∧
    ((∀ v, vigilOf s k = some v → v.timed = false ∨ v.budget ≠ 0) → exec (.vigilBudgetExpiry k) s = .next s) ∧
    (∀ v, vigilOf s k = some v → v.withdraw = true → ∃ t l x, exec (.vigilWithdrawal k) s = .next t ∧ t.wakes = l ++ [x] ∧
      x.waiter = .wave k ∧ x.flag = false ∧ x.va = v.va ∧ x.value = v.value s ∧ (v.kind ≠ .phase → l = s.wakes ∧ t.mem = s.mem) ∧
      t.waves = s.waves) ∧
    ((∀ v, vigilOf s k = some v → v.withdraw = false) → exec (.vigilWithdrawal k) s = .next s) ∧
    (s.wakes[i]? = none → exec (.wakeDelivery i) s = .next s) ∧
    (∀ x, s.wakes[i]? = some x → x.waiter = .wave k → s.wave k = none →
      exec (.wakeDelivery i) s = .next { s with wakes := s.wakes.eraseIdx i }) ∧
    (∀ x w p, s.wakes[i]? = some x → x.waiter = .wave k → s.wave k = some w → s.residentBlock w.block = true → x.arv = false →
      w.wait = .vigil → w.vpend = some p → x.observe = none → inRelease s k = false → w.lit = false → s.sent = [] →
      ∃ t w', exec (.wakeDelivery i) s = .next t ∧ t.wave k = some w' ∧ t.wakes = s.wakes.eraseIdx i ∧ t.mem = s.mem ∧
        (∀ j, j ≠ k → t.wave j = s.wave j) ∧ (w'.wait = .none ∨ w'.wait = .parked) ∧ w'.vpend = none ∧ w'.st.pc = w.st.pc ∧
        w'.st.s p.dst = x.value ∧ w'.head.s p.dst = x.value ∧ (∀ n, n ≠ p.dst → w'.st.s n = w.st.s n) ∧
        (p.pt ≠ 0 → w'.st.p p.pt &&& w.st.live = if x.flag then w.st.live else 0)) ∧
    (∀ x w c b, s.wakes[i]? = some x → x.waiter = .wave k → s.wave k = some w → s.residentBlock w.block = false → w.wait = .vigil →
      knownFailed s w.ctx (.wake k) = false → tget s.ctxs w.ctx = some c → tget s.blocks w.block = some b →
      (∀ s1, recordResult (dropWake s i) w x.value x.flag = .ok s1 → ∃ t y, exec (.wakeDelivery i) s = .next t ∧ t.mem = s1.mem ∧
        t.wave k = some { w with vresult := some (x.value, x.flag), vobs := x.observe } ∧ tget t.blocks w.block = some y ∧
        y.pwake = true ∧ ∀ j, j ≠ k → t.wave j = s.wave j) ∧
      (∀ e, recordResult (dropWake s i) w x.value x.flag = .error e → ∃ t c', exec (.wakeDelivery i) s = .next t ∧ x ∈ t.wakes ∧
        tget t.ctxs w.ctx = some c' ∧ c'.halted = true))

/-- QUIESCENCE_LIMIT and LAUNCH_QUIESCENT (R339, R354, R355): an untimed wait that has lasted its context's limit is withdrawn, and a wave on its
core takes quiescence fault 1 at its VIGIL; with a limit of 0, a timed wait or a shorter one nothing changes. A launch is withdrawn only
when it has been quiescent for 100 microseconds, and is counted anew: every wave of it on its core takes quiescence fault 2 at its VIGIL,
and one that is swapped out does so when it is restored. -/
def Obligations.QuiescenceSteps : Prop :=
  ∀ (k : Nat) (s : State),
    (∀ v w lim, vigilOf s k = some v → s.wave k = some w → lim = (s.ctxReg w.ctx 0x4E).toNat % 2 ^ 32 →
      (v.timed = true ∨ lim = 0 ∨ w.waited < lim → exec (.quiescenceLimit k) s = .next s) ∧
      (∀ p, v.timed = false → lim ≠ 0 → w.waited ≥ lim → s.residentBlock w.block = true → w.vpend = some p →
        trapToHost s w.rollback 23 = false →
        ∃ t w', exec (.quiescenceLimit k) s = .next t ∧ t.wave k = some w' ∧
          AtHandler (handlerEntry s w) w.head w w' 23 1 2 none (BitVec.ofNat 64 p.pc) (BitVec.ofNat 64 p.pc) false false ∧
          ∀ j, j ≠ k → t.wave j = s.wave j)) ∧
    (vigilOf s k = none → exec (.quiescenceLimit k) s = .next s) ∧
    (∀ l, (∀ la, tget s.launches l = some la → la.quiet < 100 ∨ quiescent s l = false) → exec (.launchQuiescent l) s = .next s) ∧
    (∀ l la, tget s.launches l = some la → la.quiet ≥ 100 → quiescent s l = true →
      ∃ t la', exec (.launchQuiescent l) s = .next t ∧ tget t.launches l = some la' ∧ la'.quiet = 0 ∧
        (∀ mine : Wave → Prop, (∀ w, mine w ↔ (tget s.blocks w.block).map Block.launch = some l ∧ w.wait ≠ .ended) → tsorted s.waves = true →
          (∀ j w, s.wave j = some w → mine w → s.residentBlock w.block = true →
            w.vpend.isSome = true ∧ trapToHost s w.rollback 23 = false) →
          (∀ j w p, s.wave j = some w → mine w → s.residentBlock w.block = true → w.vpend = some p → ∃ w', t.wave j = some w' ∧
            AtHandler (handlerEntry s w) w.head w w' 23 2 2 none (BitVec.ofNat 64 p.pc) (BitVec.ofNat 64 p.pc) false false) ∧
          (∀ j w, s.wave j = some w → mine w → s.residentBlock w.block = false → t.wave j = some { w with qdue := 2 }) ∧
          ∀ j w, s.wave j = some w → ¬mine w → t.wave j = some w))

/-- LAZY_FILL and PARITY_ROLLBACK (R184, R188, R440, R442): an absent granule takes its 16 registers from the save area; where the save area
does not translate, the granule stays absent, the context is halted and its owner told with cause 3; where the read is uncorrectable, the
granule stays absent and the instruction that accesses it, here the first of those that it does, raises soft-error fault 2 at issue. A
parity error is counted, rolls a lit wave back to its strand head, and the third in one strand raises a machine check, sub-cause 1, with
WHEN = 3. -/
def Obligations.FillsAndParity : Prop :=
  ∀ (k g : Nat) (s : State) (w : Wave), s.wave k = some w →
    (g ∉ w.absent ∨ s.residentBlock w.block = false ∨ knownFailed s w.ctx (.read 1) = true → exec (.lazyFill k g) s = .next s) ∧
    (∀ c b va, g ∈ w.absent → s.residentBlock w.block = true → knownFailed s w.ctx (.read 1) = false → tget s.ctxs w.ctx = some c →
      tget s.blocks w.block = some b → va = saAddr c 1 b.slot (30720 * w.wid + 2048 * g) →
      (∀ e a, e ≠ 0 → saRead s w.ctx va 2048 = .error (e, a) → ∃ t c', exec (.lazyFill k g) s = .next t ∧
        tget t.ctxs w.ctx = some c' ∧ c'.halted = true ∧ (g < w.farRegs / 16 → ∃ w', t.wave k = some w' ∧ g ∈ w'.absent) ∧
        ∃ m ∈ t.outbox, m.typ = 6 ∧ m.ctx = BitVec.ofNat 12 w.ctx ∧ m.cmd = 3 ∧ m.arg = BitVec.ofNat 64 (b.slot + e * 2 ^ 52)) ∧
      (∀ a, saRead s w.ctx va 2048 = .error (0, a) → exec (.lazyFill k g) s = .next s ∧
        ∀ i rest, i.isEvent = false → s.cur = some k → canTake s w.side (priceOf i) = true → issueFail w i = none →
          absentOf w (readsOf i ++ writesOf i) = g :: rest → trapToHost s w.rollback 26 = false →
          ∃ t w', exec i s = .next t ∧ t.wave k = some w' ∧ OnlyWave k s t ∧ w'.eaddr = BitVec.ofNat 64 a ∧
            AtHandler (handlerEntry s w) w.head w w' 26 2 0 none w.st.pc w.head.pc (decide (w.residual ≠ [])) w.be.isSome) ∧
      (∀ bs, saRead s w.ctx va 2048 = .ok bs →
        ∃ t w', exec (.lazyFill k g) s = .next t ∧ t.wave k = some w' ∧ OnlyCaches k s t ∧
          w' = { w with far := w'.far, absent := w.absent.filter (· ≠ g) } ∧
          (∀ r n, r < 16 → n < 32 → w'.lane 2 (16 * g + r) n = some (BitVec.ofNat 32 (leNat ((bs.drop (128 * r + 4 * n)).take 4)))) ∧
          ∀ i n, i / 16 ≠ g → w'.lane 2 i n = w.lane 2 i n)) ∧
    (isLit s w = false → exec (.parityRollback k) s = .next s) ∧
    (isLit s w = true → w.parity < 2 → ∃ t w', exec (.parityRollback k) s = .next t ∧ t.wave k = some w' ∧ OnlyWave k s t ∧
      w'.st = w.head ∧ w'.head = w.head ∧ w'.queue = [] ∧ w'.wick = [] ∧ w'.far = w.far ∧ w'.bank = w.bank ∧
      w'.parity = w.parity + 1 ∧ (∀ i l, (i, l) ∈ w'.near ↔ (i, l) ∈ w.bank ∧ bit w.head.svm i = true) ∧
      (dieOfCore w.core < 4 → (t.die (dieOfCore w.core)).corrected = (s.die (dieOfCore w.core)).corrected + 1)) ∧
    (isLit s w = true → w.parity ≥ 2 → trapToHost s w.rollback 26 = false →
      ∃ t w', exec (.parityRollback k) s = .next t ∧ t.wave k = some w' ∧ OnlyWave k s t ∧
        AtHandler (handlerEntry s w) w.head w w' 26 1 3 none w.head.pc w.head.pc (decide (w.residual ≠ [])) w.be.isSome)

/-- TRANSLATION_INVALIDATION, MATRIX_STEP_EXECUTE and PATCH_ENGINE_COPY (R89, R248, R250 to R259, R263, R268, R271, R272, R383): an invalidation
waits while an engine uses its range; else no cached translation of the range is left and it is answered, and a wave whose VIGIL was
registered through it registers again. A matrix step that may be executed leaves its core's queue, with the tile that it computes: MZERO
clears it, MWR writes eight elements of a row for each thread, MSCL scales each element of a row block by its row's factor, and MMA gives
each element its accumulator and the pairwise sum of the products of its row and its column, the monitors counting an uncorrectable
accumulator; its flags go to FPSTAT outside a chain, of the strand that a handler has interrupted where that strand performed it, and wait
for the chain's MEND inside one; a step that may not be executed changes nothing. A patch
holds its range first, and then, of one instruction with the race detector off, writes its 12 bytes and no others. -/
def Obligations.HeldUpSteps : Prop :=
  (∀ (k : Nat) (s : State),
    (s.xlinvs.find? (fun x => x.id = k) = none → exec (.translationInvalidation k) s = .next s) ∧
    (∀ x, s.xlinvs.find? (fun x => x.id = k) = some x →
      (invalBusy s x = true → exec (.translationInvalidation k) s = .next s) ∧
      (invalBusy s x = false → knownFailed s x.ctx (.rewind k) = false → s.sent = [] →
        (s.vigils = [] → ∃ t, exec (.translationInvalidation k) s = .next t ∧ t.mem = s.mem ∧ t.waves = s.waves ∧
          (∀ y, y ∈ t.xlinvs ↔ y ∈ s.xlinvs ∧ y.id ≠ k) ∧ t.outbox = s.outbox ++ x.reply.toList ∧
          ∀ e, e ∈ t.tlb ↔ e ∈ s.tlb ∧
            ¬(e.ctx = x.ctx ∧ (x.count = 0 ∨ (e.base < x.base + x.count ∧ x.base < e.base + leafPages e.x.level)))) ∧
        (∀ v j w p, s.vigils = [(v.id, v)] → v.kind = .plain → invalVigils s x = [v] → v.waiter = .wave j → s.wave j = some w →
          s.residentBlock w.block = true → w.vpend = some p →
          ∃ t w', exec (.translationInvalidation k) s = .next t ∧ t.mem = s.mem ∧ t.vigils = [] ∧ t.wakes = s.wakes ∧
            t.wave j = some w' ∧ w'.st.pc = BitVec.ofNat 64 p.pc ∧ w'.head.pc = BitVec.ofNat 64 p.pc ∧ w'.vpend = none ∧
            (w'.wait = .none ∨ w'.wait = .parked) ∧ ∀ i, i ≠ j → t.wave i = s.wave i))) ∧
    ((∀ c ∈ s.cores, ∀ y ∈ c.2.steps, y.id ≠ k) → exec (.matrixStepExecute k) s = .next s) ∧
    (∀ c x y, s.cores.find? (fun c => c.2.steps.any fun st => st.id = k) = some (c, x) → tget s.cores c = some x →
      x.steps.find? (fun st => st.id = k) = some y →
      (stepReady x.steps y = false → exec (.matrixStepExecute k) s = .next s) ∧
      (stepReady x.steps y = true → ∃ t, exec (.matrixStepExecute k) s = .next t ∧ t.mem = s.mem ∧ t.blocks = s.blocks ∧
        (∀ z, z ∈ (t.core c).steps ↔ z ∈ x.steps ∧ z.id ≠ k) ∧
        (∀ j w, y.members = [j] → s.wave j = some w → ∃ w', t.wave j = some w' ∧ w' = { w with
            st := w'.st, head := w'.head, frame := w'.frame, mflags := w'.mflags, fmflags := w'.fmflags } ∧
          (y.inChain = false → (w.st.pl1 = false ∨ y.handler = [j]) → w'.st.fpstat = w.st.fpstat ||| (runStep s y).2 ∧
            w'.head.fpstat = w.head.fpstat ||| (runStep s y).2 ∧ w'.frame = w.frame) ∧
          (y.inChain = false → w.st.pl1 = true → y.handler = [] → w'.st = w.st ∧ w'.head = w.head ∧
            w'.frame = w.frame.map fun f => { f with fpstat := f.fpstat ||| (runStep s y).2 }) ∧
          (y.inChain = true → w'.st = w.st ∧ w'.head = w.head ∧ w'.frame = w.frame ∧
            (w.st.pl1 = decide (y.handler = [j]) → y.handler = [j] ∨ y.handler = [] → w'.mflags = w.mflags ||| (runStep s y).2) ∧
            (w.st.pl1 = true → y.handler = [] → w'.fmflags = w.fmflags ||| (runStep s y).2 ∧ w'.mflags = w.mflags))) ∧
        ∀ h id z, matTile y.op = some h → findTile s y.block h = some (id, z) → tget s.tiles id = some z → tsorted s.tiles = true →
          tsorted z.data = true →
          ∃ z', tget t.tiles id = some z' ∧ z' = { z with data := z'.data, poison := z'.poison, cleared := z'.cleared } ∧
            (∀ ch, y.op = .mzero h ch → z'.data = [] ∧ z'.cleared = true ∧ z'.poison = false) ∧
            (∀ rc cq fc regs ch n r b, y.op = .mwr h rc cq fc regs ch → 8 * cq + 8 ≤ z.cols →
              (∀ r ∈ regs, 4 * r.length = 8 * fcBytes fc) → regs[n]? = some r → b < 8 * fcBytes fc →
              tget z'.data (((32 * rc + n) * z.cols + 8 * cq) * fcBytes fc + b) = (rowBlockBytes r)[b]?) ∧
            (∀ rc fc mode alpha ch n al j b, y.op = .mscl h rc fc mode alpha ch → alpha[n]? = some al → j < z.cols → b < fcBytes fc →
              tget z'.data (((32 * rc + n) * z.cols + j) * fcBytes fc + b) = (leBytes (fcBytes fc) (fMul (fcFmt fc) mode
                (leNat ((List.range (fcBytes fc)).map fun b => tileByte s id z (((32 * rc + n) * z.cols + j) * fcBytes fc + b) 2))
                (al.toNat % 2 ^ (8 * fcBytes fc))).1)[b]?) ∧
            (∀ o ch od ta tb v i j b, y.op = .mma o ch od →
              (o.aT = false ∧ ta = none ∨ o.aT = true ∧ ∃ a, findTile s y.block o.aTile = some a ∧ tileBad s a.1 = false ∧ ta = some a.1) →
              (o.bT = false ∧ tb = none ∨ o.bT = true ∧ ∃ a, findTile s y.block o.bTile = some a ∧ tileBad s a.1 = false ∧ tb = some a.1) →
              v = stepView s ta tb y.rows o.fa → i < 32 * y.rows.length → j < 32 → b < fcBytes o.fc →
              z'.poison = (stepPoison v o.aT o.bT o.fa (32 * y.rows.length) || (o.acc && (z.poison || tileBad s id))) ∧
              (o.acc = true → tileBad s id = true → dieOfCore c < 4 →
                (t.die (dieOfCore c)).corrected = (s.die (dieOfCore c)).corrected + 1) ∧
              tget z'.data ((i * 32 + j) * fcBytes o.fc + b) = (leBytes (fcBytes o.fc) (stepElem v o.fa (fcFmt o.fc) o.rnd o.acc
                (leNat ((List.range (fcBytes o.fc)).map fun b => tileByte s id z ((i * 32 + j) * fcBytes o.fc + b) 2)) i j).1)[b]?))) ∧
    ((s.wave k = none ∨ ∃ w, s.wave k = some w ∧ w.residual = []) → exec (.patchEngineCopy k) s = .next s) ∧
    (∀ w e f pc scope dst src cnt, WaitsAt s k w e f pc → e.op = .patch scope dst src cnt → e.stage = some 1 → w.lit = false →
      cnt.toNat % 2 ^ 32 = 1 →
      (tget s.patches k = none → ∃ t, exec (.patchEngineCopy k) s = .next t ∧ t.mem = s.mem ∧
        tget t.patches k = some ⟨w.ctx, scopeCores scope w.core, dst.toNat, dst.toNat + 12,
          parkedNow s ⟨w.ctx, scopeCores scope w.core, dst.toNat, dst.toNat + 12, []⟩⟩ ∧
        ∀ j x, s.wave j = some x → isLit s x = true → x.ctx = w.ctx → x.core ∈ scopeCores scope w.core →
          dst.toNat / 192 ≤ x.st.pc.toNat / 192 → x.st.pc.toNat / 192 ≤ (dst.toNat + 11) / 192 → tsorted s.waves = true →
          t.wave j = some x.rollback) ∧
      (∀ p q y, tget s.patches k = some y → y.ctx = w.ctx → y.lo = dst.toNat → y.hi = dst.toNat + 12 → (∀ b ∈ s.blocks, k ∉ b.2.parked) →
        raceOn s w.ctx = false → dst.toNat % 12 = 0 → src.toNat % 48 ≤ 36 → xlate s .hub w.ctx src.toNat .load = .ok p →
        xlate s .hub w.ctx dst.toNat .fetch = .ok q → Memory.wf s.mem = true → tsorted s.waves = true → tsorted s.patches = true →
        ∃ t, exec (.patchEngineCopy k) s = .next t ∧ tget t.patches k = none ∧
          (∀ i, i < 12 → memByte t.mem (q.pa + i) = memByte s.mem (p.pa + i)) ∧
          ∀ a, a < q.pa ∨ q.pa + 12 ≤ a → memByte t.mem a = memByte s.mem a))) ∧
  (∀ (v : StepView) (fc mode : Nat) (acc : Bool) (c i j : Nat) (p : Nat → FVal × FFlags) (x y t r : Nat × FFlags),
    (∀ m, p m = fpTerm 1 (v.aElem i m) (v.bElem m j)) → x = addVal fc mode (p 0).1 (p 1).1 → y = addVal fc mode (p 2).1 (p 3).1 →
    t = addVal fc mode (decodeF fc x.1) (decodeF fc y.1) → r = (if acc then fAdd fc mode c t.1 else roundVal fc mode (decodeF fc t.1)) →
    (stepElem v 3 fc mode acc c i j).1 = r.1 ∧
    (stepElem v 3 fc mode acc c i j).2 = ((p 0).2 ||| (p 1).2 ||| (p 2).2 ||| (p 3).2) ||| (x.2 ||| y.2 ||| t.2) ||| r.2)

/-! Engines. -/

/-- ENGINE_READ_START, ENGINE_READS_COMPLETE, ENGINE_BYTES_LANDED, ENGINE_FAULT (R116, R117, R151 to R153, R155, R168): an item that may be
read is read, from memory past every L1 or from its tile; when all are, the source locks go; bytes of a record that land are written at
their place and counted, also on the operation's barrier object, and no other byte changes. An item that fails ends its operation: what has
not been transferred stays unwritten and is counted down as if it had been, with EFLT on the barrier object, the locks go, and the core's
record for the context holds the fault, or, where it held one already, overflow beside the first. A step that is not due changes
nothing.
KICK, BCOPY and BULK when they are performed (R150, R152, R155 to R161): their checks in the order of the rules, of a KICK all the records' before
any is accepted; an operation that meets no conflict enters the engine queue with its locks and tile bits, one that does waits; a BULK over
an empty region reads nothing. That a barrier's page is checked after what else a BCOPY or BULK checks (log 13) is the model's choice. -/
def Obligations.EngineSteps : Prop :=
  (∀ (id i : Nat) (s : State),
     (tget s.engops id = none → exec (.engineReadStart id i) s = .next s ∧ exec (.engineReadsComplete id) s = .next s ∧
       exec (.engineBytesLanded id i) s = .next s ∧ exec (.engineFault id i) s = .next s) ∧
     (∀ o, tget s.engops id = some o →
       (mayRead s id o i = none → exec (.engineReadStart id i) s = .next s) ∧
       (∀ n, mayRead s id o i = some n →
         (∀ s1 bs, itemRead s o i n = .ok (s1, bs) →
           ∃ t, exec (.engineReadStart id i) s = .next t ∧ t.mem = s1.mem ∧ t.waves = s.waves ∧
             tget t.engops id = some { o with items := tset o.items i (.read bs) } ∧ ((∀ x ∈ s.sent, x.rel = 0) → t.mem = s.mem)) ∧
         (∀ va b len p, o.kind = .record (.mem va) b len → xlate s (.core o.core) o.ctx (va + i) .load = .ok p →
           uncorrectable s p.pa = false → (∀ x ∈ s.sent, x.rel = 0) →
           ∃ t, exec (.engineReadStart id i) s = .next t ∧ t.mem = s.mem ∧ t.waves = s.waves ∧
             tget t.engops id = some { o with items := tset o.items i (.read (memRead s.mem p.pa n)) }) ∧
         (∀ x off b len, o.kind = .record (.tile x off) b len → tileWordsBad s x (off + i) n = false →
           ∃ t, exec (.engineReadStart id i) s = .next t ∧ t.mem = s.mem ∧ t.waves = s.waves ∧ t.tiles = s.tiles ∧
             tget t.engops id = some { o with items := tset o.items i (.read (tileRead s x (off + i) n)) })) ∧
       (o.suspended = true ∨ readBytes s o ≠ o.total → exec (.engineReadsComplete id) s = .next s) ∧
       (o.suspended = false → readBytes s o = o.total →
         ∃ t, exec (.engineReadsComplete id) s = .next t ∧ t.mem = s.mem ∧ t.waves = s.waves ∧
           tget t.engops id = some { o with readsDone := true } ∧
           (o.readsDone = false → ∀ l, l ∈ t.locks ↔ l ∈ s.locks ∧ ¬(l.op = id ∧ l.dst = false)) ∧
           (o.readsDone = true → t.locks = s.locks)) ∧
       (∀ a va len bs p, o.kind = .record a (.mem va) len → tget o.items i = some (.read bs) → o.suspended = false →
         raceOn s o.ctx = false → Memory.wf s.mem = true → bs ≠ [] →
         xlate s (.core o.core) o.ctx (va + i) .store = .ok p → sealedBy s o.ctx (va + i) bs.length = false →
         vigilErr s (.mem p.pa) bs.length = false →
         (o.bar = .none → o.counted + bs.length ≠ o.total →
           ∃ t, exec (.engineBytesLanded id i) s = .next t ∧ t.waves = s.waves ∧
             tget t.engops id = some { o with items := tset o.items i .gone, counted := o.counted + bs.length } ∧
             Stored s t p.pa bs) ∧
         (o.bar = .none → o.counted + bs.length = o.total → tsorted s.engops = true →
           ∃ t, exec (.engineBytesLanded id i) s = .next t ∧ t.waves = s.waves ∧ tget t.engops id = none ∧
             (∀ l ∈ t.locks, l.op ≠ id) ∧ Stored s t p.pa bs) ∧
         (∀ s1 b, s.helds = [] → s.vigils = [] → o.counted + bs.length ≠ o.total → itemWrite s o i bs = .ok s1 →
           barPlace (s1.modOp id fun o => { o with items := tset o.items i .gone }) (.core o.core) o.ctx o.block o.bar = .ok (some (.mem b)) →
           uncorrectable s1 b = false → b + 16 ≤ p.pa ∨ p.pa + bs.length ≤ b →
           ∃ t, exec (.engineBytesLanded id i) s = .next t ∧ t.waves = s.waves ∧
             barAt t (.mem b) = (barAt s (.mem b)).landed bs.length ∧
             (∀ j, j < bs.length → some (memByte t.mem (p.pa + j)) = bs[j]?) ∧
             ∀ x, x < p.pa ∨ p.pa + bs.length ≤ x → x < b ∨ b + 16 ≤ x → memByte t.mem x = memByte s.mem x)) ∧
       (itemFails s id o i = none → exec (.engineFault id i) s = .next s) ∧
       (∀ e new, itemFails s id o i = some e → isBulk o = false →
         new = (⟨true, false, opCode o, e.1, e.2.1, e.2.2 % 2 ^ 57 / 48 * 48⟩ : EFault) →
         ∃ t, exec (.engineFault id i) s = .next t ∧
           (o.bar = .none → o.counted < o.total → raceOn s o.ctx = false → tsorted s.engops = true →
             t.mem = s.mem ∧ t.waves = s.waves ∧ tget t.engops id = none ∧ (∀ l ∈ t.locks, l.op ≠ id) ∧
             (tget (s.core o.core).efaults o.ctx = none → tget (t.core o.core).efaults o.ctx = some new) ∧
             (∀ y, tget (s.core o.core).efaults o.ctx = some y →
               tget (t.core o.core).efaults o.ctx = some (if y.v then { y with ovf := true } else new))) ∧
           (∀ va p, o.bar = .mem va → o.counted < o.total → raceOn s o.ctx = false → s.helds = [] → s.vigils = [] →
             xlate (recordFault s o e.1 e.2.1 e.2.2) (.core o.core) o.ctx va .atomic = .ok p → sealedBy s o.ctx va 16 = false →
             uncorrectable s p.pa = false → Memory.wf s.mem = true →
             barAt t (.mem p.pa) = { (barAt s (.mem p.pa)).landed (o.total - o.counted) with eflt := true } ∧
             (∀ x, x < p.pa ∨ p.pa + 16 ≤ x → memByte t.mem x = memByte s.mem x) ∧
             (tget (s.core o.core).efaults o.ctx = none → tget (t.core o.core).efaults o.ctx = some new))) ∧
       (∀ e, itemFails s id o i = some e → isBulk o = true → ∃ t x, exec (.engineFault id i) s = .next t ∧
         tget (t.core o.core).efaults o.ctx = some x ∧ x.v = true ∧
         (o.bar = .none → o.counted + (o.total - readBytes s o) ≠ o.total → t.mem = s.mem ∧
           tget t.engops id = some { o with
             failed := true, lost := true, readsDone := true, counted := o.counted + (o.total - readBytes s o) })))) ∧
  (∀ (s : State) (k : Nat) (w : Wave) (h lvl first n : Nat) (r : Nat → Nat) (K : Done), K = performKick s k w h lvl first n →
     (n = 0 → K = .done s) ∧ (n > 256 → K = .fault ⟨13, 5, none, none⟩) ∧
     (0 < n → n ≤ 256 → (findTile s w.block h = none → K = .fault ⟨7, 1, none, none⟩) ∧
       ∀ id x, findTile s w.block h = some (id, x) →
         (x.lvl ≠ lvl → K = .fault ⟨7, 3, none, none⟩) ∧ (x.lvl = lvl → x.bd ≠ 0 → K = .fault ⟨7, 4, none, none⟩) ∧
         (x.lvl = lvl → x.bd = 0 →
           (x.cols * ewBytes x.ew ≠ 48 ∨ first + n > x.rows → K = .fault ⟨13, 5, none, none⟩) ∧
           (x.cols * ewBytes x.ew = 48 → first + n ≤ x.rows →
             (tileWordsBad s id (48 * first) (48 * n) = true → K = .fault ⟨26, 3, none, none⟩) ∧
             (tileWordsBad s id (48 * first) (48 * n) = false → (∀ j, r j = leNat (tileRead s id (48 * (first + j)) 48)) →
               (∀ j f, j < n → (∀ i, i < j → ∃ y, RecordIs s w (r i) y) → RecordFails s w (r j) f → K = .fault f) ∧
               (∀ y want, n = 1 → RecordIs s w (r 0) y → want = (⟨endRange y.src y.len, endRange y.dst y.len, endTile y.src,
                   endTile y.dst⟩ : Want) →
                 (y.len = 0 → K = .done s) ∧
                 (y.len ≠ 0 → ¬Acceptable s w.ctx w.core y.scope want → K = .requeue s (.kickRest [y]) .boundary) ∧
                 (y.len ≠ 0 → Acceptable s w.ctx w.core y.scope want → s.sent = [] → ∃ t, K = .done t ∧ t.waves = s.waves ∧
                   Accepted s t w (.record y.src y.dst y.len) y.scope y.bar y.len want)))))) ∧
  (∀ (s : State) (k : Nat) (w : Wave) (h tileH lvl scope : Nat) (st : Bool) (bar : DWord) (origin : List DWord) (K : Done),
     K = performBcopy s k w h tileH lvl scope st bar origin →
     (∀ f, layUse s w.core w.ctx h = .error f → K = .fault f) ∧
     (∀ s1 r, layUse s w.core w.ctx h = .ok (s1, r) → (findTile s1 w.block tileH = none → K = .fault ⟨7, 1, none, none⟩) ∧
       ∀ id x es o (el : Nat → Nat → Option Int), findTile s1 w.block tileH = some (id, x) → es = layEs (layFmt r) →
         o = ([0, 1, 2, 3, 4].map fun j => (BitVec.ofNat 32 (((origin[j / 2]?).getD 0).toNat / 2 ^ (32 * (j % 2)))).toInt) →
         (∀ row col : Nat, el row col = layElem r [(o[0]?).getD 0 + col, (o[1]?).getD 0 + row, (o[2]?).getD 0, (o[3]?).getD 0, (o[4]?).getD 0]) →
         (x.lvl ≠ lvl → K = .fault ⟨7, 3, none, none⟩) ∧
         (x.lvl = lvl → es ≠ ewBytes x.ew → K = .fault ⟨13, 4, none, none⟩) ∧
         (x.lvl = lvl → es = ewBytes x.ew → 0 < x.rows → 0 < x.cols →
           ((∀ b, ¬BarRefIs s1 w.block bar.toNat b) → K = .fault ⟨13, 1, none, none⟩) ∧
           ∀ b, BarRefIs s1 w.block bar.toNat b →
             (st = true → (∃ row col, row < x.rows ∧ col < x.cols ∧ el row col = none) → K = .fault ⟨8, 3, none, none⟩) ∧
             (st = false ∨ (∀ row col, row < x.rows → col < x.cols → el row col ≠ none) →
               (∀ f, barPlace s1 (.core w.core) w.ctx w.block b = .error f → K = .fault f) ∧
               ∀ place, barPlace s1 (.core w.core) w.ctx w.block b = .ok place → ∃ range, ∃ want : Want,
                 HullOf range es (fun a => ∃ row col, row < x.rows ∧ col < x.cols ∧ el row col = some a) ∧
                 want = (if st then ⟨[], range, [id], []⟩ else ⟨range, [], [], [id]⟩) ∧
                 (¬Acceptable s1 w.ctx w.core scope want → K = .wait s1 none .boundary) ∧
                 (Acceptable s1 w.ctx w.core scope want → s.sent = [] → ∃ t, K = .done t ∧ t.waves = s.waves ∧
                   Accepted s1 t w (.bcopy r id o st) scope b (x.rows * x.cols * es) want))))) ∧
  ∀ (s : State) (k : Nat) (w : Wave) (h scope : Nat) (ps args : List DWord) (p : Nat → Nat) (K : Done), s.wave k = some w →
    (∀ j, p j = ((ps[j]?).getD 0).toNat) → K = performBulk s k w h scope ps args →
    (∀ f, layUse s w.core w.ctx h = .error f → K = .fault f) ∧
    (∀ s1 r, layUse s w.core w.ctx h = .ok (s1, r) →
      ((∀ b, ¬BarRefIs s1 w.block (p 0) b) → K = .fault ⟨13, 1, none, none⟩) ∧
      (∀ b, BarRefIs s1 w.block (p 0) b →
        (¬ListedEntry s1 w (p 1) ∨ (p 2 ≠ 0 ∧ ¬ListedEntry s1 w (p 2)) → K = .fault ⟨13, 2, none, none⟩) ∧
        (ListedEntry s1 w (p 1) → p 2 = 0 ∨ ListedEntry s1 w (p 2) → ∀ (n0 n1 n2 es : Nat) (o : List Int) (el : Nat → Nat → Nat → Option Int),
          n0 = p 4 / 2 ^ 32 → n1 = p 5 % 2 ^ 32 → n2 = p 5 / 2 ^ 32 → es = layEs (layFmt r) →
          o = [(BitVec.ofNat 32 (p 3)).toInt, (BitVec.ofNat 32 (p 3 / 2 ^ 32)).toInt, (BitVec.ofNat 32 (p 4)).toInt, 0, 0] →
          (∀ i0 i1 i2 : Nat, el i0 i1 i2 = layElem r [(o[0]?).getD 0 + i0, (o[1]?).getD 0 + i1, (o[2]?).getD 0 + i2, 0, 0]) →
          (layStd r 0 ≠ 1 ∨ (∃ i0 i1 i2, i0 < n0 ∧ i1 < n1 ∧ i2 < n2 ∧ el i0 i1 i2 = none) → K = .fault ⟨13, 3, none, none⟩) ∧
          (layStd r 0 = 1 → (∀ i0 i1 i2, i0 < n0 → i1 < n1 → i2 < n2 → el i0 i1 i2 ≠ none) →
            (∀ f, barPlace s1 (.core w.core) w.ctx w.block b = .error f → K = .fault f) ∧
            ∀ place, barPlace s1 (.core w.core) w.ctx w.block b = .ok place →
              (n0 * n1 * n2 = 0 → Acceptable s1 w.ctx w.core scope ⟨[], [], [], []⟩ → s.sent = [] → ∃ t, K = .done t ∧ t.mem = s1.mem ∧
                t.engops = s1.engops ∧ t.locks = s1.locks ∧ t.wave k = some { w with bulkSeq := w.bulkSeq + 1 } ∧
                (p 2 = 0 → ∀ j, j ≠ k → t.wave j = s.wave j)) ∧
              (n0 * n1 * n2 ≠ 0 → ∃ range want, HullOf range es (fun a => ∃ i0 i1 i2, i0 < n0 ∧ i1 < n1 ∧ i2 < n2 ∧ el i0 i1 i2 = some a) ∧
                want = (⟨range, [], [], []⟩ : Want) ∧ (¬Acceptable s1 w.ctx w.core scope want → K = .wait s1 none .boundary) ∧
                (Acceptable s1 w.ctx w.core scope want → s.sent = [] → ∃ t, ∃ words : List Word, K = .done t ∧
                  words = (args.flatMap fun a : DWord => [a.truncate 32, (a >>> 32).truncate 32]) ∧
                  Accepted s1 t w (.bulk r o [n0, n1, n2] (p 1) (p 2) words w.wid w.bulkSeq) scope b (n0 * n1 * n2 * es) want ∧
                  t.wave k = some { w with bulkSeq := w.bulkSeq + 1 } ∧ ∀ j, j ≠ k → t.wave j = s.wave j)))))))

/-- BULK_PIECE_RETURN and BIN_TIMER_EXPIRY (R162 to R164, R166, R359): a piece that was read becomes a thread of its entry's bin when one has
room for it, and waits otherwise, as does a closing taper; a bin that holds a thread and whose time is over becomes a wave of its block at
its entry, or is refused for lack of room and keeps its threads.
SPAWN when it is performed (R356, R358): an entry that is not listed is SPAWN fault 1; each thread joins the bin of its block and entry, or opens
one; where the bin is full or refused and no other may take the key, the boundary waits with the threads that are left. -/
def Obligations.BinSteps : Prop :=
  ∀ s : State,
    (∀ id i o bs entry th, tget s.engops id = some o → tget o.items i = some (.read bs) → o.suspended = false →
      pieceThread o id i bs = some (entry, th) →
      (placeThread s o.core o.block entry th = none → exec (.bulkPieceReturn id i) s = .next s) ∧
      (((s.core o.core).bins.find? (fun e => e.2.block = o.block && e.2.entry = entry) = none ∧
          ∀ n, n < 8 → (tget (s.core o.core).bins n).isSome = true) ∨
        (∃ e, (s.core o.core).bins.find? (fun e => e.2.block = o.block && e.2.entry = entry) = some e ∧
          (e.2.refused.isSome = true ∨ e.2.threads.length ≥ 32)) → exec (.bulkPieceReturn id i) s = .next s) ∧
      (∀ s1, placeThread s o.core o.block entry th = some s1 → ∃ t, exec (.bulkPieceReturn id i) s = .next t ∧ t.mem = s.mem ∧
        tget t.engops id = some { o with items := tset o.items i .gone } ∧ t.waves = s1.waves ∧ t.cores = s1.cores) ∧
      (∀ n b, (s.core o.core).bins.find? (fun e => e.2.block = o.block && e.2.entry = entry) = some (n, b) → b.refused = none →
        b.threads.length < 31 → ∃ t, exec (.bulkPieceReturn id i) s = .next t ∧ t.mem = s.mem ∧ t.waves = s.waves ∧
          tget t.engops id = some { o with items := tset o.items i .gone } ∧
          tget (t.core o.core).bins n = some { b with threads := b.threads ++ [th] })) ∧
    (∀ id i, tget s.engops id = none → (∀ c ∈ s.cores, ∀ p ∈ c.2.retbuf, p.thread.born.op ≠ id) →
      exec (.bulkPieceReturn id i) s = .next s) ∧
    (∀ id i c x p s1, tget s.engops id = none → s.cores.find? (fun c => c.2.retbuf.any fun p => p.thread.born.op = id) = some (c, x) →
      x.retbuf.find? (fun p => p.thread.born.op = id) = some p →
      placeThread (s.setCore c { x with retbuf := x.retbuf.erase p }) c p.block p.entry p.thread = some s1 →
      exec (.bulkPieceReturn id i) s = .next s1) ∧
    (∀ c i, tget (s.core c).bins i = none → exec (.binTimerExpiry c i) s = .next s) ∧
    (∀ c i b, tget (s.core c).bins i = some b →
      (b.refused = none → b.expired = true ∨ (s.core c).cycles < b.started + b.limit → exec (.binTimerExpiry c i) s = .next s) ∧
      (b.refused.isSome = true → ∃ t, exec (.binTimerExpiry c i) s = .next t ∧ t.mem = s.mem ∧
        ∀ k w, s.wave k = some w → t.wave k = some w) ∧
      (b.refused = none → b.expired = false → (s.core c).cycles ≥ b.started + b.limit → b.threads ≠ [] →
        ∃ t, exec (.binTimerExpiry c i) s = .next t ∧ t.mem = s.mem ∧ (∀ k w, s.wave k = some w → t.wave k = some w) ∧
          ((∃ b', tget (t.core c).bins i = some b' ∧ b'.refused.isSome = true ∧ b'.threads = b.threads ∧ t.waves = s.waves) ∨
            ∃ k w, s.wave k = none ∧ t.wave k = some w ∧ w.isBin = true ∧ w.block = b.block ∧ w.st.pc = BitVec.ofNat 64 b.entry ∧
              w.core = c ∧ w.st.live = maskOf fun n => n < b.threads.length))) ∧
    (∀ k w entry (ls : List (Nat × List Word)) th e bins, s.wave k = some w → e = entry.toNat → bins = (s.core w.core).bins →
      (∀ n regs, th (n, regs) = (⟨regs, ⟨false, false, 0, 0, 0, 0, 0, 0, [], 64 + w.wid, w.spawnSeq, [n, 0, 0, 0], 0⟩⟩ : BinThread)) →
      (¬ListedEntry s w e → performSpawn s k w entry ls = .fault ⟨22, 1, none, none⟩) ∧
      (ListedEntry s w e → s.sent = [] →
        (ls = [] → performSpawn s k w entry ls = .done (s.setWave k { w with spawnSeq := w.spawnSeq + 1 })) ∧
        (ls ≠ [] → (bins.find? (fun x => x.2.block = w.block && x.2.entry = e) = none ∧ ∀ n, n < 8 → (tget bins n).isSome = true) ∨
            (∃ x, bins.find? (fun x => x.2.block = w.block && x.2.entry = e) = some x ∧
              (x.2.refused.isSome = true ∨ x.2.threads.length ≥ 32)) →
          performSpawn s k w entry ls = .requeue s (.spawn entry ls) .boundary) ∧
        (∀ n b, bins.find? (fun x => x.2.block = w.block && x.2.entry = e) = some (n, b) → tget bins n = some b → tsorted bins = true →
          b.refused = none → b.threads.length + ls.length < 32 →
          ∃ t, performSpawn s k w entry ls = .done t ∧ t.mem = s.mem ∧ t.wave k = some { w with spawnSeq := w.spawnSeq + 1 } ∧
            (∀ j, j ≠ k → t.wave j = s.wave j) ∧
            tget (t.core w.core).bins n = some { b with threads := b.threads ++ ls.map th } ∧
            ∀ j, j ≠ n → tget (t.core w.core).bins j = tget bins j) ∧
        (bins.find? (fun x => x.2.block = w.block && x.2.entry = e) = none → (∃ n, n < 8 ∧ tget bins n = none) → ls.length = 1 →
          ∃ t n b, performSpawn s k w entry ls = .done t ∧ t.mem = s.mem ∧ t.wave k = some { w with spawnSeq := w.spawnSeq + 1 } ∧
            (∀ j, j ≠ k → t.wave j = s.wave j) ∧ tget bins n = none ∧ tget (t.core w.core).bins n = some b ∧
            b.block = w.block ∧ b.entry = e ∧ b.threads = ls.map th ∧ b.started = (s.core w.core).cycles ∧ b.refused = none)))

/-! Dispatcher and distributor. -/

/-- LAUNCH_RECORD_START and LAUNCH_COMPLETION (R322, R323, R330, R331, R335, R352, R353): a queue that is disabled, stopped, empty or running
starts nothing; one that holds more records than its ring stops with QERR 5, a record that a check refuses with the check's; else its
launch runs. A launch whose blocks have all retired leaves no block behind, its completion word takes its sequence number, and its queue's
HEAD advances; where the store fails the queue stops with QERR 6 and its sub-cause. One that has not, or that no queue runs, is not
completed.
LAUNCH when it is performed (R360): statuses 3, 2 and 1 in this order, and nothing else happens; else the image is copied to the slot that
TAIL names, TAIL rises by one, D takes 0 and no other byte changes. -/
def Obligations.LaunchSteps : Prop :=
  ∀ s : State,
    (∀ q, tget s.queues q = none → exec (.launchRecordStart q) s = .next s) ∧
    (∀ q x, tget s.queues q = some x →
      (qdEn x.desc = false ∨ qdStop x.desc = true → exec (.launchRecordStart q) s = .next s) ∧
      (qdEn x.desc = true → qdStop x.desc = false → x.backlog > 2 ^ qdLsize x.desc →
        ∃ t, exec (.launchRecordStart q) s = .next t ∧ t.launches = s.launches ∧ t.waves = s.waves ∧
          ∃ m ∈ t.outbox, m.typ = 6 ∧ m.cmd = 0x40 ∧ m.arg = BitVec.ofNat 64 (q + 5 * 2 ^ 10)) ∧
      (qdEn x.desc = true → qdStop x.desc = false → x.backlog ≤ 2 ^ qdLsize x.desc →
        (x.running.isSome = true ∨ x.backlog = 0 ∨ ctxRuns s (qdCtx x.desc) = false → exec (.launchRecordStart q) s = .next s) ∧
        (x.running = none → x.backlog ≠ 0 → ctxRuns s (qdCtx x.desc) = true →
          (∀ e, readLaunch s q x = .error e → ∃ t, exec (.launchRecordStart q) s = .next t ∧ t.launches = s.launches ∧
            ∃ m ∈ t.outbox, m.typ = 6 ∧ m.cmd = 0x40 ∧ m.arg = BitVec.ofNat 64 (q + e % 16 * 2 ^ 10)) ∧
          (∀ la, readLaunch s q x = .ok la → ∃ t l, exec (.launchRecordStart q) s = .next t ∧ tget s.launches l = none ∧
            tget t.launches l = some la ∧ tget t.queues q = some { x with running := some l } ∧ t.mem = s.mem ∧ t.waves = s.waves ∧
            ∀ j, j ≠ l → tget t.launches j = tget s.launches j)))) ∧
    (∀ l, tget s.launches l = none → exec (.launchCompletion l) s = .next s) ∧
    (∀ l la, tget s.launches l = some la →
      (la.over s l = false ∨ (tget s.queues la.queue).bind Queue.running ≠ some l → exec (.launchCompletion l) s = .next s) ∧
      (la.over s l = true → (tget s.queues la.queue).bind Queue.running = some l →
        ∃ t, exec (.launchCompletion l) s = .next t ∧ (∀ e ∈ t.blocks, e.2.launch ≠ l) ∧ t.waves = s.waves ∧
          (tsorted s.launches = true → tget t.launches l = none) ∧
          ∀ x head hd, la.det = false → la.deferred = [] → (∀ c ∈ s.cores, (engineRecord s c.1 la.ctx).v = false) →
            tget s.queues la.queue = some x → hd = (qdHead x.desc + 1) % 2 ^ 32 → head = s.qtBase + 48 * la.queue + 40 →
            (∀ p, xlate s .hub la.ctx la.cwaddr .store = .ok p → sealedBy s la.ctx la.cwaddr 8 = false →
              uncorrectable s p.pa = false → vigilErr s (.mem p.pa) 8 = false → Memory.wf s.mem = true →
              p.pa + 8 ≤ head ∨ head + 4 ≤ p.pa →
              memRead t.mem p.pa 8 = leBytes 8 la.cseq ∧ memRead t.mem head 4 = leBytes 4 hd ∧
              (∀ a, a < p.pa ∨ p.pa + 8 ≤ a → a < head ∨ head + 4 ≤ a → memByte t.mem a = memByte s.mem a) ∧
              (qdEn x.desc = true → ∃ y, tget t.queues la.queue = some y ∧ qdHead y.desc = hd ∧ y.running = none)) ∧
            (∀ e, completionStore s la = .error e → Memory.wf s.mem = true → memRead t.mem head 4 = leBytes 4 hd ∧
              qdStop (queueDesc t la.queue) = true ∧ qdQerr (queueDesc t la.queue) = 6 ∧
              ∃ m ∈ t.outbox, m.typ = 6 ∧ m.cmd = 0x40 ∧ m.arg = BitVec.ofNat 64 (la.queue + 6 * 2 ^ 10 + e % 16 * 2 ^ 14)))) ∧
    (∀ k w va q scope dst d slot tail (give : Nat → Done), s.wave k = some w → d = queueDesc s q → tail = s.qtBase + 48 * q + 44 →
      slot = qdBase d + 192 * (qdTail d % 2 ^ qdLsize d) →
      (∀ v, give v = .done (s.setWave k (w.setScalBoth dst (BitVec.ofNat 64 v)))) →
      (q ≥ 1024 → performLaunch s k w va q scope dst = give 3) ∧
      (q < 1024 → descBad s q = true → performLaunch s k w va q scope dst = .fault ⟨26, 3, none, none⟩) ∧
      (q < 1024 → descBad s q = false →
        (qdCtx d ≠ w.ctx → performLaunch s k w va q scope dst = give 3) ∧
        (qdCtx d = w.ctx → qdEn d = false ∨ qdStop d = true → performLaunch s k w va q scope dst = give 2) ∧
        (qdCtx d = w.ctx → qdEn d = true → qdStop d = false →
          ((qdTail d + 2 ^ 32 - qdHead d) % 2 ^ 32 = 2 ^ qdLsize d → performLaunch s k w va q scope dst = give 1) ∧
          ((qdTail d + 2 ^ 32 - qdHead d) % 2 ^ 32 ≠ 2 ^ qdLsize d → Calm s w → s.early = [] → hasSteps s k w = false →
            Memory.wf s.mem = true → ∀ (p z : Nat → Place),
              (∀ i, i < 4 → PlainAt s w .load (va + 48 * i) 48 (p i) ∧ (p i).pa = (p 0).pa + 48 * i) →
              (∀ i, i < 4 → PlainAt s w .store (slot + 48 * i) 48 (z i) ∧ (z i).pa = (z 0).pa + 48 * i) →
              (z 0).pa + 192 ≤ tail ∨ tail + 4 ≤ (z 0).pa →
              ∃ t, performLaunch s k w va q scope dst = .done t ∧ t.wave k = some (w.setScalBoth dst 0) ∧
                (∀ j, j ≠ k → t.wave j = s.wave j) ∧ memRead t.mem (z 0).pa 192 = memRead s.mem (p 0).pa 192 ∧
                memRead t.mem tail 4 = leBytes 4 ((qdTail d + 1) % 2 ^ 32) ∧
                ∀ a, a < (z 0).pa ∨ (z 0).pa + 192 ≤ a → a < tail ∨ tail + 4 ≤ a → memByte t.mem a = memByte s.mem a))))

/-- DISPATCHER_GRANT and QUANTUM_EXPIRY (R340, R341, R343): with no candidate a quad's grant stays. A free quad goes to its best candidate, the one
of highest PRIO, least virtual time and lowest number, and so does one whose holder is no candidate any more (the model's choice, log 20)
or has a lower PRIO; at the end of its holder's quantum it goes to another best candidate of the same PRIO. Otherwise the holder keeps it.
Taking a quad away writes out the holder's blocks on it. Virtual times are those that the last step left (log 20). -/
def Obligations.GrantSteps : Prop :=
  ∀ (s : State) (q : Nat), q < 48 → tsorted s.queues = true →
    ((∀ b x, ¬Candidate s q b x) → exec (.dispatcherGrant q) s = .next s ∧ exec (.quantumExpiry q) s = .next s) ∧
    (∀ b x, Candidate s q b x → (∀ c y, Candidate s q c y → c ≠ b → Precedes b x c y) →
      ((s.quad q).grant = none → exec (.quantumExpiry q) s = .next s ∧
        ∃ t, exec (.dispatcherGrant q) s = .next t ∧ (t.quad q).grant = some b ∧ (t.quad q).grantUs = s.hubUs ∧ t.mem = s.mem ∧
          t.waves = s.waves ∧ t.blocks = s.blocks ∧ ∀ j, j ≠ q → t.quad j = s.quad j) ∧
      ((s.quad q).grant = some b → exec (.dispatcherGrant q) s = .next s ∧ exec (.quantumExpiry q) s = .next s) ∧
      (∀ h, (s.quad q).grant = some h → h ≠ b →
        ((∀ y, ¬Candidate s q h y) → exec (.quantumExpiry q) s = .next s ∧
          ∃ t, exec (.dispatcherGrant q) s = .next t ∧ TakenFrom s t q h b) ∧
        (∀ y, Candidate s q h y →
          (qdPrio y.desc < qdPrio x.desc → ∃ t, exec (.dispatcherGrant q) s = .next t ∧ TakenFrom s t q h b) ∧
          (qdPrio x.desc ≤ qdPrio y.desc → exec (.dispatcherGrant q) s = .next s) ∧
          (qdPrio x.desc = qdPrio y.desc → s.hubUs ≥ (s.quad q).grantUs + qdQuant y.desc →
            ∃ t, exec (.quantumExpiry q) s = .next t ∧ TakenFrom s t q h b) ∧
          (qdPrio x.desc ≠ qdPrio y.desc ∨ s.hubUs < (s.quad q).grantUs + qdQuant y.desc → exec (.quantumExpiry q) s = .next s))))

/-- CLUSTER_ADMISSION and CORE_RESPLIT (R24, R110, R111, R336, R338, R339, R346, R347, R352, R376, R398): a cluster is admitted whole when
its granted quad has a core with room for each of its blocks and the context has the slots and frames: its blocks are resident on distinct
cores, each with its waves as R338 gives them, and, its headers written, no wave or block that was there changes; a quad in another pool is
moved first. A core takes a launch's split when it holds no wave and no tile (of a tile of a cluster that runs elsewhere, the model's
choice, log 20), and loses its L1; a launch of no group re-splits none. -/
def Obligations.AdmissionSteps : Prop :=
  ∀ (s : State) (l : Nat) (la : Launch), tget s.launches l = some la →
    (∀ c q, ((tget s.queues la.queue).bind Queue.running ≠ some l ∨ la.mayAdmit c = false ∨ ctxRuns s la.ctx = false ∨ 48 ≤ q) →
      exec (.clusterAdmission l c q) s = .next s) ∧
    (∀ c q pmask, (tget s.queues la.queue).bind Queue.running = some l → la.mayAdmit c = true → ctxRuns s la.ctx = true → q < 48 →
      pmask = ((tget s.queues la.queue).map fun x => qdPmask x.desc).getD 0 →
      (la.det = false ∨ q / 12 = la.dieOf pmask (la.curveOf c)) →
      (quadMovable s q la = true → ∃ t, exec (.clusterAdmission l c q) s = .next t ∧ (t.quad q).cls = la.cls ∧ (t.quad q).chg = 1 ∧
        t.waves = s.waves ∧ t.launches = s.launches) ∧
      (quadMovable s q la = false → quadTakes s q la = false → exec (.clusterAdmission l c q) s = .next s) ∧
      (∀ n fr slots, quadMovable s q la = false → quadTakes s q la = true → n = (la.clusterBlocks c).length →
        n ≤ ((quadCores s q).filter fun x => coreTakes s x la la.bdim).length →
        (if la.needsFrames s then freeFrames s la.ctx (n * la.bdim) else some []) = some fr → freeSlots s la.ctx n = some slots →
        ∃ t la', exec (.clusterAdmission l c q) s = .next t ∧ tget t.launches l = some la' ∧
          la' = { la with admitted := la.admitted ++ [c], quiet := la'.quiet } ∧ t.admissions = s.admissions + 1 ∧
          AdmittedTo s t l la c q fr slots)) ∧
    (∀ c, (192 ≤ c ∨ la.clusters = 0 ∨ (s.quad (c / 4)).grant ≠ some la.queue ∨ splitOf (s.core c) = la.split ∨ coreWaves s c ≠ [] ∨
        tileCount s c ≠ 0 ∨ strandedOn s c = true) → exec (.coreResplit c l) s = .next s) ∧
    (∀ c, c < 192 → la.clusters ≠ 0 → (s.quad (c / 4)).grant = some la.queue → splitOf (s.core c) ≠ la.split → coreWaves s c = [] →
      tileCount s c = 0 → strandedOn s c = false →
      ∃ t, exec (.coreResplit c l) s = .next t ∧ splitOf (t.core c) = la.split ∧ (t.core c).l1 = [] ∧
        (∀ j, j ≠ c → t.core j = s.core j) ∧ t.mem = s.mem ∧ t.waves = s.waves)

/-- BLOCK_RETIRE, SWAP_THRESHOLD and BLOCK_RESTORE (R154, R343, R344, R376, R381, R399, R442, R443): a block of which nothing remains retires;
in a deterministic launch with its whole cluster, which retires at once when it is the next along the curve and otherwise has finished and
keeps its slots. A block whose waves have all waited their threshold on a core with demand is written out, or stranded where its
save area fails. One whose image reads back whole, alone in its cluster, runs on the core that is named, its waves as the records say;
where a read fails the context is halted and the owner told, and where the image is malformed the block is the host's, who is told once its
header has been written. A step that is
not due changes nothing. -/
def Obligations.BlockSteps : Prop :=
  ∀ (s : State) (b : Nat),
    (tget s.blocks b = none → exec (.blockRetire b) s = .next s ∧ exec (.swapThreshold b) s = .next s ∧
      ∀ c, exec (.blockRestore b c) s = .next s) ∧
    (∀ x la, tget s.blocks b = some x → tget s.launches x.launch = some la →
      (blockDone s b x = false → exec (.blockRetire b) s = .next s) ∧
      (blockDone s b x = true → la.det = false → ∃ t y, exec (.blockRetire b) s = .next t ∧ tget t.blocks b = some y ∧
        y.status = .retired) ∧
      (blockDone s b x = true → la.det = true →
        ((∃ e ∈ s.blocks, e.2.launch = x.launch ∧ e.2.cluster = x.cluster ∧ blockDone s e.1 e.2 = false) →
          exec (.blockRetire b) s = .next s) ∧
        ((∀ e ∈ s.blocks, e.2.launch = x.launch → e.2.cluster = x.cluster → blockDone s e.1 e.2 = true) →
          (∀ c ∈ la.finished, la.curveOf c ≠ la.retired.length) → tsorted s.blocks = true →
          ∃ t y la', exec (.blockRetire b) s = .next t ∧ tget t.blocks b = some y ∧ tget t.launches x.launch = some la' ∧
            (la.curveOf x.cluster = la.retired.length → y.status = .retired ∧ x.cluster ∈ la'.retired) ∧
            (la.curveOf x.cluster ≠ la.retired.length → y.status = .finished ∧ x.cluster ∈ la'.finished ∧ la'.retired = la.retired ∧
              (tget t.ctxs x.ctx).map Ctx.slots = (tget s.ctxs x.ctx).map Ctx.slots))) ∧
      (overThreshold s b x = false ∨ coreDemand s x.core = false → exec (.swapThreshold b) s = .next s) ∧
      (overThreshold s b x = true → coreDemand s x.core = true → (tget s.ctxs x.ctx).isSome = true →
        (∀ e ∈ s.blocks, e.1 ≠ b → e.2.core = x.core → e.2.ctx = x.ctx → e.2.waited ≤ x.waited) →
        ∃ t y, exec (.swapThreshold b) s = .next t ∧ tget t.blocks b = some y ∧
          (y.status = .swapped ∨ (y.status = .stranded ∧ y.strandAs = .swapped))) ∧
      (∀ c, x.status ≠ .swapped ∨ ctxRuns s x.ctx = false → exec (.blockRestore b c) s = .next s) ∧
      (∀ c, x.status = .swapped → ctxRuns s x.ctx = true → c < 192 → la.det = false → blockActive s b x = true → x.parked = [] →
        tsorted s.blocks = true → tsorted s.waves = true →
        (∀ e ∈ s.blocks, e.1 ≠ b → ¬(e.2.launch = x.launch ∧ e.2.cluster = x.cluster)) →
        (∀ e ∈ s.wavesOf b, inRelease s e.1 = false ∧ e.2.vresult = none ∧ e.2.qdue = 0) → releaseBefore s [(b, x)] = false →
        quadMovable s (c / 4) la = false → quadTakes s (c / 4) la = true →
        blockFits s c b x la ((tvals s.tiles).filter fun t => t.owner = .cluster x.launch x.cluster) = true →
        tileEntries (assignTiles s x true [((b, x), c)]) c ≤ 64 →
        (∀ images, readSlot s b x = .ok images →
          ∃ t y, exec (.blockRestore b c) s = .next t ∧ tget t.blocks b = some y ∧ t.admissions > s.admissions ∧
            (ctxRuns t x.ctx = true → y.status = .resident ∧ y.core = c ∧
              ∀ im ∈ images, ∃ w', t.wave im.wave = some w' ∧ w'.st = im.st ∧ w'.bank = im.bank)) ∧
        (∀ e, readSlot s b x = .failed e → ∃ t c', exec (.blockRestore b c) s = .next t ∧ tget t.blocks b = some x ∧
          tget t.ctxs x.ctx = some c' ∧ c'.halted = true ∧ ∃ m ∈ t.outbox, m.typ = 6 ∧ m.ctx = BitVec.ofNat 12 x.ctx ∧
            m.cmd = (if e.1 = 0 then 26 else 3) ∧ m.arg = BitVec.ofNat 64 (x.slot + (if e.1 = 0 then 2 else e.1) * 2 ^ 52)) ∧
        (∀ wid, readSlot s b x = .malformed wid → ∃ t y, exec (.blockRestore b c) s = .next t ∧ tget t.blocks b = some y ∧
          y.status = .escalated ∧ y.escWave = wid ∧ CauseIs y.hcause 26 5 3 false false none ∧
          ((∃ m ∈ t.outbox, m.typ = 6 ∧ m.ctx = BitVec.ofNat 12 x.ctx ∧ m.cmd = 26 ∧ m.arg = BitVec.ofNat 64 (x.slot + 5 * 2 ^ 52)) ∨
            y.notice = some (26, BitVec.ofNat 64 (x.slot + 5 * 2 ^ 52)) ∧ ∃ c', tget t.ctxs x.ctx = some c' ∧ c'.halted = true))))

/-- WAVE_LIGHTING, VICTIM_TIMEOUT and GRID_RELEASE_BATCH (R173, R350, R406): a free slot goes to the head of its side's lighting queue; with none
free the wave that has been lit longest, for 1,024 cycles at least, becomes the victim, and a victim that reaches no boundary in 16,384
cycles is rolled back and darkened. The next batch of a grid-wide release waits for the one before and for its microsecond. -/
def Obligations.LightingSteps : Prop :=
  ∀ s : State,
    (∀ sd, (s.side sd).lighting.filter (canLight s sd) = [] → exec (.waveLighting sd) s = .next s) ∧
    (∀ sd k rest, (s.side sd).lighting.filter (canLight s sd) = k :: rest →
      (∀ w, (litOf s sd).length < 4 → s.wave k = some w → ∃ t w', exec (.waveLighting sd) s = .next t ∧ t.wave k = some w' ∧
        w'.lit = true ∧ w'.wait = .none ∧ w'.victim = false ∧ w'.st = w.st ∧ w'.far = w.far ∧ (t.side sd).lighting = rest ∧
        KeepsOthers k s t ∧ ∀ i l, (i, l) ∈ w'.near ↔ (i, l) ∈ w.bank ∧ bit w.st.svm i = true) ∧
      ((litOf s sd).length ≥ 4 → ((∃ e ∈ litOf s sd, e.2.victim = true) ∨
          ∀ e ∈ litOf s sd, (s.core (sd / 4)).cycles < e.2.litAt + 1024) → exec (.waveLighting sd) s = .next s) ∧
      ((litOf s sd).length ≥ 4 → (∀ e ∈ litOf s sd, e.2.victim = false) →
        (∃ e ∈ litOf s sd, (s.core (sd / 4)).cycles ≥ e.2.litAt + 1024) → tsorted s.waves = true →
        ∃ t v w, exec (.waveLighting sd) s = .next t ∧ (v, w) ∈ litOf s sd ∧ (s.core (sd / 4)).cycles ≥ w.litAt + 1024 ∧
          (∀ e ∈ litOf s sd, w.litAt ≤ e.2.litAt) ∧ KeepsOthers v s t ∧
          t.wave v = some { w with victim := true, litAt := (s.core (sd / 4)).cycles })) ∧
    (∀ k w, s.wave k = some w →
      (w.lit = false ∨ w.victim = false ∨ (s.core w.core).cycles < w.litAt + 16384 → exec (.victimTimeout k) s = .next s) ∧
      (w.lit = true → w.victim = true → (s.core w.core).cycles ≥ w.litAt + 16384 → ∃ t w', exec (.victimTimeout k) s = .next t ∧
        t.wave k = some w' ∧ w'.lit = false ∧ w'.wait = .parked ∧ w'.st = w.head ∧ w'.queue = [] ∧ w'.far = w.far ∧
        k ∈ (t.side w.side).lighting ∧ KeepsOthers k s t)) ∧
    (∀ id, tget s.releases id = none → exec (.gridReleaseBatch id) s = .next s) ∧
    (∀ id r, tget s.releases id = some r →
      (r.batch ≠ [] → (∃ k ∈ r.batch, beenLit s k = false) → exec (.gridReleaseBatch id) s = .next s) ∧
      (r.batch ≠ [] → (∀ k ∈ r.batch, beenLit s k = true) → ∃ t, exec (.gridReleaseBatch id) s = .next t ∧ t.waves = s.waves ∧
        tget t.releases id = some { r with batch := [], nextUs := s.hubUs + 1 }) ∧
      (r.batch = [] → r.waves ≠ [] → s.hubUs < r.nextUs → exec (.gridReleaseBatch id) s = .next s) ∧
      (r.batch = [] → r.waves ≠ [] → r.nextUs ≤ s.hubUs → 0 < r.slew → ∃ t r', exec (.gridReleaseBatch id) s = .next t ∧
        tget t.releases id = some r' ∧ r'.batch ≠ [] ∧ (∀ k ∈ r'.batch, ∃ x ∈ r.waves, x.1 = k) ∧
        (∀ x, x ∈ r'.waves ↔ x ∈ r.waves ∧ x.1 ∉ r'.batch) ∧ t.mem = s.mem))

/-! Values. -/

/-- The integer operations on one element of 8, 16, 32 or 64 bits, in two's complement (R194 to R197, R199), and the integer operations of
the atomics on a 32-bit or 64-bit word, whatever the rounding mode (R298); the FP atomics on one word or on each half of a packed one, where
a NaN raises invalid (R299); the maxi atomic, its value low and its index high, by FMAXI's rules. CVT of one element (R211), with the
formats of R210; the mantissas that BPK, BUPK and SBPK make and the elements that SBUPK makes (R212 to R214). -/
def Obligations.WordArithmetic : Prop :=
  (∀ n : Nat, (n = 8 ∨ n = 16 ∨ n = 32 ∨ n = 64) → ∀ (a b c : BitVec n) (l : List Nat) (k : Nat), l = [a.toNat, b.toNat, c.toNat] →
     k = b.toNat % 256 →
     addOp false 0 n l = (a + b).toNat ∧ addOp true 0 n l = (a - b).toNat ∧ mulOp n l = (a * b).toNat ∧
     madOp n l = (a * b + c).toNat ∧
     addOp false 1 n l = (if a.saddOverflow b then (if a.msb then BitVec.intMin n else BitVec.intMax n) else a + b).toNat ∧
     addOp true 1 n l = (if a.ssubOverflow b then (if a.msb then BitVec.intMin n else BitVec.intMax n) else a - b).toNat ∧
     addOp false 3 n l = (if a.uaddOverflow b then BitVec.allOnes n else a + b).toNat ∧
     addOp true 3 n l = (if a < b then 0 else a - b).toNat ∧
     mulhOp 2 n l = a.toNat * b.toNat / 2 ^ n ∧
     mulhOp 0 n l = ((a.signExtend (2 * n) * b.signExtend (2 * n)).extractLsb' n n).toNat ∧
     minMaxOp false 0 n l = (if a.sle b then a else b).toNat ∧ minMaxOp true 0 n l = (if b.sle a then a else b).toNat ∧
     minMaxOp false 2 n l = min a.toNat b.toNat ∧ minMaxOp true 2 n l = max a.toNat b.toNat ∧
     absOp 0 n l = (if a.msb then -a else a).toNat ∧
     absOp 1 n l = (if a = BitVec.intMin n then BitVec.intMax n else if a.msb then -a else a).toNat ∧
     shlOp n l = (a <<< k).toNat ∧ shrOp n l = (a >>> k).toNat ∧ sarOp n l = (a.sshiftRight k).toNat ∧
     rotOp 0 n l = (a.rotateLeft k).toNat ∧ rotOp 1 n l = (a.rotateRight k).toNat ∧
     popcOp n l = ((List.range n).filter fun j => a.getLsbD j).length ∧
     (clzOp n l ≤ n ∧ (∀ j, n - clzOp n l ≤ j → a.getLsbD j = false) ∧ (clzOp n l < n → a.getLsbD (n - 1 - clzOp n l) = true)) ∧
     (brevOp n l < 2 ^ n ∧ ∀ j, j < n → (brevOp n l).testBit j = a.getLsbD (n - 1 - j)) ∧
     (∀ tt, lop3Op tt n l < 2 ^ n ∧ ∀ j, j < n → (lop3Op tt n l).testBit j =
       tt.testBit ((a.getLsbD j).toNat + 2 * (b.getLsbD j).toNat + 4 * (c.getLsbD j).toNat)) ∧
     (∀ len, (n = 32 ∨ n = 64) → len = (if k ≥ n then 0 else min (b.toNat / 256 % 256) (n - k)) →
       (∀ so j, (so = 0 ∨ so = 1) → j < n → (bfxOp so n l).testBit j =
         (if j < len then a.getLsbD (k + j) else so = 1 && decide (0 < len) && a.getLsbD (k + len - 1))) ∧
       (∀ j, j < n → (bfxOp 2 n l).testBit j = (if k ≤ j ∧ j < k + len then a.getLsbD (j - k) else c.getLsbD j)) ∧
       ∀ so, (so = 0 ∨ so = 1 ∨ so = 2) → bfxOp so n l < 2 ^ n)) ∧
  (∀ (n : Nat) (w64 : Bool) (old v cmp : BitVec n) (rnd : Nat) (f : Nat → Nat), n = (if w64 then 64 else 32) →
     (∀ op, f op = (atomOp op false w64 rnd old.toNat v.toNat cmp.toNat).1) →
     f 0 = (old + v).toNat ∧ f 1 = (old &&& v).toNat ∧ f 2 = (old ||| v).toNat ∧ f 3 = (old ^^^ v).toNat ∧
     f 4 = (if v.slt old then v else old).toNat ∧ f 5 = (if old.slt v then v else old).toNat ∧
     f 6 = min old.toNat v.toNat ∧ f 7 = max old.toNat v.toNat ∧ f 8 = v.toNat ∧
     f 9 = (if old = cmp then v else old).toNat ∧ f 10 = (if old ≥ v then 0 else old + 1).toNat ∧
     ∀ op, op ≤ 10 → (atomOp op false w64 rnd old.toNat v.toNat cmp.toNat).2 = 0) ∧
  (∀ (fmt rnd old v cmp : Nat) (j : Nat → Nat → Nat) (one : Nat → Nat → Nat → Nat × FFlags), (j = fun x k => x / 2 ^ (16 * k) % 2 ^ 16) →
     (∀ a b, (isNaNOf fmt a ∨ isNaNOf fmt b → one 11 a b = (defaultNaN fmt, flNV)) ∧
       (¬isNaNOf fmt a → ¬isNaNOf fmt b → one 11 a b = fAdd fmt rnd a b) ∧ one 12 a b = fMinMax false fmt a b ∧
       one 13 a b = fMinMax true fmt a b) →
     (∀ op, 11 ≤ op → op ≤ 13 →
       (fmt ≤ 1 → old < 2 ^ fwidth fmt → v < 2 ^ fwidth fmt → atomOp op false (fmt == 1) rnd old v cmp = one op old v) ∧
       (fmt = 2 ∨ fmt = 3 → old < 2 ^ 32 → v < 2 ^ 32 → atomOp op true (fmt == 3) rnd old v cmp =
         ((one op (j old 0) (j v 0)).1 + (one op (j old 1) (j v 1)).1 * 2 ^ 16,
           (one op (j old 0) (j v 0)).2 ||| (one op (j old 1) (j v 1)).2))) ∧
     ∀ h r, (fmt = 0 ∨ fmt = 2 ∨ fmt = 3) → h = (if fmt = 0 then 32 else 16) →
       r = fMaxI true fmt (old % 2 ^ h) (old / 2 ^ h) (v % 2 ^ h) (v / 2 ^ h) → old < 2 ^ (2 * h) → v < 2 ^ (2 * h) →
       atomOp 14 (fmt == 3) (fmt == 0) rnd old v cmp = (r.1 + r.2.1 * 2 ^ h, r.2.2)) ∧
  (∀ sc dc rnd a : Nat, ∀ sat : Bool, ∀ lo hi : ℤ, sc < 12 → dc < 12 → rnd ≤ 3 → a < 2 ^ cvtWidth sc →
     (List.range 12).map cvtWidth = [32, 64, 16, 16, 8, 16, 32, 64, 8, 16, 32, 64] →
     lo = (if dc < 8 then -(2 : ℤ) ^ (cvtWidth dc - 1) else 0) →
     hi = (if dc < 8 then (2 : ℤ) ^ (cvtWidth dc - 1) - 1 else 2 ^ cvtWidth dc - 1) →
     (sc < 4 → dc < 4 → (∀ x, finValue sc a = some x →
         (x ≠ 0 → Rounded dc rnd x (cvtElem sc dc rnd sat a)) ∧ (x = 0 → cvtElem sc dc rnd sat a = (signBit dc (negOf sc a), 0))) ∧
       (∀ neg, a = infBits sc neg → cvtElem sc dc rnd sat a = (infBits dc neg, 0)) ∧
       (isSNaNOf sc a → cvtElem sc dc rnd sat a = (defaultNaN dc, flNV)) ∧
       (isNaNOf sc a → ¬isSNaNOf sc a → cvtElem sc dc rnd sat a = (defaultNaN dc, 0))) ∧
     (sc < 4 → 4 ≤ dc → (∀ x, finValue sc a = some x → ∃ n, NearestInt rnd x n ∧
         cvtElem sc dc rnd sat a = (wrap (cvtWidth dc) (max lo (min hi n)),
           if n < lo ∨ hi < n then flNV else if (n : ℚ) = x then 0 else flNX)) ∧
       (∀ neg, a = infBits sc neg → cvtElem sc dc rnd sat a = (wrap (cvtWidth dc) (if neg then lo else hi), flNV)) ∧
       (isNaNOf sc a → cvtElem sc dc rnd sat a = (0, flNV))) ∧
     (∀ v : ℤ, 4 ≤ sc → v = (if sc < 8 then (BitVec.ofNat (cvtWidth sc) a).toInt else a) →
       (dc < 4 → (v ≠ 0 → Rounded dc rnd v (cvtElem sc dc rnd sat a)) ∧ (v = 0 → cvtElem sc dc rnd sat a = (0, 0))) ∧
       (4 ≤ dc → cvtElem sc dc rnd sat a =
         ((BitVec.ofInt (cvtWidth dc) (if sat then max lo (min hi v) else v)).toNat, 0)))) ∧
  (∀ (w j bytes x : Nat) (lo hi : ℤ), 2 ≤ w → w ≤ 8 → j < 128 / w → lo = -(2 : ℤ) ^ (w - 1) → hi = 2 ^ (w - 1) - 1 →
     (∀ block, bfpMant w block j = (BitVec.ofNat w (block / 2 ^ (w * j))).toInt) ∧
     (∀ m : ℤ, m = (BitVec.ofNat 8 (bytes / 2 ^ (8 * j))).toInt → bfpMant w (bpkBlock w bytes) j = max lo (min hi m)) ∧
     bpkBlock w bytes < 2 ^ (w * (128 / w)) ∧
     (∀ block, bupkBytes w block / 2 ^ (8 * j) % 2 ^ 8 = (BitVec.ofInt 8 (bfpMant w block j)).toNat ∧
       bupkBytes w block < 2 ^ (8 * (128 / w))) ∧
     (∀ fmt rnd elems e, (fmt = 0 ∨ fmt = 2 ∨ fmt = 3) → rnd ≤ 3 → x < 256 → e = elems / 2 ^ (packBits fmt * j) % 2 ^ packBits fmt →
       bfpMant w (sbpkBlock w fmt rnd x elems).1 j = (sbpkMant w fmt rnd x e).1 ∧
       (sbpkBlock w fmt rnd x elems).2 &&& (sbpkMant w fmt rnd x e).2 = (sbpkMant w fmt rnd x e).2 ∧
       (x = 255 → sbpkMant w fmt rnd x e = (0, 0)) ∧
       (x ≠ 255 → (∀ y, finValue fmt e = some y → ∃ n, NearestInt rnd (y * (2 : ℝ) ^ ((127 + w - 2 : ℤ) - x)) n ∧
           sbpkMant w fmt rnd x e = (max lo (min hi n), if n < lo ∨ hi < n then flOF ||| flNX
             else if (n : ℚ) = y * (2 : ℚ) ^ ((127 + w - 2 : ℤ) - x) then 0 else flNX)) ∧
         (∀ neg, e = infBits fmt neg → sbpkMant w fmt rnd x e = (if neg then lo else hi, flNV)) ∧
         (isNaNOf fmt e → sbpkMant w fmt rnd x e = (0, flNV))) ∧
       (∀ block, (sbupkElems w fmt rnd x block).1 / 2 ^ (packBits fmt * j) % 2 ^ packBits fmt = (sbupkElem w fmt rnd x block j).1 ∧
         (x = 255 → sbupkElem w fmt rnd x block j = (defaultNaN fmt, 0)) ∧
         (x ≠ 255 → bfpMant w block j = 0 → sbupkElem w fmt rnd x block j = (0, 0)) ∧
         (x ≠ 255 → bfpMant w block j ≠ 0 →
           Rounded fmt rnd (bfpMant w block j * (2 : ℝ) ^ ((x : ℤ) - 127 - (w - 2))) (sbupkElem w fmt rnd x block j)))))
end
end

