-- ==== Sys2Proof/Laws/State.lean ====
section
/-! SUPPORT. Projections of the state after each of its updates: one lemma for each field and update, all by unfolding. -/
namespace Sys2Proof.Machine

@[simp] theorem State.setCore_free (s : State) (c : Nat) (x : Core) : (s.setCore c x).free = s.free := rfl
@[simp] theorem State.setCore_turn (s : State) (c : Nat) (x : Core) : (s.setCore c x).turn = s.turn := rfl
@[simp] theorem State.setCore_cur (s : State) (c : Nat) (x : Core) : (s.setCore c x).cur = s.cur := rfl
@[simp] theorem State.setCore_mem (s : State) (c : Nat) (x : Core) : (s.setCore c x).mem = s.mem := rfl
@[simp] theorem State.setCore_sent (s : State) (c : Nat) (x : Core) : (s.setCore c x).sent = s.sent := rfl
@[simp] theorem State.setCore_early (s : State) (c : Nat) (x : Core) : (s.setCore c x).early = s.early := rfl
@[simp] theorem State.setCore_l2 (s : State) (c : Nat) (x : Core) : (s.setCore c x).l2 = s.l2 := rfl
@[simp] theorem State.setCore_errs (s : State) (c : Nat) (x : Core) : (s.setCore c x).errs = s.errs := rfl
@[simp] theorem State.setCore_tlb (s : State) (c : Nat) (x : Core) : (s.setCore c x).tlb = s.tlb := rfl
@[simp] theorem State.setCore_xlinvs (s : State) (c : Nat) (x : Core) : (s.setCore c x).xlinvs = s.xlinvs := rfl
@[simp] theorem State.setCore_ctxs (s : State) (c : Nat) (x : Core) : (s.setCore c x).ctxs = s.ctxs := rfl
@[simp] theorem State.setCore_queues (s : State) (c : Nat) (x : Core) : (s.setCore c x).queues = s.queues := rfl
@[simp] theorem State.setCore_launches (s : State) (c : Nat) (x : Core) : (s.setCore c x).launches = s.launches := rfl
@[simp] theorem State.setCore_blocks (s : State) (c : Nat) (x : Core) : (s.setCore c x).blocks = s.blocks := rfl
@[simp] theorem State.setCore_waves (s : State) (c : Nat) (x : Core) : (s.setCore c x).waves = s.waves := rfl
@[simp] theorem State.setCore_cores (s : State) (c : Nat) (x : Core) : (s.setCore c x).cores = tset s.cores c x := rfl
@[simp] theorem State.setCore_sides (s : State) (c : Nat) (x : Core) : (s.setCore c x).sides = s.sides := rfl
@[simp] theorem State.setCore_quads (s : State) (c : Nat) (x : Core) : (s.setCore c x).quads = s.quads := rfl
@[simp] theorem State.setCore_dies (s : State) (c : Nat) (x : Core) : (s.setCore c x).dies = s.dies := rfl
@[simp] theorem State.setCore_vigils (s : State) (c : Nat) (x : Core) : (s.setCore c x).vigils = s.vigils := rfl
@[simp] theorem State.setCore_tickets (s : State) (c : Nat) (x : Core) : (s.setCore c x).tickets = s.tickets := rfl
@[simp] theorem State.setCore_wakes (s : State) (c : Nat) (x : Core) : (s.setCore c x).wakes = s.wakes := rfl
@[simp] theorem State.setCore_helds (s : State) (c : Nat) (x : Core) : (s.setCore c x).helds = s.helds := rfl
@[simp] theorem State.setCore_releases (s : State) (c : Nat) (x : Core) : (s.setCore c x).releases = s.releases := rfl
@[simp] theorem State.setCore_locks (s : State) (c : Nat) (x : Core) : (s.setCore c x).locks = s.locks := rfl
@[simp] theorem State.setCore_seals (s : State) (c : Nat) (x : Core) : (s.setCore c x).seals = s.seals := rfl
@[simp] theorem State.setCore_tiles (s : State) (c : Nat) (x : Core) : (s.setCore c x).tiles = s.tiles := rfl
@[simp] theorem State.setCore_engops (s : State) (c : Nat) (x : Core) : (s.setCore c x).engops = s.engops := rfl
@[simp] theorem State.setCore_patches (s : State) (c : Nat) (x : Core) : (s.setCore c x).patches = s.patches := rfl
@[simp] theorem State.setCore_qtBase (s : State) (c : Nat) (x : Core) : (s.setCore c x).qtBase = s.qtBase := rfl
@[simp] theorem State.setCore_hubUs (s : State) (c : Nat) (x : Core) : (s.setCore c x).hubUs = s.hubUs := rfl
@[simp] theorem State.setCore_started (s : State) (c : Nat) (x : Core) : (s.setCore c x).started = s.started := rfl
@[simp] theorem State.setCore_minimal (s : State) (c : Nat) (x : Core) : (s.setCore c x).minimal = s.minimal := rfl
@[simp] theorem State.setCore_reason (s : State) (c : Nat) (x : Core) : (s.setCore c x).reason = s.reason := rfl
@[simp] theorem State.setCore_fails (s : State) (c : Nat) (x : Core) : (s.setCore c x).fails = s.fails := rfl
@[simp] theorem State.setCore_nodeId (s : State) (c : Nat) (x : Core) : (s.setCore c x).nodeId = s.nodeId := rfl
@[simp] theorem State.setCore_mgmtNode (s : State) (c : Nat) (x : Core) : (s.setCore c x).mgmtNode = s.mgmtNode := rfl
@[simp] theorem State.setCore_serial (s : State) (c : Nat) (x : Core) : (s.setCore c x).serial = s.serial := rfl
@[simp] theorem State.setCore_minVersion (s : State) (c : Nat) (x : Core) : (s.setCore c x).minVersion = s.minVersion := rfl
@[simp] theorem State.setCore_romDigest (s : State) (c : Nat) (x : Core) : (s.setCore c x).romDigest = s.romDigest := rfl
@[simp] theorem State.setCore_fwDigest (s : State) (c : Nat) (x : Core) : (s.setCore c x).fwDigest = s.fwDigest := rfl
@[simp] theorem State.setCore_fuseDigest (s : State) (c : Nat) (x : Core) : (s.setCore c x).fuseDigest = s.fuseDigest := rfl
@[simp] theorem State.setCore_rootKey (s : State) (c : Nat) (x : Core) : (s.setCore c x).rootKey = s.rootKey := rfl
@[simp] theorem State.setCore_nextFw (s : State) (c : Nat) (x : Core) : (s.setCore c x).nextFw = s.nextFw := rfl
@[simp] theorem State.setCore_sigIndex (s : State) (c : Nat) (x : Core) : (s.setCore c x).sigIndex = s.sigIndex := rfl
@[simp] theorem State.setCore_outbox (s : State) (c : Nat) (x : Core) : (s.setCore c x).outbox = s.outbox := rfl
@[simp] theorem State.setCore_selfRefresh (s : State) (c : Nat) (x : Core) : (s.setCore c x).selfRefresh = s.selfRefresh := rfl
@[simp] theorem State.setCore_refreshing (s : State) (c : Nat) (x : Core) : (s.setCore c x).refreshing = s.refreshing := rfl
@[simp] theorem State.setCore_admissions (s : State) (c : Nat) (x : Core) : (s.setCore c x).admissions = s.admissions := rfl
@[simp] theorem State.setCore_stepIds (s : State) (c : Nat) (x : Core) : (s.setCore c x).stepIds = s.stepIds := rfl

@[simp] theorem State.setSide_free (s : State) (c : Nat) (x : Side) : (s.setSide c x).free = s.free := rfl
@[simp] theorem State.setSide_turn (s : State) (c : Nat) (x : Side) : (s.setSide c x).turn = s.turn := rfl
@[simp] theorem State.setSide_cur (s : State) (c : Nat) (x : Side) : (s.setSide c x).cur = s.cur := rfl
@[simp] theorem State.setSide_mem (s : State) (c : Nat) (x : Side) : (s.setSide c x).mem = s.mem := rfl
@[simp] theorem State.setSide_sent (s : State) (c : Nat) (x : Side) : (s.setSide c x).sent = s.sent := rfl
@[simp] theorem State.setSide_early (s : State) (c : Nat) (x : Side) : (s.setSide c x).early = s.early := rfl
@[simp] theorem State.setSide_l2 (s : State) (c : Nat) (x : Side) : (s.setSide c x).l2 = s.l2 := rfl
@[simp] theorem State.setSide_errs (s : State) (c : Nat) (x : Side) : (s.setSide c x).errs = s.errs := rfl
@[simp] theorem State.setSide_tlb (s : State) (c : Nat) (x : Side) : (s.setSide c x).tlb = s.tlb := rfl
@[simp] theorem State.setSide_xlinvs (s : State) (c : Nat) (x : Side) : (s.setSide c x).xlinvs = s.xlinvs := rfl
@[simp] theorem State.setSide_ctxs (s : State) (c : Nat) (x : Side) : (s.setSide c x).ctxs = s.ctxs := rfl
@[simp] theorem State.setSide_queues (s : State) (c : Nat) (x : Side) : (s.setSide c x).queues = s.queues := rfl
@[simp] theorem State.setSide_launches (s : State) (c : Nat) (x : Side) : (s.setSide c x).launches = s.launches := rfl
@[simp] theorem State.setSide_blocks (s : State) (c : Nat) (x : Side) : (s.setSide c x).blocks = s.blocks := rfl
@[simp] theorem State.setSide_waves (s : State) (c : Nat) (x : Side) : (s.setSide c x).waves = s.waves := rfl
@[simp] theorem State.setSide_cores (s : State) (c : Nat) (x : Side) : (s.setSide c x).cores = s.cores := rfl
@[simp] theorem State.setSide_sides (s : State) (c : Nat) (x : Side) : (s.setSide c x).sides = tset s.sides c x := rfl
@[simp] theorem State.setSide_quads (s : State) (c : Nat) (x : Side) : (s.setSide c x).quads = s.quads := rfl
@[simp] theorem State.setSide_dies (s : State) (c : Nat) (x : Side) : (s.setSide c x).dies = s.dies := rfl
@[simp] theorem State.setSide_vigils (s : State) (c : Nat) (x : Side) : (s.setSide c x).vigils = s.vigils := rfl
@[simp] theorem State.setSide_tickets (s : State) (c : Nat) (x : Side) : (s.setSide c x).tickets = s.tickets := rfl
@[simp] theorem State.setSide_wakes (s : State) (c : Nat) (x : Side) : (s.setSide c x).wakes = s.wakes := rfl
@[simp] theorem State.setSide_helds (s : State) (c : Nat) (x : Side) : (s.setSide c x).helds = s.helds := rfl
@[simp] theorem State.setSide_releases (s : State) (c : Nat) (x : Side) : (s.setSide c x).releases = s.releases := rfl
@[simp] theorem State.setSide_locks (s : State) (c : Nat) (x : Side) : (s.setSide c x).locks = s.locks := rfl
@[simp] theorem State.setSide_seals (s : State) (c : Nat) (x : Side) : (s.setSide c x).seals = s.seals := rfl
@[simp] theorem State.setSide_tiles (s : State) (c : Nat) (x : Side) : (s.setSide c x).tiles = s.tiles := rfl
@[simp] theorem State.setSide_engops (s : State) (c : Nat) (x : Side) : (s.setSide c x).engops = s.engops := rfl
@[simp] theorem State.setSide_patches (s : State) (c : Nat) (x : Side) : (s.setSide c x).patches = s.patches := rfl
@[simp] theorem State.setSide_qtBase (s : State) (c : Nat) (x : Side) : (s.setSide c x).qtBase = s.qtBase := rfl
@[simp] theorem State.setSide_hubUs (s : State) (c : Nat) (x : Side) : (s.setSide c x).hubUs = s.hubUs := rfl
@[simp] theorem State.setSide_started (s : State) (c : Nat) (x : Side) : (s.setSide c x).started = s.started := rfl
@[simp] theorem State.setSide_minimal (s : State) (c : Nat) (x : Side) : (s.setSide c x).minimal = s.minimal := rfl
@[simp] theorem State.setSide_reason (s : State) (c : Nat) (x : Side) : (s.setSide c x).reason = s.reason := rfl
@[simp] theorem State.setSide_fails (s : State) (c : Nat) (x : Side) : (s.setSide c x).fails = s.fails := rfl
@[simp] theorem State.setSide_nodeId (s : State) (c : Nat) (x : Side) : (s.setSide c x).nodeId = s.nodeId := rfl
@[simp] theorem State.setSide_mgmtNode (s : State) (c : Nat) (x : Side) : (s.setSide c x).mgmtNode = s.mgmtNode := rfl
@[simp] theorem State.setSide_serial (s : State) (c : Nat) (x : Side) : (s.setSide c x).serial = s.serial := rfl
@[simp] theorem State.setSide_minVersion (s : State) (c : Nat) (x : Side) : (s.setSide c x).minVersion = s.minVersion := rfl
@[simp] theorem State.setSide_romDigest (s : State) (c : Nat) (x : Side) : (s.setSide c x).romDigest = s.romDigest := rfl
@[simp] theorem State.setSide_fwDigest (s : State) (c : Nat) (x : Side) : (s.setSide c x).fwDigest = s.fwDigest := rfl
@[simp] theorem State.setSide_fuseDigest (s : State) (c : Nat) (x : Side) : (s.setSide c x).fuseDigest = s.fuseDigest := rfl
@[simp] theorem State.setSide_rootKey (s : State) (c : Nat) (x : Side) : (s.setSide c x).rootKey = s.rootKey := rfl
@[simp] theorem State.setSide_nextFw (s : State) (c : Nat) (x : Side) : (s.setSide c x).nextFw = s.nextFw := rfl
@[simp] theorem State.setSide_sigIndex (s : State) (c : Nat) (x : Side) : (s.setSide c x).sigIndex = s.sigIndex := rfl
@[simp] theorem State.setSide_outbox (s : State) (c : Nat) (x : Side) : (s.setSide c x).outbox = s.outbox := rfl
@[simp] theorem State.setSide_selfRefresh (s : State) (c : Nat) (x : Side) : (s.setSide c x).selfRefresh = s.selfRefresh := rfl
@[simp] theorem State.setSide_refreshing (s : State) (c : Nat) (x : Side) : (s.setSide c x).refreshing = s.refreshing := rfl
@[simp] theorem State.setSide_admissions (s : State) (c : Nat) (x : Side) : (s.setSide c x).admissions = s.admissions := rfl
@[simp] theorem State.setSide_stepIds (s : State) (c : Nat) (x : Side) : (s.setSide c x).stepIds = s.stepIds := rfl

@[simp] theorem State.setQuad_free (s : State) (c : Nat) (x : Quad) : (s.setQuad c x).free = s.free := rfl
@[simp] theorem State.setQuad_turn (s : State) (c : Nat) (x : Quad) : (s.setQuad c x).turn = s.turn := rfl
@[simp] theorem State.setQuad_cur (s : State) (c : Nat) (x : Quad) : (s.setQuad c x).cur = s.cur := rfl
@[simp] theorem State.setQuad_mem (s : State) (c : Nat) (x : Quad) : (s.setQuad c x).mem = s.mem := rfl
@[simp] theorem State.setQuad_sent (s : State) (c : Nat) (x : Quad) : (s.setQuad c x).sent = s.sent := rfl
@[simp] theorem State.setQuad_early (s : State) (c : Nat) (x : Quad) : (s.setQuad c x).early = s.early := rfl
@[simp] theorem State.setQuad_l2 (s : State) (c : Nat) (x : Quad) : (s.setQuad c x).l2 = s.l2 := rfl
@[simp] theorem State.setQuad_errs (s : State) (c : Nat) (x : Quad) : (s.setQuad c x).errs = s.errs := rfl
@[simp] theorem State.setQuad_tlb (s : State) (c : Nat) (x : Quad) : (s.setQuad c x).tlb = s.tlb := rfl
@[simp] theorem State.setQuad_xlinvs (s : State) (c : Nat) (x : Quad) : (s.setQuad c x).xlinvs = s.xlinvs := rfl
@[simp] theorem State.setQuad_ctxs (s : State) (c : Nat) (x : Quad) : (s.setQuad c x).ctxs = s.ctxs := rfl
@[simp] theorem State.setQuad_queues (s : State) (c : Nat) (x : Quad) : (s.setQuad c x).queues = s.queues := rfl
@[simp] theorem State.setQuad_launches (s : State) (c : Nat) (x : Quad) : (s.setQuad c x).launches = s.launches := rfl
@[simp] theorem State.setQuad_blocks (s : State) (c : Nat) (x : Quad) : (s.setQuad c x).blocks = s.blocks := rfl
@[simp] theorem State.setQuad_waves (s : State) (c : Nat) (x : Quad) : (s.setQuad c x).waves = s.waves := rfl
@[simp] theorem State.setQuad_cores (s : State) (c : Nat) (x : Quad) : (s.setQuad c x).cores = s.cores := rfl
@[simp] theorem State.setQuad_sides (s : State) (c : Nat) (x : Quad) : (s.setQuad c x).sides = s.sides := rfl
@[simp] theorem State.setQuad_quads (s : State) (c : Nat) (x : Quad) : (s.setQuad c x).quads = tset s.quads c x := rfl
@[simp] theorem State.setQuad_dies (s : State) (c : Nat) (x : Quad) : (s.setQuad c x).dies = s.dies := rfl
@[simp] theorem State.setQuad_vigils (s : State) (c : Nat) (x : Quad) : (s.setQuad c x).vigils = s.vigils := rfl
@[simp] theorem State.setQuad_tickets (s : State) (c : Nat) (x : Quad) : (s.setQuad c x).tickets = s.tickets := rfl
@[simp] theorem State.setQuad_wakes (s : State) (c : Nat) (x : Quad) : (s.setQuad c x).wakes = s.wakes := rfl
@[simp] theorem State.setQuad_helds (s : State) (c : Nat) (x : Quad) : (s.setQuad c x).helds = s.helds := rfl
@[simp] theorem State.setQuad_releases (s : State) (c : Nat) (x : Quad) : (s.setQuad c x).releases = s.releases := rfl
@[simp] theorem State.setQuad_locks (s : State) (c : Nat) (x : Quad) : (s.setQuad c x).locks = s.locks := rfl
@[simp] theorem State.setQuad_seals (s : State) (c : Nat) (x : Quad) : (s.setQuad c x).seals = s.seals := rfl
@[simp] theorem State.setQuad_tiles (s : State) (c : Nat) (x : Quad) : (s.setQuad c x).tiles = s.tiles := rfl
@[simp] theorem State.setQuad_engops (s : State) (c : Nat) (x : Quad) : (s.setQuad c x).engops = s.engops := rfl
@[simp] theorem State.setQuad_patches (s : State) (c : Nat) (x : Quad) : (s.setQuad c x).patches = s.patches := rfl
@[simp] theorem State.setQuad_qtBase (s : State) (c : Nat) (x : Quad) : (s.setQuad c x).qtBase = s.qtBase := rfl
@[simp] theorem State.setQuad_hubUs (s : State) (c : Nat) (x : Quad) : (s.setQuad c x).hubUs = s.hubUs := rfl
@[simp] theorem State.setQuad_started (s : State) (c : Nat) (x : Quad) : (s.setQuad c x).started = s.started := rfl
@[simp] theorem State.setQuad_minimal (s : State) (c : Nat) (x : Quad) : (s.setQuad c x).minimal = s.minimal := rfl
@[simp] theorem State.setQuad_reason (s : State) (c : Nat) (x : Quad) : (s.setQuad c x).reason = s.reason := rfl
@[simp] theorem State.setQuad_fails (s : State) (c : Nat) (x : Quad) : (s.setQuad c x).fails = s.fails := rfl
@[simp] theorem State.setQuad_nodeId (s : State) (c : Nat) (x : Quad) : (s.setQuad c x).nodeId = s.nodeId := rfl
@[simp] theorem State.setQuad_mgmtNode (s : State) (c : Nat) (x : Quad) : (s.setQuad c x).mgmtNode = s.mgmtNode := rfl
@[simp] theorem State.setQuad_serial (s : State) (c : Nat) (x : Quad) : (s.setQuad c x).serial = s.serial := rfl
@[simp] theorem State.setQuad_minVersion (s : State) (c : Nat) (x : Quad) : (s.setQuad c x).minVersion = s.minVersion := rfl
@[simp] theorem State.setQuad_romDigest (s : State) (c : Nat) (x : Quad) : (s.setQuad c x).romDigest = s.romDigest := rfl
@[simp] theorem State.setQuad_fwDigest (s : State) (c : Nat) (x : Quad) : (s.setQuad c x).fwDigest = s.fwDigest := rfl
@[simp] theorem State.setQuad_fuseDigest (s : State) (c : Nat) (x : Quad) : (s.setQuad c x).fuseDigest = s.fuseDigest := rfl
@[simp] theorem State.setQuad_rootKey (s : State) (c : Nat) (x : Quad) : (s.setQuad c x).rootKey = s.rootKey := rfl
@[simp] theorem State.setQuad_nextFw (s : State) (c : Nat) (x : Quad) : (s.setQuad c x).nextFw = s.nextFw := rfl
@[simp] theorem State.setQuad_sigIndex (s : State) (c : Nat) (x : Quad) : (s.setQuad c x).sigIndex = s.sigIndex := rfl
@[simp] theorem State.setQuad_outbox (s : State) (c : Nat) (x : Quad) : (s.setQuad c x).outbox = s.outbox := rfl
@[simp] theorem State.setQuad_selfRefresh (s : State) (c : Nat) (x : Quad) : (s.setQuad c x).selfRefresh = s.selfRefresh := rfl
@[simp] theorem State.setQuad_refreshing (s : State) (c : Nat) (x : Quad) : (s.setQuad c x).refreshing = s.refreshing := rfl
@[simp] theorem State.setQuad_admissions (s : State) (c : Nat) (x : Quad) : (s.setQuad c x).admissions = s.admissions := rfl
@[simp] theorem State.setQuad_stepIds (s : State) (c : Nat) (x : Quad) : (s.setQuad c x).stepIds = s.stepIds := rfl

@[simp] theorem State.setDie_free (s : State) (c : Nat) (x : Die) : (s.setDie c x).free = s.free := rfl
@[simp] theorem State.setDie_turn (s : State) (c : Nat) (x : Die) : (s.setDie c x).turn = s.turn := rfl
@[simp] theorem State.setDie_cur (s : State) (c : Nat) (x : Die) : (s.setDie c x).cur = s.cur := rfl
@[simp] theorem State.setDie_mem (s : State) (c : Nat) (x : Die) : (s.setDie c x).mem = s.mem := rfl
@[simp] theorem State.setDie_sent (s : State) (c : Nat) (x : Die) : (s.setDie c x).sent = s.sent := rfl
@[simp] theorem State.setDie_early (s : State) (c : Nat) (x : Die) : (s.setDie c x).early = s.early := rfl
@[simp] theorem State.setDie_l2 (s : State) (c : Nat) (x : Die) : (s.setDie c x).l2 = s.l2 := rfl
@[simp] theorem State.setDie_errs (s : State) (c : Nat) (x : Die) : (s.setDie c x).errs = s.errs := rfl
@[simp] theorem State.setDie_tlb (s : State) (c : Nat) (x : Die) : (s.setDie c x).tlb = s.tlb := rfl
@[simp] theorem State.setDie_xlinvs (s : State) (c : Nat) (x : Die) : (s.setDie c x).xlinvs = s.xlinvs := rfl
@[simp] theorem State.setDie_ctxs (s : State) (c : Nat) (x : Die) : (s.setDie c x).ctxs = s.ctxs := rfl
@[simp] theorem State.setDie_queues (s : State) (c : Nat) (x : Die) : (s.setDie c x).queues = s.queues := rfl
@[simp] theorem State.setDie_launches (s : State) (c : Nat) (x : Die) : (s.setDie c x).launches = s.launches := rfl
@[simp] theorem State.setDie_blocks (s : State) (c : Nat) (x : Die) : (s.setDie c x).blocks = s.blocks := rfl
@[simp] theorem State.setDie_waves (s : State) (c : Nat) (x : Die) : (s.setDie c x).waves = s.waves := rfl
@[simp] theorem State.setDie_cores (s : State) (c : Nat) (x : Die) : (s.setDie c x).cores = s.cores := rfl
@[simp] theorem State.setDie_sides (s : State) (c : Nat) (x : Die) : (s.setDie c x).sides = s.sides := rfl
@[simp] theorem State.setDie_quads (s : State) (c : Nat) (x : Die) : (s.setDie c x).quads = s.quads := rfl
@[simp] theorem State.setDie_dies (s : State) (c : Nat) (x : Die) : (s.setDie c x).dies = tset s.dies c x := rfl
@[simp] theorem State.setDie_vigils (s : State) (c : Nat) (x : Die) : (s.setDie c x).vigils = s.vigils := rfl
@[simp] theorem State.setDie_tickets (s : State) (c : Nat) (x : Die) : (s.setDie c x).tickets = s.tickets := rfl
@[simp] theorem State.setDie_wakes (s : State) (c : Nat) (x : Die) : (s.setDie c x).wakes = s.wakes := rfl
@[simp] theorem State.setDie_helds (s : State) (c : Nat) (x : Die) : (s.setDie c x).helds = s.helds := rfl
@[simp] theorem State.setDie_releases (s : State) (c : Nat) (x : Die) : (s.setDie c x).releases = s.releases := rfl
@[simp] theorem State.setDie_locks (s : State) (c : Nat) (x : Die) : (s.setDie c x).locks = s.locks := rfl
@[simp] theorem State.setDie_seals (s : State) (c : Nat) (x : Die) : (s.setDie c x).seals = s.seals := rfl
@[simp] theorem State.setDie_tiles (s : State) (c : Nat) (x : Die) : (s.setDie c x).tiles = s.tiles := rfl
@[simp] theorem State.setDie_engops (s : State) (c : Nat) (x : Die) : (s.setDie c x).engops = s.engops := rfl
@[simp] theorem State.setDie_patches (s : State) (c : Nat) (x : Die) : (s.setDie c x).patches = s.patches := rfl
@[simp] theorem State.setDie_qtBase (s : State) (c : Nat) (x : Die) : (s.setDie c x).qtBase = s.qtBase := rfl
@[simp] theorem State.setDie_hubUs (s : State) (c : Nat) (x : Die) : (s.setDie c x).hubUs = s.hubUs := rfl
@[simp] theorem State.setDie_started (s : State) (c : Nat) (x : Die) : (s.setDie c x).started = s.started := rfl
@[simp] theorem State.setDie_minimal (s : State) (c : Nat) (x : Die) : (s.setDie c x).minimal = s.minimal := rfl
@[simp] theorem State.setDie_reason (s : State) (c : Nat) (x : Die) : (s.setDie c x).reason = s.reason := rfl
@[simp] theorem State.setDie_fails (s : State) (c : Nat) (x : Die) : (s.setDie c x).fails = s.fails := rfl
@[simp] theorem State.setDie_nodeId (s : State) (c : Nat) (x : Die) : (s.setDie c x).nodeId = s.nodeId := rfl
@[simp] theorem State.setDie_mgmtNode (s : State) (c : Nat) (x : Die) : (s.setDie c x).mgmtNode = s.mgmtNode := rfl
@[simp] theorem State.setDie_serial (s : State) (c : Nat) (x : Die) : (s.setDie c x).serial = s.serial := rfl
@[simp] theorem State.setDie_minVersion (s : State) (c : Nat) (x : Die) : (s.setDie c x).minVersion = s.minVersion := rfl
@[simp] theorem State.setDie_romDigest (s : State) (c : Nat) (x : Die) : (s.setDie c x).romDigest = s.romDigest := rfl
@[simp] theorem State.setDie_fwDigest (s : State) (c : Nat) (x : Die) : (s.setDie c x).fwDigest = s.fwDigest := rfl
@[simp] theorem State.setDie_fuseDigest (s : State) (c : Nat) (x : Die) : (s.setDie c x).fuseDigest = s.fuseDigest := rfl
@[simp] theorem State.setDie_rootKey (s : State) (c : Nat) (x : Die) : (s.setDie c x).rootKey = s.rootKey := rfl
@[simp] theorem State.setDie_nextFw (s : State) (c : Nat) (x : Die) : (s.setDie c x).nextFw = s.nextFw := rfl
@[simp] theorem State.setDie_sigIndex (s : State) (c : Nat) (x : Die) : (s.setDie c x).sigIndex = s.sigIndex := rfl
@[simp] theorem State.setDie_outbox (s : State) (c : Nat) (x : Die) : (s.setDie c x).outbox = s.outbox := rfl
@[simp] theorem State.setDie_selfRefresh (s : State) (c : Nat) (x : Die) : (s.setDie c x).selfRefresh = s.selfRefresh := rfl
@[simp] theorem State.setDie_refreshing (s : State) (c : Nat) (x : Die) : (s.setDie c x).refreshing = s.refreshing := rfl
@[simp] theorem State.setDie_admissions (s : State) (c : Nat) (x : Die) : (s.setDie c x).admissions = s.admissions := rfl
@[simp] theorem State.setDie_stepIds (s : State) (c : Nat) (x : Die) : (s.setDie c x).stepIds = s.stepIds := rfl

@[simp] theorem State.setWave_free (s : State) (k : Nat) (w : Wave) : (s.setWave k w).free = s.free := rfl
@[simp] theorem State.setWave_turn (s : State) (k : Nat) (w : Wave) : (s.setWave k w).turn = s.turn := rfl
@[simp] theorem State.setWave_cur (s : State) (k : Nat) (w : Wave) : (s.setWave k w).cur = s.cur := rfl
@[simp] theorem State.setWave_mem (s : State) (k : Nat) (w : Wave) : (s.setWave k w).mem = s.mem := rfl
@[simp] theorem State.setWave_sent (s : State) (k : Nat) (w : Wave) : (s.setWave k w).sent = s.sent := rfl
@[simp] theorem State.setWave_early (s : State) (k : Nat) (w : Wave) : (s.setWave k w).early = s.early := rfl
@[simp] theorem State.setWave_l2 (s : State) (k : Nat) (w : Wave) : (s.setWave k w).l2 = s.l2 := rfl
@[simp] theorem State.setWave_errs (s : State) (k : Nat) (w : Wave) : (s.setWave k w).errs = s.errs := rfl
@[simp] theorem State.setWave_tlb (s : State) (k : Nat) (w : Wave) : (s.setWave k w).tlb = s.tlb := rfl
@[simp] theorem State.setWave_xlinvs (s : State) (k : Nat) (w : Wave) : (s.setWave k w).xlinvs = s.xlinvs := rfl
@[simp] theorem State.setWave_ctxs (s : State) (k : Nat) (w : Wave) : (s.setWave k w).ctxs = s.ctxs := rfl
@[simp] theorem State.setWave_queues (s : State) (k : Nat) (w : Wave) : (s.setWave k w).queues = s.queues := rfl
@[simp] theorem State.setWave_launches (s : State) (k : Nat) (w : Wave) : (s.setWave k w).launches = s.launches := rfl
@[simp] theorem State.setWave_blocks (s : State) (k : Nat) (w : Wave) : (s.setWave k w).blocks = s.blocks := rfl
@[simp] theorem State.setWave_waves (s : State) (k : Nat) (w : Wave) : (s.setWave k w).waves = tset s.waves k w := rfl
@[simp] theorem State.setWave_cores (s : State) (k : Nat) (w : Wave) : (s.setWave k w).cores = s.cores := rfl
@[simp] theorem State.setWave_sides (s : State) (k : Nat) (w : Wave) : (s.setWave k w).sides = s.sides := rfl
@[simp] theorem State.setWave_quads (s : State) (k : Nat) (w : Wave) : (s.setWave k w).quads = s.quads := rfl
@[simp] theorem State.setWave_dies (s : State) (k : Nat) (w : Wave) : (s.setWave k w).dies = s.dies := rfl
@[simp] theorem State.setWave_vigils (s : State) (k : Nat) (w : Wave) : (s.setWave k w).vigils = s.vigils := rfl
@[simp] theorem State.setWave_tickets (s : State) (k : Nat) (w : Wave) : (s.setWave k w).tickets = s.tickets := rfl
@[simp] theorem State.setWave_wakes (s : State) (k : Nat) (w : Wave) : (s.setWave k w).wakes = s.wakes := rfl
@[simp] theorem State.setWave_helds (s : State) (k : Nat) (w : Wave) : (s.setWave k w).helds = s.helds := rfl
@[simp] theorem State.setWave_releases (s : State) (k : Nat) (w : Wave) : (s.setWave k w).releases = s.releases := rfl
@[simp] theorem State.setWave_locks (s : State) (k : Nat) (w : Wave) : (s.setWave k w).locks = s.locks := rfl
@[simp] theorem State.setWave_seals (s : State) (k : Nat) (w : Wave) : (s.setWave k w).seals = s.seals := rfl
@[simp] theorem State.setWave_tiles (s : State) (k : Nat) (w : Wave) : (s.setWave k w).tiles = s.tiles := rfl
@[simp] theorem State.setWave_engops (s : State) (k : Nat) (w : Wave) : (s.setWave k w).engops = s.engops := rfl
@[simp] theorem State.setWave_patches (s : State) (k : Nat) (w : Wave) : (s.setWave k w).patches = s.patches := rfl
@[simp] theorem State.setWave_qtBase (s : State) (k : Nat) (w : Wave) : (s.setWave k w).qtBase = s.qtBase := rfl
@[simp] theorem State.setWave_hubUs (s : State) (k : Nat) (w : Wave) : (s.setWave k w).hubUs = s.hubUs := rfl
@[simp] theorem State.setWave_started (s : State) (k : Nat) (w : Wave) : (s.setWave k w).started = s.started := rfl
@[simp] theorem State.setWave_minimal (s : State) (k : Nat) (w : Wave) : (s.setWave k w).minimal = s.minimal := rfl
@[simp] theorem State.setWave_reason (s : State) (k : Nat) (w : Wave) : (s.setWave k w).reason = s.reason := rfl
@[simp] theorem State.setWave_fails (s : State) (k : Nat) (w : Wave) : (s.setWave k w).fails = s.fails := rfl
@[simp] theorem State.setWave_nodeId (s : State) (k : Nat) (w : Wave) : (s.setWave k w).nodeId = s.nodeId := rfl
@[simp] theorem State.setWave_mgmtNode (s : State) (k : Nat) (w : Wave) : (s.setWave k w).mgmtNode = s.mgmtNode := rfl
@[simp] theorem State.setWave_serial (s : State) (k : Nat) (w : Wave) : (s.setWave k w).serial = s.serial := rfl
@[simp] theorem State.setWave_minVersion (s : State) (k : Nat) (w : Wave) : (s.setWave k w).minVersion = s.minVersion := rfl
@[simp] theorem State.setWave_romDigest (s : State) (k : Nat) (w : Wave) : (s.setWave k w).romDigest = s.romDigest := rfl
@[simp] theorem State.setWave_fwDigest (s : State) (k : Nat) (w : Wave) : (s.setWave k w).fwDigest = s.fwDigest := rfl
@[simp] theorem State.setWave_fuseDigest (s : State) (k : Nat) (w : Wave) : (s.setWave k w).fuseDigest = s.fuseDigest := rfl
@[simp] theorem State.setWave_rootKey (s : State) (k : Nat) (w : Wave) : (s.setWave k w).rootKey = s.rootKey := rfl
@[simp] theorem State.setWave_nextFw (s : State) (k : Nat) (w : Wave) : (s.setWave k w).nextFw = s.nextFw := rfl
@[simp] theorem State.setWave_sigIndex (s : State) (k : Nat) (w : Wave) : (s.setWave k w).sigIndex = s.sigIndex := rfl
@[simp] theorem State.setWave_outbox (s : State) (k : Nat) (w : Wave) : (s.setWave k w).outbox = s.outbox := rfl
@[simp] theorem State.setWave_selfRefresh (s : State) (k : Nat) (w : Wave) : (s.setWave k w).selfRefresh = s.selfRefresh := rfl
@[simp] theorem State.setWave_refreshing (s : State) (k : Nat) (w : Wave) : (s.setWave k w).refreshing = s.refreshing := rfl
@[simp] theorem State.setWave_admissions (s : State) (k : Nat) (w : Wave) : (s.setWave k w).admissions = s.admissions := rfl
@[simp] theorem State.setWave_stepIds (s : State) (k : Nat) (w : Wave) : (s.setWave k w).stepIds = s.stepIds := rfl

@[simp] theorem State.modWave_free (s : State) (k : Nat) (f : Wave → Wave) : (s.modWave k f).free = s.free := rfl
@[simp] theorem State.modWave_turn (s : State) (k : Nat) (f : Wave → Wave) : (s.modWave k f).turn = s.turn := rfl
@[simp] theorem State.modWave_cur (s : State) (k : Nat) (f : Wave → Wave) : (s.modWave k f).cur = s.cur := rfl
@[simp] theorem State.modWave_mem (s : State) (k : Nat) (f : Wave → Wave) : (s.modWave k f).mem = s.mem := rfl
@[simp] theorem State.modWave_sent (s : State) (k : Nat) (f : Wave → Wave) : (s.modWave k f).sent = s.sent := rfl
@[simp] theorem State.modWave_early (s : State) (k : Nat) (f : Wave → Wave) : (s.modWave k f).early = s.early := rfl
@[simp] theorem State.modWave_l2 (s : State) (k : Nat) (f : Wave → Wave) : (s.modWave k f).l2 = s.l2 := rfl
@[simp] theorem State.modWave_errs (s : State) (k : Nat) (f : Wave → Wave) : (s.modWave k f).errs = s.errs := rfl
@[simp] theorem State.modWave_tlb (s : State) (k : Nat) (f : Wave → Wave) : (s.modWave k f).tlb = s.tlb := rfl
@[simp] theorem State.modWave_xlinvs (s : State) (k : Nat) (f : Wave → Wave) : (s.modWave k f).xlinvs = s.xlinvs := rfl
@[simp] theorem State.modWave_ctxs (s : State) (k : Nat) (f : Wave → Wave) : (s.modWave k f).ctxs = s.ctxs := rfl
@[simp] theorem State.modWave_queues (s : State) (k : Nat) (f : Wave → Wave) : (s.modWave k f).queues = s.queues := rfl
@[simp] theorem State.modWave_launches (s : State) (k : Nat) (f : Wave → Wave) : (s.modWave k f).launches = s.launches := rfl
@[simp] theorem State.modWave_blocks (s : State) (k : Nat) (f : Wave → Wave) : (s.modWave k f).blocks = s.blocks := rfl
@[simp] theorem State.modWave_waves (s : State) (k : Nat) (f : Wave → Wave) : (s.modWave k f).waves = tmod s.waves k f := rfl
@[simp] theorem State.modWave_cores (s : State) (k : Nat) (f : Wave → Wave) : (s.modWave k f).cores = s.cores := rfl
@[simp] theorem State.modWave_sides (s : State) (k : Nat) (f : Wave → Wave) : (s.modWave k f).sides = s.sides := rfl
@[simp] theorem State.modWave_quads (s : State) (k : Nat) (f : Wave → Wave) : (s.modWave k f).quads = s.quads := rfl
@[simp] theorem State.modWave_dies (s : State) (k : Nat) (f : Wave → Wave) : (s.modWave k f).dies = s.dies := rfl
@[simp] theorem State.modWave_vigils (s : State) (k : Nat) (f : Wave → Wave) : (s.modWave k f).vigils = s.vigils := rfl
@[simp] theorem State.modWave_tickets (s : State) (k : Nat) (f : Wave → Wave) : (s.modWave k f).tickets = s.tickets := rfl
@[simp] theorem State.modWave_wakes (s : State) (k : Nat) (f : Wave → Wave) : (s.modWave k f).wakes = s.wakes := rfl
@[simp] theorem State.modWave_helds (s : State) (k : Nat) (f : Wave → Wave) : (s.modWave k f).helds = s.helds := rfl
@[simp] theorem State.modWave_releases (s : State) (k : Nat) (f : Wave → Wave) : (s.modWave k f).releases = s.releases := rfl
@[simp] theorem State.modWave_locks (s : State) (k : Nat) (f : Wave → Wave) : (s.modWave k f).locks = s.locks := rfl
@[simp] theorem State.modWave_seals (s : State) (k : Nat) (f : Wave → Wave) : (s.modWave k f).seals = s.seals := rfl
@[simp] theorem State.modWave_tiles (s : State) (k : Nat) (f : Wave → Wave) : (s.modWave k f).tiles = s.tiles := rfl
@[simp] theorem State.modWave_engops (s : State) (k : Nat) (f : Wave → Wave) : (s.modWave k f).engops = s.engops := rfl
@[simp] theorem State.modWave_patches (s : State) (k : Nat) (f : Wave → Wave) : (s.modWave k f).patches = s.patches := rfl
@[simp] theorem State.modWave_qtBase (s : State) (k : Nat) (f : Wave → Wave) : (s.modWave k f).qtBase = s.qtBase := rfl
@[simp] theorem State.modWave_hubUs (s : State) (k : Nat) (f : Wave → Wave) : (s.modWave k f).hubUs = s.hubUs := rfl
@[simp] theorem State.modWave_started (s : State) (k : Nat) (f : Wave → Wave) : (s.modWave k f).started = s.started := rfl
@[simp] theorem State.modWave_minimal (s : State) (k : Nat) (f : Wave → Wave) : (s.modWave k f).minimal = s.minimal := rfl
@[simp] theorem State.modWave_reason (s : State) (k : Nat) (f : Wave → Wave) : (s.modWave k f).reason = s.reason := rfl
@[simp] theorem State.modWave_fails (s : State) (k : Nat) (f : Wave → Wave) : (s.modWave k f).fails = s.fails := rfl
@[simp] theorem State.modWave_nodeId (s : State) (k : Nat) (f : Wave → Wave) : (s.modWave k f).nodeId = s.nodeId := rfl
@[simp] theorem State.modWave_mgmtNode (s : State) (k : Nat) (f : Wave → Wave) : (s.modWave k f).mgmtNode = s.mgmtNode := rfl
@[simp] theorem State.modWave_serial (s : State) (k : Nat) (f : Wave → Wave) : (s.modWave k f).serial = s.serial := rfl
@[simp] theorem State.modWave_minVersion (s : State) (k : Nat) (f : Wave → Wave) : (s.modWave k f).minVersion = s.minVersion := rfl
@[simp] theorem State.modWave_romDigest (s : State) (k : Nat) (f : Wave → Wave) : (s.modWave k f).romDigest = s.romDigest := rfl
@[simp] theorem State.modWave_fwDigest (s : State) (k : Nat) (f : Wave → Wave) : (s.modWave k f).fwDigest = s.fwDigest := rfl
@[simp] theorem State.modWave_fuseDigest (s : State) (k : Nat) (f : Wave → Wave) : (s.modWave k f).fuseDigest = s.fuseDigest := rfl
@[simp] theorem State.modWave_rootKey (s : State) (k : Nat) (f : Wave → Wave) : (s.modWave k f).rootKey = s.rootKey := rfl
@[simp] theorem State.modWave_nextFw (s : State) (k : Nat) (f : Wave → Wave) : (s.modWave k f).nextFw = s.nextFw := rfl
@[simp] theorem State.modWave_sigIndex (s : State) (k : Nat) (f : Wave → Wave) : (s.modWave k f).sigIndex = s.sigIndex := rfl
@[simp] theorem State.modWave_outbox (s : State) (k : Nat) (f : Wave → Wave) : (s.modWave k f).outbox = s.outbox := rfl
@[simp] theorem State.modWave_selfRefresh (s : State) (k : Nat) (f : Wave → Wave) : (s.modWave k f).selfRefresh = s.selfRefresh := rfl
@[simp] theorem State.modWave_refreshing (s : State) (k : Nat) (f : Wave → Wave) : (s.modWave k f).refreshing = s.refreshing := rfl
@[simp] theorem State.modWave_admissions (s : State) (k : Nat) (f : Wave → Wave) : (s.modWave k f).admissions = s.admissions := rfl
@[simp] theorem State.modWave_stepIds (s : State) (k : Nat) (f : Wave → Wave) : (s.modWave k f).stepIds = s.stepIds := rfl

@[simp] theorem State.setBlock_free (s : State) (b : Nat) (x : Block) : (s.setBlock b x).free = s.free := rfl
@[simp] theorem State.setBlock_turn (s : State) (b : Nat) (x : Block) : (s.setBlock b x).turn = s.turn := rfl
@[simp] theorem State.setBlock_cur (s : State) (b : Nat) (x : Block) : (s.setBlock b x).cur = s.cur := rfl
@[simp] theorem State.setBlock_mem (s : State) (b : Nat) (x : Block) : (s.setBlock b x).mem = s.mem := rfl
@[simp] theorem State.setBlock_sent (s : State) (b : Nat) (x : Block) : (s.setBlock b x).sent = s.sent := rfl
@[simp] theorem State.setBlock_early (s : State) (b : Nat) (x : Block) : (s.setBlock b x).early = s.early := rfl
@[simp] theorem State.setBlock_l2 (s : State) (b : Nat) (x : Block) : (s.setBlock b x).l2 = s.l2 := rfl
@[simp] theorem State.setBlock_errs (s : State) (b : Nat) (x : Block) : (s.setBlock b x).errs = s.errs := rfl
@[simp] theorem State.setBlock_tlb (s : State) (b : Nat) (x : Block) : (s.setBlock b x).tlb = s.tlb := rfl
@[simp] theorem State.setBlock_xlinvs (s : State) (b : Nat) (x : Block) : (s.setBlock b x).xlinvs = s.xlinvs := rfl
@[simp] theorem State.setBlock_ctxs (s : State) (b : Nat) (x : Block) : (s.setBlock b x).ctxs = s.ctxs := rfl
@[simp] theorem State.setBlock_queues (s : State) (b : Nat) (x : Block) : (s.setBlock b x).queues = s.queues := rfl
@[simp] theorem State.setBlock_launches (s : State) (b : Nat) (x : Block) : (s.setBlock b x).launches = s.launches := rfl
@[simp] theorem State.setBlock_blocks (s : State) (b : Nat) (x : Block) : (s.setBlock b x).blocks = tset s.blocks b x := rfl
@[simp] theorem State.setBlock_waves (s : State) (b : Nat) (x : Block) : (s.setBlock b x).waves = s.waves := rfl
@[simp] theorem State.setBlock_cores (s : State) (b : Nat) (x : Block) : (s.setBlock b x).cores = s.cores := rfl
@[simp] theorem State.setBlock_sides (s : State) (b : Nat) (x : Block) : (s.setBlock b x).sides = s.sides := rfl
@[simp] theorem State.setBlock_quads (s : State) (b : Nat) (x : Block) : (s.setBlock b x).quads = s.quads := rfl
@[simp] theorem State.setBlock_dies (s : State) (b : Nat) (x : Block) : (s.setBlock b x).dies = s.dies := rfl
@[simp] theorem State.setBlock_vigils (s : State) (b : Nat) (x : Block) : (s.setBlock b x).vigils = s.vigils := rfl
@[simp] theorem State.setBlock_tickets (s : State) (b : Nat) (x : Block) : (s.setBlock b x).tickets = s.tickets := rfl
@[simp] theorem State.setBlock_wakes (s : State) (b : Nat) (x : Block) : (s.setBlock b x).wakes = s.wakes := rfl
@[simp] theorem State.setBlock_helds (s : State) (b : Nat) (x : Block) : (s.setBlock b x).helds = s.helds := rfl
@[simp] theorem State.setBlock_releases (s : State) (b : Nat) (x : Block) : (s.setBlock b x).releases = s.releases := rfl
@[simp] theorem State.setBlock_locks (s : State) (b : Nat) (x : Block) : (s.setBlock b x).locks = s.locks := rfl
@[simp] theorem State.setBlock_seals (s : State) (b : Nat) (x : Block) : (s.setBlock b x).seals = s.seals := rfl
@[simp] theorem State.setBlock_tiles (s : State) (b : Nat) (x : Block) : (s.setBlock b x).tiles = s.tiles := rfl
@[simp] theorem State.setBlock_engops (s : State) (b : Nat) (x : Block) : (s.setBlock b x).engops = s.engops := rfl
@[simp] theorem State.setBlock_patches (s : State) (b : Nat) (x : Block) : (s.setBlock b x).patches = s.patches := rfl
@[simp] theorem State.setBlock_qtBase (s : State) (b : Nat) (x : Block) : (s.setBlock b x).qtBase = s.qtBase := rfl
@[simp] theorem State.setBlock_hubUs (s : State) (b : Nat) (x : Block) : (s.setBlock b x).hubUs = s.hubUs := rfl
@[simp] theorem State.setBlock_started (s : State) (b : Nat) (x : Block) : (s.setBlock b x).started = s.started := rfl
@[simp] theorem State.setBlock_minimal (s : State) (b : Nat) (x : Block) : (s.setBlock b x).minimal = s.minimal := rfl
@[simp] theorem State.setBlock_reason (s : State) (b : Nat) (x : Block) : (s.setBlock b x).reason = s.reason := rfl
@[simp] theorem State.setBlock_fails (s : State) (b : Nat) (x : Block) : (s.setBlock b x).fails = s.fails := rfl
@[simp] theorem State.setBlock_nodeId (s : State) (b : Nat) (x : Block) : (s.setBlock b x).nodeId = s.nodeId := rfl
@[simp] theorem State.setBlock_mgmtNode (s : State) (b : Nat) (x : Block) : (s.setBlock b x).mgmtNode = s.mgmtNode := rfl
@[simp] theorem State.setBlock_serial (s : State) (b : Nat) (x : Block) : (s.setBlock b x).serial = s.serial := rfl
@[simp] theorem State.setBlock_minVersion (s : State) (b : Nat) (x : Block) : (s.setBlock b x).minVersion = s.minVersion := rfl
@[simp] theorem State.setBlock_romDigest (s : State) (b : Nat) (x : Block) : (s.setBlock b x).romDigest = s.romDigest := rfl
@[simp] theorem State.setBlock_fwDigest (s : State) (b : Nat) (x : Block) : (s.setBlock b x).fwDigest = s.fwDigest := rfl
@[simp] theorem State.setBlock_fuseDigest (s : State) (b : Nat) (x : Block) : (s.setBlock b x).fuseDigest = s.fuseDigest := rfl
@[simp] theorem State.setBlock_rootKey (s : State) (b : Nat) (x : Block) : (s.setBlock b x).rootKey = s.rootKey := rfl
@[simp] theorem State.setBlock_nextFw (s : State) (b : Nat) (x : Block) : (s.setBlock b x).nextFw = s.nextFw := rfl
@[simp] theorem State.setBlock_sigIndex (s : State) (b : Nat) (x : Block) : (s.setBlock b x).sigIndex = s.sigIndex := rfl
@[simp] theorem State.setBlock_outbox (s : State) (b : Nat) (x : Block) : (s.setBlock b x).outbox = s.outbox := rfl
@[simp] theorem State.setBlock_selfRefresh (s : State) (b : Nat) (x : Block) : (s.setBlock b x).selfRefresh = s.selfRefresh := rfl
@[simp] theorem State.setBlock_refreshing (s : State) (b : Nat) (x : Block) : (s.setBlock b x).refreshing = s.refreshing := rfl
@[simp] theorem State.setBlock_admissions (s : State) (b : Nat) (x : Block) : (s.setBlock b x).admissions = s.admissions := rfl
@[simp] theorem State.setBlock_stepIds (s : State) (b : Nat) (x : Block) : (s.setBlock b x).stepIds = s.stepIds := rfl

@[simp] theorem State.modBlock_free (s : State) (b : Nat) (f : Block → Block) : (s.modBlock b f).free = s.free := rfl
@[simp] theorem State.modBlock_turn (s : State) (b : Nat) (f : Block → Block) : (s.modBlock b f).turn = s.turn := rfl
@[simp] theorem State.modBlock_cur (s : State) (b : Nat) (f : Block → Block) : (s.modBlock b f).cur = s.cur := rfl
@[simp] theorem State.modBlock_mem (s : State) (b : Nat) (f : Block → Block) : (s.modBlock b f).mem = s.mem := rfl
@[simp] theorem State.modBlock_sent (s : State) (b : Nat) (f : Block → Block) : (s.modBlock b f).sent = s.sent := rfl
@[simp] theorem State.modBlock_early (s : State) (b : Nat) (f : Block → Block) : (s.modBlock b f).early = s.early := rfl
@[simp] theorem State.modBlock_l2 (s : State) (b : Nat) (f : Block → Block) : (s.modBlock b f).l2 = s.l2 := rfl
@[simp] theorem State.modBlock_errs (s : State) (b : Nat) (f : Block → Block) : (s.modBlock b f).errs = s.errs := rfl
@[simp] theorem State.modBlock_tlb (s : State) (b : Nat) (f : Block → Block) : (s.modBlock b f).tlb = s.tlb := rfl
@[simp] theorem State.modBlock_xlinvs (s : State) (b : Nat) (f : Block → Block) : (s.modBlock b f).xlinvs = s.xlinvs := rfl
@[simp] theorem State.modBlock_ctxs (s : State) (b : Nat) (f : Block → Block) : (s.modBlock b f).ctxs = s.ctxs := rfl
@[simp] theorem State.modBlock_queues (s : State) (b : Nat) (f : Block → Block) : (s.modBlock b f).queues = s.queues := rfl
@[simp] theorem State.modBlock_launches (s : State) (b : Nat) (f : Block → Block) : (s.modBlock b f).launches = s.launches := rfl
@[simp] theorem State.modBlock_blocks (s : State) (b : Nat) (f : Block → Block) : (s.modBlock b f).blocks = tmod s.blocks b f := rfl
@[simp] theorem State.modBlock_waves (s : State) (b : Nat) (f : Block → Block) : (s.modBlock b f).waves = s.waves := rfl
@[simp] theorem State.modBlock_cores (s : State) (b : Nat) (f : Block → Block) : (s.modBlock b f).cores = s.cores := rfl
@[simp] theorem State.modBlock_sides (s : State) (b : Nat) (f : Block → Block) : (s.modBlock b f).sides = s.sides := rfl
@[simp] theorem State.modBlock_quads (s : State) (b : Nat) (f : Block → Block) : (s.modBlock b f).quads = s.quads := rfl
@[simp] theorem State.modBlock_dies (s : State) (b : Nat) (f : Block → Block) : (s.modBlock b f).dies = s.dies := rfl
@[simp] theorem State.modBlock_vigils (s : State) (b : Nat) (f : Block → Block) : (s.modBlock b f).vigils = s.vigils := rfl
@[simp] theorem State.modBlock_tickets (s : State) (b : Nat) (f : Block → Block) : (s.modBlock b f).tickets = s.tickets := rfl
@[simp] theorem State.modBlock_wakes (s : State) (b : Nat) (f : Block → Block) : (s.modBlock b f).wakes = s.wakes := rfl
@[simp] theorem State.modBlock_helds (s : State) (b : Nat) (f : Block → Block) : (s.modBlock b f).helds = s.helds := rfl
@[simp] theorem State.modBlock_releases (s : State) (b : Nat) (f : Block → Block) : (s.modBlock b f).releases = s.releases := rfl
@[simp] theorem State.modBlock_locks (s : State) (b : Nat) (f : Block → Block) : (s.modBlock b f).locks = s.locks := rfl
@[simp] theorem State.modBlock_seals (s : State) (b : Nat) (f : Block → Block) : (s.modBlock b f).seals = s.seals := rfl
@[simp] theorem State.modBlock_tiles (s : State) (b : Nat) (f : Block → Block) : (s.modBlock b f).tiles = s.tiles := rfl
@[simp] theorem State.modBlock_engops (s : State) (b : Nat) (f : Block → Block) : (s.modBlock b f).engops = s.engops := rfl
@[simp] theorem State.modBlock_patches (s : State) (b : Nat) (f : Block → Block) : (s.modBlock b f).patches = s.patches := rfl
@[simp] theorem State.modBlock_qtBase (s : State) (b : Nat) (f : Block → Block) : (s.modBlock b f).qtBase = s.qtBase := rfl
@[simp] theorem State.modBlock_hubUs (s : State) (b : Nat) (f : Block → Block) : (s.modBlock b f).hubUs = s.hubUs := rfl
@[simp] theorem State.modBlock_started (s : State) (b : Nat) (f : Block → Block) : (s.modBlock b f).started = s.started := rfl
@[simp] theorem State.modBlock_minimal (s : State) (b : Nat) (f : Block → Block) : (s.modBlock b f).minimal = s.minimal := rfl
@[simp] theorem State.modBlock_reason (s : State) (b : Nat) (f : Block → Block) : (s.modBlock b f).reason = s.reason := rfl
@[simp] theorem State.modBlock_fails (s : State) (b : Nat) (f : Block → Block) : (s.modBlock b f).fails = s.fails := rfl
@[simp] theorem State.modBlock_nodeId (s : State) (b : Nat) (f : Block → Block) : (s.modBlock b f).nodeId = s.nodeId := rfl
@[simp] theorem State.modBlock_mgmtNode (s : State) (b : Nat) (f : Block → Block) : (s.modBlock b f).mgmtNode = s.mgmtNode := rfl
@[simp] theorem State.modBlock_serial (s : State) (b : Nat) (f : Block → Block) : (s.modBlock b f).serial = s.serial := rfl
@[simp] theorem State.modBlock_minVersion (s : State) (b : Nat) (f : Block → Block) : (s.modBlock b f).minVersion = s.minVersion := rfl
@[simp] theorem State.modBlock_romDigest (s : State) (b : Nat) (f : Block → Block) : (s.modBlock b f).romDigest = s.romDigest := rfl
@[simp] theorem State.modBlock_fwDigest (s : State) (b : Nat) (f : Block → Block) : (s.modBlock b f).fwDigest = s.fwDigest := rfl
@[simp] theorem State.modBlock_fuseDigest (s : State) (b : Nat) (f : Block → Block) : (s.modBlock b f).fuseDigest = s.fuseDigest := rfl
@[simp] theorem State.modBlock_rootKey (s : State) (b : Nat) (f : Block → Block) : (s.modBlock b f).rootKey = s.rootKey := rfl
@[simp] theorem State.modBlock_nextFw (s : State) (b : Nat) (f : Block → Block) : (s.modBlock b f).nextFw = s.nextFw := rfl
@[simp] theorem State.modBlock_sigIndex (s : State) (b : Nat) (f : Block → Block) : (s.modBlock b f).sigIndex = s.sigIndex := rfl
@[simp] theorem State.modBlock_outbox (s : State) (b : Nat) (f : Block → Block) : (s.modBlock b f).outbox = s.outbox := rfl
@[simp] theorem State.modBlock_selfRefresh (s : State) (b : Nat) (f : Block → Block) : (s.modBlock b f).selfRefresh = s.selfRefresh := rfl
@[simp] theorem State.modBlock_refreshing (s : State) (b : Nat) (f : Block → Block) : (s.modBlock b f).refreshing = s.refreshing := rfl
@[simp] theorem State.modBlock_admissions (s : State) (b : Nat) (f : Block → Block) : (s.modBlock b f).admissions = s.admissions := rfl
@[simp] theorem State.modBlock_stepIds (s : State) (b : Nat) (f : Block → Block) : (s.modBlock b f).stepIds = s.stepIds := rfl

@[simp] theorem State.modCtx_free (s : State) (c : Nat) (f : Ctx → Ctx) : (s.modCtx c f).free = s.free := rfl
@[simp] theorem State.modCtx_turn (s : State) (c : Nat) (f : Ctx → Ctx) : (s.modCtx c f).turn = s.turn := rfl
@[simp] theorem State.modCtx_cur (s : State) (c : Nat) (f : Ctx → Ctx) : (s.modCtx c f).cur = s.cur := rfl
@[simp] theorem State.modCtx_mem (s : State) (c : Nat) (f : Ctx → Ctx) : (s.modCtx c f).mem = s.mem := rfl
@[simp] theorem State.modCtx_sent (s : State) (c : Nat) (f : Ctx → Ctx) : (s.modCtx c f).sent = s.sent := rfl
@[simp] theorem State.modCtx_early (s : State) (c : Nat) (f : Ctx → Ctx) : (s.modCtx c f).early = s.early := rfl
@[simp] theorem State.modCtx_l2 (s : State) (c : Nat) (f : Ctx → Ctx) : (s.modCtx c f).l2 = s.l2 := rfl
@[simp] theorem State.modCtx_errs (s : State) (c : Nat) (f : Ctx → Ctx) : (s.modCtx c f).errs = s.errs := rfl
@[simp] theorem State.modCtx_tlb (s : State) (c : Nat) (f : Ctx → Ctx) : (s.modCtx c f).tlb = s.tlb := rfl
@[simp] theorem State.modCtx_xlinvs (s : State) (c : Nat) (f : Ctx → Ctx) : (s.modCtx c f).xlinvs = s.xlinvs := rfl
@[simp] theorem State.modCtx_ctxs (s : State) (c : Nat) (f : Ctx → Ctx) : (s.modCtx c f).ctxs = tmod s.ctxs c f := rfl
@[simp] theorem State.modCtx_queues (s : State) (c : Nat) (f : Ctx → Ctx) : (s.modCtx c f).queues = s.queues := rfl
@[simp] theorem State.modCtx_launches (s : State) (c : Nat) (f : Ctx → Ctx) : (s.modCtx c f).launches = s.launches := rfl
@[simp] theorem State.modCtx_blocks (s : State) (c : Nat) (f : Ctx → Ctx) : (s.modCtx c f).blocks = s.blocks := rfl
@[simp] theorem State.modCtx_waves (s : State) (c : Nat) (f : Ctx → Ctx) : (s.modCtx c f).waves = s.waves := rfl
@[simp] theorem State.modCtx_cores (s : State) (c : Nat) (f : Ctx → Ctx) : (s.modCtx c f).cores = s.cores := rfl
@[simp] theorem State.modCtx_sides (s : State) (c : Nat) (f : Ctx → Ctx) : (s.modCtx c f).sides = s.sides := rfl
@[simp] theorem State.modCtx_quads (s : State) (c : Nat) (f : Ctx → Ctx) : (s.modCtx c f).quads = s.quads := rfl
@[simp] theorem State.modCtx_dies (s : State) (c : Nat) (f : Ctx → Ctx) : (s.modCtx c f).dies = s.dies := rfl
@[simp] theorem State.modCtx_vigils (s : State) (c : Nat) (f : Ctx → Ctx) : (s.modCtx c f).vigils = s.vigils := rfl
@[simp] theorem State.modCtx_tickets (s : State) (c : Nat) (f : Ctx → Ctx) : (s.modCtx c f).tickets = s.tickets := rfl
@[simp] theorem State.modCtx_wakes (s : State) (c : Nat) (f : Ctx → Ctx) : (s.modCtx c f).wakes = s.wakes := rfl
@[simp] theorem State.modCtx_helds (s : State) (c : Nat) (f : Ctx → Ctx) : (s.modCtx c f).helds = s.helds := rfl
@[simp] theorem State.modCtx_releases (s : State) (c : Nat) (f : Ctx → Ctx) : (s.modCtx c f).releases = s.releases := rfl
@[simp] theorem State.modCtx_locks (s : State) (c : Nat) (f : Ctx → Ctx) : (s.modCtx c f).locks = s.locks := rfl
@[simp] theorem State.modCtx_seals (s : State) (c : Nat) (f : Ctx → Ctx) : (s.modCtx c f).seals = s.seals := rfl
@[simp] theorem State.modCtx_tiles (s : State) (c : Nat) (f : Ctx → Ctx) : (s.modCtx c f).tiles = s.tiles := rfl
@[simp] theorem State.modCtx_engops (s : State) (c : Nat) (f : Ctx → Ctx) : (s.modCtx c f).engops = s.engops := rfl
@[simp] theorem State.modCtx_patches (s : State) (c : Nat) (f : Ctx → Ctx) : (s.modCtx c f).patches = s.patches := rfl
@[simp] theorem State.modCtx_qtBase (s : State) (c : Nat) (f : Ctx → Ctx) : (s.modCtx c f).qtBase = s.qtBase := rfl
@[simp] theorem State.modCtx_hubUs (s : State) (c : Nat) (f : Ctx → Ctx) : (s.modCtx c f).hubUs = s.hubUs := rfl
@[simp] theorem State.modCtx_started (s : State) (c : Nat) (f : Ctx → Ctx) : (s.modCtx c f).started = s.started := rfl
@[simp] theorem State.modCtx_minimal (s : State) (c : Nat) (f : Ctx → Ctx) : (s.modCtx c f).minimal = s.minimal := rfl
@[simp] theorem State.modCtx_reason (s : State) (c : Nat) (f : Ctx → Ctx) : (s.modCtx c f).reason = s.reason := rfl
@[simp] theorem State.modCtx_fails (s : State) (c : Nat) (f : Ctx → Ctx) : (s.modCtx c f).fails = s.fails := rfl
@[simp] theorem State.modCtx_nodeId (s : State) (c : Nat) (f : Ctx → Ctx) : (s.modCtx c f).nodeId = s.nodeId := rfl
@[simp] theorem State.modCtx_mgmtNode (s : State) (c : Nat) (f : Ctx → Ctx) : (s.modCtx c f).mgmtNode = s.mgmtNode := rfl
@[simp] theorem State.modCtx_serial (s : State) (c : Nat) (f : Ctx → Ctx) : (s.modCtx c f).serial = s.serial := rfl
@[simp] theorem State.modCtx_minVersion (s : State) (c : Nat) (f : Ctx → Ctx) : (s.modCtx c f).minVersion = s.minVersion := rfl
@[simp] theorem State.modCtx_romDigest (s : State) (c : Nat) (f : Ctx → Ctx) : (s.modCtx c f).romDigest = s.romDigest := rfl
@[simp] theorem State.modCtx_fwDigest (s : State) (c : Nat) (f : Ctx → Ctx) : (s.modCtx c f).fwDigest = s.fwDigest := rfl
@[simp] theorem State.modCtx_fuseDigest (s : State) (c : Nat) (f : Ctx → Ctx) : (s.modCtx c f).fuseDigest = s.fuseDigest := rfl
@[simp] theorem State.modCtx_rootKey (s : State) (c : Nat) (f : Ctx → Ctx) : (s.modCtx c f).rootKey = s.rootKey := rfl
@[simp] theorem State.modCtx_nextFw (s : State) (c : Nat) (f : Ctx → Ctx) : (s.modCtx c f).nextFw = s.nextFw := rfl
@[simp] theorem State.modCtx_sigIndex (s : State) (c : Nat) (f : Ctx → Ctx) : (s.modCtx c f).sigIndex = s.sigIndex := rfl
@[simp] theorem State.modCtx_outbox (s : State) (c : Nat) (f : Ctx → Ctx) : (s.modCtx c f).outbox = s.outbox := rfl
@[simp] theorem State.modCtx_selfRefresh (s : State) (c : Nat) (f : Ctx → Ctx) : (s.modCtx c f).selfRefresh = s.selfRefresh := rfl
@[simp] theorem State.modCtx_refreshing (s : State) (c : Nat) (f : Ctx → Ctx) : (s.modCtx c f).refreshing = s.refreshing := rfl
@[simp] theorem State.modCtx_admissions (s : State) (c : Nat) (f : Ctx → Ctx) : (s.modCtx c f).admissions = s.admissions := rfl
@[simp] theorem State.modCtx_stepIds (s : State) (c : Nat) (f : Ctx → Ctx) : (s.modCtx c f).stepIds = s.stepIds := rfl

@[simp] theorem State.modLaunch_free (s : State) (l : Nat) (f : Launch → Launch) : (s.modLaunch l f).free = s.free := rfl
@[simp] theorem State.modLaunch_turn (s : State) (l : Nat) (f : Launch → Launch) : (s.modLaunch l f).turn = s.turn := rfl
@[simp] theorem State.modLaunch_cur (s : State) (l : Nat) (f : Launch → Launch) : (s.modLaunch l f).cur = s.cur := rfl
@[simp] theorem State.modLaunch_mem (s : State) (l : Nat) (f : Launch → Launch) : (s.modLaunch l f).mem = s.mem := rfl
@[simp] theorem State.modLaunch_sent (s : State) (l : Nat) (f : Launch → Launch) : (s.modLaunch l f).sent = s.sent := rfl
@[simp] theorem State.modLaunch_early (s : State) (l : Nat) (f : Launch → Launch) : (s.modLaunch l f).early = s.early := rfl
@[simp] theorem State.modLaunch_l2 (s : State) (l : Nat) (f : Launch → Launch) : (s.modLaunch l f).l2 = s.l2 := rfl
@[simp] theorem State.modLaunch_errs (s : State) (l : Nat) (f : Launch → Launch) : (s.modLaunch l f).errs = s.errs := rfl
@[simp] theorem State.modLaunch_tlb (s : State) (l : Nat) (f : Launch → Launch) : (s.modLaunch l f).tlb = s.tlb := rfl
@[simp] theorem State.modLaunch_xlinvs (s : State) (l : Nat) (f : Launch → Launch) : (s.modLaunch l f).xlinvs = s.xlinvs := rfl
@[simp] theorem State.modLaunch_ctxs (s : State) (l : Nat) (f : Launch → Launch) : (s.modLaunch l f).ctxs = s.ctxs := rfl
@[simp] theorem State.modLaunch_queues (s : State) (l : Nat) (f : Launch → Launch) : (s.modLaunch l f).queues = s.queues := rfl
@[simp] theorem State.modLaunch_launches (s : State) (l : Nat) (f : Launch → Launch) : (s.modLaunch l f).launches = tmod s.launches l f := rfl
@[simp] theorem State.modLaunch_blocks (s : State) (l : Nat) (f : Launch → Launch) : (s.modLaunch l f).blocks = s.blocks := rfl
@[simp] theorem State.modLaunch_waves (s : State) (l : Nat) (f : Launch → Launch) : (s.modLaunch l f).waves = s.waves := rfl
@[simp] theorem State.modLaunch_cores (s : State) (l : Nat) (f : Launch → Launch) : (s.modLaunch l f).cores = s.cores := rfl
@[simp] theorem State.modLaunch_sides (s : State) (l : Nat) (f : Launch → Launch) : (s.modLaunch l f).sides = s.sides := rfl
@[simp] theorem State.modLaunch_quads (s : State) (l : Nat) (f : Launch → Launch) : (s.modLaunch l f).quads = s.quads := rfl
@[simp] theorem State.modLaunch_dies (s : State) (l : Nat) (f : Launch → Launch) : (s.modLaunch l f).dies = s.dies := rfl
@[simp] theorem State.modLaunch_vigils (s : State) (l : Nat) (f : Launch → Launch) : (s.modLaunch l f).vigils = s.vigils := rfl
@[simp] theorem State.modLaunch_tickets (s : State) (l : Nat) (f : Launch → Launch) : (s.modLaunch l f).tickets = s.tickets := rfl
@[simp] theorem State.modLaunch_wakes (s : State) (l : Nat) (f : Launch → Launch) : (s.modLaunch l f).wakes = s.wakes := rfl
@[simp] theorem State.modLaunch_helds (s : State) (l : Nat) (f : Launch → Launch) : (s.modLaunch l f).helds = s.helds := rfl
@[simp] theorem State.modLaunch_releases (s : State) (l : Nat) (f : Launch → Launch) : (s.modLaunch l f).releases = s.releases := rfl
@[simp] theorem State.modLaunch_locks (s : State) (l : Nat) (f : Launch → Launch) : (s.modLaunch l f).locks = s.locks := rfl
@[simp] theorem State.modLaunch_seals (s : State) (l : Nat) (f : Launch → Launch) : (s.modLaunch l f).seals = s.seals := rfl
@[simp] theorem State.modLaunch_tiles (s : State) (l : Nat) (f : Launch → Launch) : (s.modLaunch l f).tiles = s.tiles := rfl
@[simp] theorem State.modLaunch_engops (s : State) (l : Nat) (f : Launch → Launch) : (s.modLaunch l f).engops = s.engops := rfl
@[simp] theorem State.modLaunch_patches (s : State) (l : Nat) (f : Launch → Launch) : (s.modLaunch l f).patches = s.patches := rfl
@[simp] theorem State.modLaunch_qtBase (s : State) (l : Nat) (f : Launch → Launch) : (s.modLaunch l f).qtBase = s.qtBase := rfl
@[simp] theorem State.modLaunch_hubUs (s : State) (l : Nat) (f : Launch → Launch) : (s.modLaunch l f).hubUs = s.hubUs := rfl
@[simp] theorem State.modLaunch_started (s : State) (l : Nat) (f : Launch → Launch) : (s.modLaunch l f).started = s.started := rfl
@[simp] theorem State.modLaunch_minimal (s : State) (l : Nat) (f : Launch → Launch) : (s.modLaunch l f).minimal = s.minimal := rfl
@[simp] theorem State.modLaunch_reason (s : State) (l : Nat) (f : Launch → Launch) : (s.modLaunch l f).reason = s.reason := rfl
@[simp] theorem State.modLaunch_fails (s : State) (l : Nat) (f : Launch → Launch) : (s.modLaunch l f).fails = s.fails := rfl
@[simp] theorem State.modLaunch_nodeId (s : State) (l : Nat) (f : Launch → Launch) : (s.modLaunch l f).nodeId = s.nodeId := rfl
@[simp] theorem State.modLaunch_mgmtNode (s : State) (l : Nat) (f : Launch → Launch) : (s.modLaunch l f).mgmtNode = s.mgmtNode := rfl
@[simp] theorem State.modLaunch_serial (s : State) (l : Nat) (f : Launch → Launch) : (s.modLaunch l f).serial = s.serial := rfl
@[simp] theorem State.modLaunch_minVersion (s : State) (l : Nat) (f : Launch → Launch) : (s.modLaunch l f).minVersion = s.minVersion := rfl
@[simp] theorem State.modLaunch_romDigest (s : State) (l : Nat) (f : Launch → Launch) : (s.modLaunch l f).romDigest = s.romDigest := rfl
@[simp] theorem State.modLaunch_fwDigest (s : State) (l : Nat) (f : Launch → Launch) : (s.modLaunch l f).fwDigest = s.fwDigest := rfl
@[simp] theorem State.modLaunch_fuseDigest (s : State) (l : Nat) (f : Launch → Launch) : (s.modLaunch l f).fuseDigest = s.fuseDigest := rfl
@[simp] theorem State.modLaunch_rootKey (s : State) (l : Nat) (f : Launch → Launch) : (s.modLaunch l f).rootKey = s.rootKey := rfl
@[simp] theorem State.modLaunch_nextFw (s : State) (l : Nat) (f : Launch → Launch) : (s.modLaunch l f).nextFw = s.nextFw := rfl
@[simp] theorem State.modLaunch_sigIndex (s : State) (l : Nat) (f : Launch → Launch) : (s.modLaunch l f).sigIndex = s.sigIndex := rfl
@[simp] theorem State.modLaunch_outbox (s : State) (l : Nat) (f : Launch → Launch) : (s.modLaunch l f).outbox = s.outbox := rfl
@[simp] theorem State.modLaunch_selfRefresh (s : State) (l : Nat) (f : Launch → Launch) : (s.modLaunch l f).selfRefresh = s.selfRefresh := rfl
@[simp] theorem State.modLaunch_refreshing (s : State) (l : Nat) (f : Launch → Launch) : (s.modLaunch l f).refreshing = s.refreshing := rfl
@[simp] theorem State.modLaunch_admissions (s : State) (l : Nat) (f : Launch → Launch) : (s.modLaunch l f).admissions = s.admissions := rfl
@[simp] theorem State.modLaunch_stepIds (s : State) (l : Nat) (f : Launch → Launch) : (s.modLaunch l f).stepIds = s.stepIds := rfl

@[simp] theorem State.modTile_free (s : State) (t : Nat) (f : Tile → Tile) : (s.modTile t f).free = s.free := rfl
@[simp] theorem State.modTile_turn (s : State) (t : Nat) (f : Tile → Tile) : (s.modTile t f).turn = s.turn := rfl
@[simp] theorem State.modTile_cur (s : State) (t : Nat) (f : Tile → Tile) : (s.modTile t f).cur = s.cur := rfl
@[simp] theorem State.modTile_mem (s : State) (t : Nat) (f : Tile → Tile) : (s.modTile t f).mem = s.mem := rfl
@[simp] theorem State.modTile_sent (s : State) (t : Nat) (f : Tile → Tile) : (s.modTile t f).sent = s.sent := rfl
@[simp] theorem State.modTile_early (s : State) (t : Nat) (f : Tile → Tile) : (s.modTile t f).early = s.early := rfl
@[simp] theorem State.modTile_l2 (s : State) (t : Nat) (f : Tile → Tile) : (s.modTile t f).l2 = s.l2 := rfl
@[simp] theorem State.modTile_errs (s : State) (t : Nat) (f : Tile → Tile) : (s.modTile t f).errs = s.errs := rfl
@[simp] theorem State.modTile_tlb (s : State) (t : Nat) (f : Tile → Tile) : (s.modTile t f).tlb = s.tlb := rfl
@[simp] theorem State.modTile_xlinvs (s : State) (t : Nat) (f : Tile → Tile) : (s.modTile t f).xlinvs = s.xlinvs := rfl
@[simp] theorem State.modTile_ctxs (s : State) (t : Nat) (f : Tile → Tile) : (s.modTile t f).ctxs = s.ctxs := rfl
@[simp] theorem State.modTile_queues (s : State) (t : Nat) (f : Tile → Tile) : (s.modTile t f).queues = s.queues := rfl
@[simp] theorem State.modTile_launches (s : State) (t : Nat) (f : Tile → Tile) : (s.modTile t f).launches = s.launches := rfl
@[simp] theorem State.modTile_blocks (s : State) (t : Nat) (f : Tile → Tile) : (s.modTile t f).blocks = s.blocks := rfl
@[simp] theorem State.modTile_waves (s : State) (t : Nat) (f : Tile → Tile) : (s.modTile t f).waves = s.waves := rfl
@[simp] theorem State.modTile_cores (s : State) (t : Nat) (f : Tile → Tile) : (s.modTile t f).cores = s.cores := rfl
@[simp] theorem State.modTile_sides (s : State) (t : Nat) (f : Tile → Tile) : (s.modTile t f).sides = s.sides := rfl
@[simp] theorem State.modTile_quads (s : State) (t : Nat) (f : Tile → Tile) : (s.modTile t f).quads = s.quads := rfl
@[simp] theorem State.modTile_dies (s : State) (t : Nat) (f : Tile → Tile) : (s.modTile t f).dies = s.dies := rfl
@[simp] theorem State.modTile_vigils (s : State) (t : Nat) (f : Tile → Tile) : (s.modTile t f).vigils = s.vigils := rfl
@[simp] theorem State.modTile_tickets (s : State) (t : Nat) (f : Tile → Tile) : (s.modTile t f).tickets = s.tickets := rfl
@[simp] theorem State.modTile_wakes (s : State) (t : Nat) (f : Tile → Tile) : (s.modTile t f).wakes = s.wakes := rfl
@[simp] theorem State.modTile_helds (s : State) (t : Nat) (f : Tile → Tile) : (s.modTile t f).helds = s.helds := rfl
@[simp] theorem State.modTile_releases (s : State) (t : Nat) (f : Tile → Tile) : (s.modTile t f).releases = s.releases := rfl
@[simp] theorem State.modTile_locks (s : State) (t : Nat) (f : Tile → Tile) : (s.modTile t f).locks = s.locks := rfl
@[simp] theorem State.modTile_seals (s : State) (t : Nat) (f : Tile → Tile) : (s.modTile t f).seals = s.seals := rfl
@[simp] theorem State.modTile_tiles (s : State) (t : Nat) (f : Tile → Tile) : (s.modTile t f).tiles = tmod s.tiles t f := rfl
@[simp] theorem State.modTile_engops (s : State) (t : Nat) (f : Tile → Tile) : (s.modTile t f).engops = s.engops := rfl
@[simp] theorem State.modTile_patches (s : State) (t : Nat) (f : Tile → Tile) : (s.modTile t f).patches = s.patches := rfl
@[simp] theorem State.modTile_qtBase (s : State) (t : Nat) (f : Tile → Tile) : (s.modTile t f).qtBase = s.qtBase := rfl
@[simp] theorem State.modTile_hubUs (s : State) (t : Nat) (f : Tile → Tile) : (s.modTile t f).hubUs = s.hubUs := rfl
@[simp] theorem State.modTile_started (s : State) (t : Nat) (f : Tile → Tile) : (s.modTile t f).started = s.started := rfl
@[simp] theorem State.modTile_minimal (s : State) (t : Nat) (f : Tile → Tile) : (s.modTile t f).minimal = s.minimal := rfl
@[simp] theorem State.modTile_reason (s : State) (t : Nat) (f : Tile → Tile) : (s.modTile t f).reason = s.reason := rfl
@[simp] theorem State.modTile_fails (s : State) (t : Nat) (f : Tile → Tile) : (s.modTile t f).fails = s.fails := rfl
@[simp] theorem State.modTile_nodeId (s : State) (t : Nat) (f : Tile → Tile) : (s.modTile t f).nodeId = s.nodeId := rfl
@[simp] theorem State.modTile_mgmtNode (s : State) (t : Nat) (f : Tile → Tile) : (s.modTile t f).mgmtNode = s.mgmtNode := rfl
@[simp] theorem State.modTile_serial (s : State) (t : Nat) (f : Tile → Tile) : (s.modTile t f).serial = s.serial := rfl
@[simp] theorem State.modTile_minVersion (s : State) (t : Nat) (f : Tile → Tile) : (s.modTile t f).minVersion = s.minVersion := rfl
@[simp] theorem State.modTile_romDigest (s : State) (t : Nat) (f : Tile → Tile) : (s.modTile t f).romDigest = s.romDigest := rfl
@[simp] theorem State.modTile_fwDigest (s : State) (t : Nat) (f : Tile → Tile) : (s.modTile t f).fwDigest = s.fwDigest := rfl
@[simp] theorem State.modTile_fuseDigest (s : State) (t : Nat) (f : Tile → Tile) : (s.modTile t f).fuseDigest = s.fuseDigest := rfl
@[simp] theorem State.modTile_rootKey (s : State) (t : Nat) (f : Tile → Tile) : (s.modTile t f).rootKey = s.rootKey := rfl
@[simp] theorem State.modTile_nextFw (s : State) (t : Nat) (f : Tile → Tile) : (s.modTile t f).nextFw = s.nextFw := rfl
@[simp] theorem State.modTile_sigIndex (s : State) (t : Nat) (f : Tile → Tile) : (s.modTile t f).sigIndex = s.sigIndex := rfl
@[simp] theorem State.modTile_outbox (s : State) (t : Nat) (f : Tile → Tile) : (s.modTile t f).outbox = s.outbox := rfl
@[simp] theorem State.modTile_selfRefresh (s : State) (t : Nat) (f : Tile → Tile) : (s.modTile t f).selfRefresh = s.selfRefresh := rfl
@[simp] theorem State.modTile_refreshing (s : State) (t : Nat) (f : Tile → Tile) : (s.modTile t f).refreshing = s.refreshing := rfl
@[simp] theorem State.modTile_admissions (s : State) (t : Nat) (f : Tile → Tile) : (s.modTile t f).admissions = s.admissions := rfl
@[simp] theorem State.modTile_stepIds (s : State) (t : Nat) (f : Tile → Tile) : (s.modTile t f).stepIds = s.stepIds := rfl

@[simp] theorem State.modOp_free (s : State) (o : Nat) (f : EngOp → EngOp) : (s.modOp o f).free = s.free := rfl
@[simp] theorem State.modOp_turn (s : State) (o : Nat) (f : EngOp → EngOp) : (s.modOp o f).turn = s.turn := rfl
@[simp] theorem State.modOp_cur (s : State) (o : Nat) (f : EngOp → EngOp) : (s.modOp o f).cur = s.cur := rfl
@[simp] theorem State.modOp_mem (s : State) (o : Nat) (f : EngOp → EngOp) : (s.modOp o f).mem = s.mem := rfl
@[simp] theorem State.modOp_sent (s : State) (o : Nat) (f : EngOp → EngOp) : (s.modOp o f).sent = s.sent := rfl
@[simp] theorem State.modOp_early (s : State) (o : Nat) (f : EngOp → EngOp) : (s.modOp o f).early = s.early := rfl
@[simp] theorem State.modOp_l2 (s : State) (o : Nat) (f : EngOp → EngOp) : (s.modOp o f).l2 = s.l2 := rfl
@[simp] theorem State.modOp_errs (s : State) (o : Nat) (f : EngOp → EngOp) : (s.modOp o f).errs = s.errs := rfl
@[simp] theorem State.modOp_tlb (s : State) (o : Nat) (f : EngOp → EngOp) : (s.modOp o f).tlb = s.tlb := rfl
@[simp] theorem State.modOp_xlinvs (s : State) (o : Nat) (f : EngOp → EngOp) : (s.modOp o f).xlinvs = s.xlinvs := rfl
@[simp] theorem State.modOp_ctxs (s : State) (o : Nat) (f : EngOp → EngOp) : (s.modOp o f).ctxs = s.ctxs := rfl
@[simp] theorem State.modOp_queues (s : State) (o : Nat) (f : EngOp → EngOp) : (s.modOp o f).queues = s.queues := rfl
@[simp] theorem State.modOp_launches (s : State) (o : Nat) (f : EngOp → EngOp) : (s.modOp o f).launches = s.launches := rfl
@[simp] theorem State.modOp_blocks (s : State) (o : Nat) (f : EngOp → EngOp) : (s.modOp o f).blocks = s.blocks := rfl
@[simp] theorem State.modOp_waves (s : State) (o : Nat) (f : EngOp → EngOp) : (s.modOp o f).waves = s.waves := rfl
@[simp] theorem State.modOp_cores (s : State) (o : Nat) (f : EngOp → EngOp) : (s.modOp o f).cores = s.cores := rfl
@[simp] theorem State.modOp_sides (s : State) (o : Nat) (f : EngOp → EngOp) : (s.modOp o f).sides = s.sides := rfl
@[simp] theorem State.modOp_quads (s : State) (o : Nat) (f : EngOp → EngOp) : (s.modOp o f).quads = s.quads := rfl
@[simp] theorem State.modOp_dies (s : State) (o : Nat) (f : EngOp → EngOp) : (s.modOp o f).dies = s.dies := rfl
@[simp] theorem State.modOp_vigils (s : State) (o : Nat) (f : EngOp → EngOp) : (s.modOp o f).vigils = s.vigils := rfl
@[simp] theorem State.modOp_tickets (s : State) (o : Nat) (f : EngOp → EngOp) : (s.modOp o f).tickets = s.tickets := rfl
@[simp] theorem State.modOp_wakes (s : State) (o : Nat) (f : EngOp → EngOp) : (s.modOp o f).wakes = s.wakes := rfl
@[simp] theorem State.modOp_helds (s : State) (o : Nat) (f : EngOp → EngOp) : (s.modOp o f).helds = s.helds := rfl
@[simp] theorem State.modOp_releases (s : State) (o : Nat) (f : EngOp → EngOp) : (s.modOp o f).releases = s.releases := rfl
@[simp] theorem State.modOp_locks (s : State) (o : Nat) (f : EngOp → EngOp) : (s.modOp o f).locks = s.locks := rfl
@[simp] theorem State.modOp_seals (s : State) (o : Nat) (f : EngOp → EngOp) : (s.modOp o f).seals = s.seals := rfl
@[simp] theorem State.modOp_tiles (s : State) (o : Nat) (f : EngOp → EngOp) : (s.modOp o f).tiles = s.tiles := rfl
@[simp] theorem State.modOp_engops (s : State) (o : Nat) (f : EngOp → EngOp) : (s.modOp o f).engops = tmod s.engops o f := rfl
@[simp] theorem State.modOp_patches (s : State) (o : Nat) (f : EngOp → EngOp) : (s.modOp o f).patches = s.patches := rfl
@[simp] theorem State.modOp_qtBase (s : State) (o : Nat) (f : EngOp → EngOp) : (s.modOp o f).qtBase = s.qtBase := rfl
@[simp] theorem State.modOp_hubUs (s : State) (o : Nat) (f : EngOp → EngOp) : (s.modOp o f).hubUs = s.hubUs := rfl
@[simp] theorem State.modOp_started (s : State) (o : Nat) (f : EngOp → EngOp) : (s.modOp o f).started = s.started := rfl
@[simp] theorem State.modOp_minimal (s : State) (o : Nat) (f : EngOp → EngOp) : (s.modOp o f).minimal = s.minimal := rfl
@[simp] theorem State.modOp_reason (s : State) (o : Nat) (f : EngOp → EngOp) : (s.modOp o f).reason = s.reason := rfl
@[simp] theorem State.modOp_fails (s : State) (o : Nat) (f : EngOp → EngOp) : (s.modOp o f).fails = s.fails := rfl
@[simp] theorem State.modOp_nodeId (s : State) (o : Nat) (f : EngOp → EngOp) : (s.modOp o f).nodeId = s.nodeId := rfl
@[simp] theorem State.modOp_mgmtNode (s : State) (o : Nat) (f : EngOp → EngOp) : (s.modOp o f).mgmtNode = s.mgmtNode := rfl
@[simp] theorem State.modOp_serial (s : State) (o : Nat) (f : EngOp → EngOp) : (s.modOp o f).serial = s.serial := rfl
@[simp] theorem State.modOp_minVersion (s : State) (o : Nat) (f : EngOp → EngOp) : (s.modOp o f).minVersion = s.minVersion := rfl
@[simp] theorem State.modOp_romDigest (s : State) (o : Nat) (f : EngOp → EngOp) : (s.modOp o f).romDigest = s.romDigest := rfl
@[simp] theorem State.modOp_fwDigest (s : State) (o : Nat) (f : EngOp → EngOp) : (s.modOp o f).fwDigest = s.fwDigest := rfl
@[simp] theorem State.modOp_fuseDigest (s : State) (o : Nat) (f : EngOp → EngOp) : (s.modOp o f).fuseDigest = s.fuseDigest := rfl
@[simp] theorem State.modOp_rootKey (s : State) (o : Nat) (f : EngOp → EngOp) : (s.modOp o f).rootKey = s.rootKey := rfl
@[simp] theorem State.modOp_nextFw (s : State) (o : Nat) (f : EngOp → EngOp) : (s.modOp o f).nextFw = s.nextFw := rfl
@[simp] theorem State.modOp_sigIndex (s : State) (o : Nat) (f : EngOp → EngOp) : (s.modOp o f).sigIndex = s.sigIndex := rfl
@[simp] theorem State.modOp_outbox (s : State) (o : Nat) (f : EngOp → EngOp) : (s.modOp o f).outbox = s.outbox := rfl
@[simp] theorem State.modOp_selfRefresh (s : State) (o : Nat) (f : EngOp → EngOp) : (s.modOp o f).selfRefresh = s.selfRefresh := rfl
@[simp] theorem State.modOp_refreshing (s : State) (o : Nat) (f : EngOp → EngOp) : (s.modOp o f).refreshing = s.refreshing := rfl
@[simp] theorem State.modOp_admissions (s : State) (o : Nat) (f : EngOp → EngOp) : (s.modOp o f).admissions = s.admissions := rfl
@[simp] theorem State.modOp_stepIds (s : State) (o : Nat) (f : EngOp → EngOp) : (s.modOp o f).stepIds = s.stepIds := rfl

@[simp] theorem State.modQueue_free (s : State) (q : Nat) (f : Queue → Queue) : (s.modQueue q f).free = s.free := rfl
@[simp] theorem State.modQueue_turn (s : State) (q : Nat) (f : Queue → Queue) : (s.modQueue q f).turn = s.turn := rfl
@[simp] theorem State.modQueue_cur (s : State) (q : Nat) (f : Queue → Queue) : (s.modQueue q f).cur = s.cur := rfl
@[simp] theorem State.modQueue_mem (s : State) (q : Nat) (f : Queue → Queue) : (s.modQueue q f).mem = s.mem := rfl
@[simp] theorem State.modQueue_sent (s : State) (q : Nat) (f : Queue → Queue) : (s.modQueue q f).sent = s.sent := rfl
@[simp] theorem State.modQueue_early (s : State) (q : Nat) (f : Queue → Queue) : (s.modQueue q f).early = s.early := rfl
@[simp] theorem State.modQueue_l2 (s : State) (q : Nat) (f : Queue → Queue) : (s.modQueue q f).l2 = s.l2 := rfl
@[simp] theorem State.modQueue_errs (s : State) (q : Nat) (f : Queue → Queue) : (s.modQueue q f).errs = s.errs := rfl
@[simp] theorem State.modQueue_tlb (s : State) (q : Nat) (f : Queue → Queue) : (s.modQueue q f).tlb = s.tlb := rfl
@[simp] theorem State.modQueue_xlinvs (s : State) (q : Nat) (f : Queue → Queue) : (s.modQueue q f).xlinvs = s.xlinvs := rfl
@[simp] theorem State.modQueue_ctxs (s : State) (q : Nat) (f : Queue → Queue) : (s.modQueue q f).ctxs = s.ctxs := rfl
@[simp] theorem State.modQueue_queues (s : State) (q : Nat) (f : Queue → Queue) : (s.modQueue q f).queues = tmod s.queues q f := rfl
@[simp] theorem State.modQueue_launches (s : State) (q : Nat) (f : Queue → Queue) : (s.modQueue q f).launches = s.launches := rfl
@[simp] theorem State.modQueue_blocks (s : State) (q : Nat) (f : Queue → Queue) : (s.modQueue q f).blocks = s.blocks := rfl
@[simp] theorem State.modQueue_waves (s : State) (q : Nat) (f : Queue → Queue) : (s.modQueue q f).waves = s.waves := rfl
@[simp] theorem State.modQueue_cores (s : State) (q : Nat) (f : Queue → Queue) : (s.modQueue q f).cores = s.cores := rfl
@[simp] theorem State.modQueue_sides (s : State) (q : Nat) (f : Queue → Queue) : (s.modQueue q f).sides = s.sides := rfl
@[simp] theorem State.modQueue_quads (s : State) (q : Nat) (f : Queue → Queue) : (s.modQueue q f).quads = s.quads := rfl
@[simp] theorem State.modQueue_dies (s : State) (q : Nat) (f : Queue → Queue) : (s.modQueue q f).dies = s.dies := rfl
@[simp] theorem State.modQueue_vigils (s : State) (q : Nat) (f : Queue → Queue) : (s.modQueue q f).vigils = s.vigils := rfl
@[simp] theorem State.modQueue_tickets (s : State) (q : Nat) (f : Queue → Queue) : (s.modQueue q f).tickets = s.tickets := rfl
@[simp] theorem State.modQueue_wakes (s : State) (q : Nat) (f : Queue → Queue) : (s.modQueue q f).wakes = s.wakes := rfl
@[simp] theorem State.modQueue_helds (s : State) (q : Nat) (f : Queue → Queue) : (s.modQueue q f).helds = s.helds := rfl
@[simp] theorem State.modQueue_releases (s : State) (q : Nat) (f : Queue → Queue) : (s.modQueue q f).releases = s.releases := rfl
@[simp] theorem State.modQueue_locks (s : State) (q : Nat) (f : Queue → Queue) : (s.modQueue q f).locks = s.locks := rfl
@[simp] theorem State.modQueue_seals (s : State) (q : Nat) (f : Queue → Queue) : (s.modQueue q f).seals = s.seals := rfl
@[simp] theorem State.modQueue_tiles (s : State) (q : Nat) (f : Queue → Queue) : (s.modQueue q f).tiles = s.tiles := rfl
@[simp] theorem State.modQueue_engops (s : State) (q : Nat) (f : Queue → Queue) : (s.modQueue q f).engops = s.engops := rfl
@[simp] theorem State.modQueue_patches (s : State) (q : Nat) (f : Queue → Queue) : (s.modQueue q f).patches = s.patches := rfl
@[simp] theorem State.modQueue_qtBase (s : State) (q : Nat) (f : Queue → Queue) : (s.modQueue q f).qtBase = s.qtBase := rfl
@[simp] theorem State.modQueue_hubUs (s : State) (q : Nat) (f : Queue → Queue) : (s.modQueue q f).hubUs = s.hubUs := rfl
@[simp] theorem State.modQueue_started (s : State) (q : Nat) (f : Queue → Queue) : (s.modQueue q f).started = s.started := rfl
@[simp] theorem State.modQueue_minimal (s : State) (q : Nat) (f : Queue → Queue) : (s.modQueue q f).minimal = s.minimal := rfl
@[simp] theorem State.modQueue_reason (s : State) (q : Nat) (f : Queue → Queue) : (s.modQueue q f).reason = s.reason := rfl
@[simp] theorem State.modQueue_fails (s : State) (q : Nat) (f : Queue → Queue) : (s.modQueue q f).fails = s.fails := rfl
@[simp] theorem State.modQueue_nodeId (s : State) (q : Nat) (f : Queue → Queue) : (s.modQueue q f).nodeId = s.nodeId := rfl
@[simp] theorem State.modQueue_mgmtNode (s : State) (q : Nat) (f : Queue → Queue) : (s.modQueue q f).mgmtNode = s.mgmtNode := rfl
@[simp] theorem State.modQueue_serial (s : State) (q : Nat) (f : Queue → Queue) : (s.modQueue q f).serial = s.serial := rfl
@[simp] theorem State.modQueue_minVersion (s : State) (q : Nat) (f : Queue → Queue) : (s.modQueue q f).minVersion = s.minVersion := rfl
@[simp] theorem State.modQueue_romDigest (s : State) (q : Nat) (f : Queue → Queue) : (s.modQueue q f).romDigest = s.romDigest := rfl
@[simp] theorem State.modQueue_fwDigest (s : State) (q : Nat) (f : Queue → Queue) : (s.modQueue q f).fwDigest = s.fwDigest := rfl
@[simp] theorem State.modQueue_fuseDigest (s : State) (q : Nat) (f : Queue → Queue) : (s.modQueue q f).fuseDigest = s.fuseDigest := rfl
@[simp] theorem State.modQueue_rootKey (s : State) (q : Nat) (f : Queue → Queue) : (s.modQueue q f).rootKey = s.rootKey := rfl
@[simp] theorem State.modQueue_nextFw (s : State) (q : Nat) (f : Queue → Queue) : (s.modQueue q f).nextFw = s.nextFw := rfl
@[simp] theorem State.modQueue_sigIndex (s : State) (q : Nat) (f : Queue → Queue) : (s.modQueue q f).sigIndex = s.sigIndex := rfl
@[simp] theorem State.modQueue_outbox (s : State) (q : Nat) (f : Queue → Queue) : (s.modQueue q f).outbox = s.outbox := rfl
@[simp] theorem State.modQueue_selfRefresh (s : State) (q : Nat) (f : Queue → Queue) : (s.modQueue q f).selfRefresh = s.selfRefresh := rfl
@[simp] theorem State.modQueue_refreshing (s : State) (q : Nat) (f : Queue → Queue) : (s.modQueue q f).refreshing = s.refreshing := rfl
@[simp] theorem State.modQueue_admissions (s : State) (q : Nat) (f : Queue → Queue) : (s.modQueue q f).admissions = s.admissions := rfl
@[simp] theorem State.modQueue_stepIds (s : State) (q : Nat) (f : Queue → Queue) : (s.modQueue q f).stepIds = s.stepIds := rfl

@[simp] theorem State.setCtxReg_free (s : State) (c n : Nat) (v : DWord) : (s.setCtxReg c n v).free = s.free := rfl
@[simp] theorem State.setCtxReg_turn (s : State) (c n : Nat) (v : DWord) : (s.setCtxReg c n v).turn = s.turn := rfl
@[simp] theorem State.setCtxReg_cur (s : State) (c n : Nat) (v : DWord) : (s.setCtxReg c n v).cur = s.cur := rfl
@[simp] theorem State.setCtxReg_mem (s : State) (c n : Nat) (v : DWord) : (s.setCtxReg c n v).mem = s.mem := rfl
@[simp] theorem State.setCtxReg_sent (s : State) (c n : Nat) (v : DWord) : (s.setCtxReg c n v).sent = s.sent := rfl
@[simp] theorem State.setCtxReg_early (s : State) (c n : Nat) (v : DWord) : (s.setCtxReg c n v).early = s.early := rfl
@[simp] theorem State.setCtxReg_l2 (s : State) (c n : Nat) (v : DWord) : (s.setCtxReg c n v).l2 = s.l2 := rfl
@[simp] theorem State.setCtxReg_errs (s : State) (c n : Nat) (v : DWord) : (s.setCtxReg c n v).errs = s.errs := rfl
@[simp] theorem State.setCtxReg_tlb (s : State) (c n : Nat) (v : DWord) : (s.setCtxReg c n v).tlb = s.tlb := rfl
@[simp] theorem State.setCtxReg_xlinvs (s : State) (c n : Nat) (v : DWord) : (s.setCtxReg c n v).xlinvs = s.xlinvs := rfl
@[simp] theorem State.setCtxReg_ctxs (s : State) (c n : Nat) (v : DWord) : (s.setCtxReg c n v).ctxs = tmod s.ctxs c fun x => { x with regs := tset x.regs n v } := rfl
@[simp] theorem State.setCtxReg_queues (s : State) (c n : Nat) (v : DWord) : (s.setCtxReg c n v).queues = s.queues := rfl
@[simp] theorem State.setCtxReg_launches (s : State) (c n : Nat) (v : DWord) : (s.setCtxReg c n v).launches = s.launches := rfl
@[simp] theorem State.setCtxReg_blocks (s : State) (c n : Nat) (v : DWord) : (s.setCtxReg c n v).blocks = s.blocks := rfl
@[simp] theorem State.setCtxReg_waves (s : State) (c n : Nat) (v : DWord) : (s.setCtxReg c n v).waves = s.waves := rfl
@[simp] theorem State.setCtxReg_cores (s : State) (c n : Nat) (v : DWord) : (s.setCtxReg c n v).cores = s.cores := rfl
@[simp] theorem State.setCtxReg_sides (s : State) (c n : Nat) (v : DWord) : (s.setCtxReg c n v).sides = s.sides := rfl
@[simp] theorem State.setCtxReg_quads (s : State) (c n : Nat) (v : DWord) : (s.setCtxReg c n v).quads = s.quads := rfl
@[simp] theorem State.setCtxReg_dies (s : State) (c n : Nat) (v : DWord) : (s.setCtxReg c n v).dies = s.dies := rfl
@[simp] theorem State.setCtxReg_vigils (s : State) (c n : Nat) (v : DWord) : (s.setCtxReg c n v).vigils = s.vigils := rfl
@[simp] theorem State.setCtxReg_tickets (s : State) (c n : Nat) (v : DWord) : (s.setCtxReg c n v).tickets = s.tickets := rfl
@[simp] theorem State.setCtxReg_wakes (s : State) (c n : Nat) (v : DWord) : (s.setCtxReg c n v).wakes = s.wakes := rfl
@[simp] theorem State.setCtxReg_helds (s : State) (c n : Nat) (v : DWord) : (s.setCtxReg c n v).helds = s.helds := rfl
@[simp] theorem State.setCtxReg_releases (s : State) (c n : Nat) (v : DWord) : (s.setCtxReg c n v).releases = s.releases := rfl
@[simp] theorem State.setCtxReg_locks (s : State) (c n : Nat) (v : DWord) : (s.setCtxReg c n v).locks = s.locks := rfl
@[simp] theorem State.setCtxReg_seals (s : State) (c n : Nat) (v : DWord) : (s.setCtxReg c n v).seals = s.seals := rfl
@[simp] theorem State.setCtxReg_tiles (s : State) (c n : Nat) (v : DWord) : (s.setCtxReg c n v).tiles = s.tiles := rfl
@[simp] theorem State.setCtxReg_engops (s : State) (c n : Nat) (v : DWord) : (s.setCtxReg c n v).engops = s.engops := rfl
@[simp] theorem State.setCtxReg_patches (s : State) (c n : Nat) (v : DWord) : (s.setCtxReg c n v).patches = s.patches := rfl
@[simp] theorem State.setCtxReg_qtBase (s : State) (c n : Nat) (v : DWord) : (s.setCtxReg c n v).qtBase = s.qtBase := rfl
@[simp] theorem State.setCtxReg_hubUs (s : State) (c n : Nat) (v : DWord) : (s.setCtxReg c n v).hubUs = s.hubUs := rfl
@[simp] theorem State.setCtxReg_started (s : State) (c n : Nat) (v : DWord) : (s.setCtxReg c n v).started = s.started := rfl
@[simp] theorem State.setCtxReg_minimal (s : State) (c n : Nat) (v : DWord) : (s.setCtxReg c n v).minimal = s.minimal := rfl
@[simp] theorem State.setCtxReg_reason (s : State) (c n : Nat) (v : DWord) : (s.setCtxReg c n v).reason = s.reason := rfl
@[simp] theorem State.setCtxReg_fails (s : State) (c n : Nat) (v : DWord) : (s.setCtxReg c n v).fails = s.fails := rfl
@[simp] theorem State.setCtxReg_nodeId (s : State) (c n : Nat) (v : DWord) : (s.setCtxReg c n v).nodeId = s.nodeId := rfl
@[simp] theorem State.setCtxReg_mgmtNode (s : State) (c n : Nat) (v : DWord) : (s.setCtxReg c n v).mgmtNode = s.mgmtNode := rfl
@[simp] theorem State.setCtxReg_serial (s : State) (c n : Nat) (v : DWord) : (s.setCtxReg c n v).serial = s.serial := rfl
@[simp] theorem State.setCtxReg_minVersion (s : State) (c n : Nat) (v : DWord) : (s.setCtxReg c n v).minVersion = s.minVersion := rfl
@[simp] theorem State.setCtxReg_romDigest (s : State) (c n : Nat) (v : DWord) : (s.setCtxReg c n v).romDigest = s.romDigest := rfl
@[simp] theorem State.setCtxReg_fwDigest (s : State) (c n : Nat) (v : DWord) : (s.setCtxReg c n v).fwDigest = s.fwDigest := rfl
@[simp] theorem State.setCtxReg_fuseDigest (s : State) (c n : Nat) (v : DWord) : (s.setCtxReg c n v).fuseDigest = s.fuseDigest := rfl
@[simp] theorem State.setCtxReg_rootKey (s : State) (c n : Nat) (v : DWord) : (s.setCtxReg c n v).rootKey = s.rootKey := rfl
@[simp] theorem State.setCtxReg_nextFw (s : State) (c n : Nat) (v : DWord) : (s.setCtxReg c n v).nextFw = s.nextFw := rfl
@[simp] theorem State.setCtxReg_sigIndex (s : State) (c n : Nat) (v : DWord) : (s.setCtxReg c n v).sigIndex = s.sigIndex := rfl
@[simp] theorem State.setCtxReg_outbox (s : State) (c n : Nat) (v : DWord) : (s.setCtxReg c n v).outbox = s.outbox := rfl
@[simp] theorem State.setCtxReg_selfRefresh (s : State) (c n : Nat) (v : DWord) : (s.setCtxReg c n v).selfRefresh = s.selfRefresh := rfl
@[simp] theorem State.setCtxReg_refreshing (s : State) (c n : Nat) (v : DWord) : (s.setCtxReg c n v).refreshing = s.refreshing := rfl
@[simp] theorem State.setCtxReg_admissions (s : State) (c n : Nat) (v : DWord) : (s.setCtxReg c n v).admissions = s.admissions := rfl
@[simp] theorem State.setCtxReg_stepIds (s : State) (c n : Nat) (v : DWord) : (s.setCtxReg c n v).stepIds = s.stepIds := rfl

end Sys2Proof.Machine
end

