-- ==== Sys2Proof/Laws/Tab.lean ====
section
/-! SUPPORT. Sparse tables: what reading one key gives after each update, and that the updates keep the keys rising. -/
namespace Sys2Proof.Machine

variable {α : Type}

@[simp] theorem tget_nil (k : Nat) : tget ([] : Tab α) k = none := rfl

@[simp] theorem tget_tset_same (t : Tab α) (k : Nat) (v : α) : tget (tset t k v) k = some v := by
  induction t with
  | nil => simp [tset, tget]
  | cons e rest ih =>
    obtain ⟨x, u⟩ := e
    simp only [tset]
    split
    · simp [tget]
    · split
      · simp [tget]
      · rename_i h1 h2
        simp [tget, ih, h1, Ne.symm h2]

theorem tget_tset_ne (t : Tab α) (k j : Nat) (v : α) (h : j ≠ k) : tget (tset t k v) j = tget t j := by
  induction t with
  | nil => simp only [tset, tget, Ne.symm h, if_false]; split <;> rfl
  | cons e rest ih =>
    obtain ⟨x, u⟩ := e
    simp only [tset]
    split
    · rename_i h1
      simp only [tget]
      split_ifs <;> first | rfl | omega
    · split
      · rename_i h2
        subst h2
        simp only [tget, Ne.symm h, if_false]
      · simp only [tget, ih]

theorem tget_tset (t : Tab α) (k j : Nat) (v : α) : tget (tset t k v) j = if j = k then some v else tget t j := by
  split
  · rename_i h
    rw [h, tget_tset_same]
  · exact tget_tset_ne t k j v ‹_›

@[simp] theorem tget_tmod_same (t : Tab α) (k : Nat) (f : α → α) : tget (tmod t k f) k = (tget t k).map f := by
  unfold tmod
  cases h : tget t k <;> simp [h]

theorem tget_tmod_ne (t : Tab α) (k j : Nat) (f : α → α) (h : j ≠ k) : tget (tmod t k f) j = tget t j := by
  unfold tmod
  split
  · rfl
  · exact tget_tset_ne _ _ _ _ h

theorem tmod_none (t : Tab α) (k : Nat) (f : α → α) (h : tget t k = none) : tmod t k f = t := by
  simp [tmod, h]

/-! Rising keys. -/

/-- Every key of a table lies above a bound. -/
def tabove (n : Nat) (t : Tab α) : Prop := ∀ e ∈ t, n < e.1

theorem tsorted_cons (e : Nat × α) (t : Tab α) : tsorted (e :: t) = true ↔ tabove e.1 t ∧ tsorted t = true := by
  induction t generalizing e with
  | nil => simp [tsorted, tabove]
  | cons e' rest ih =>
    obtain ⟨k, v⟩ := e
    obtain ⟨k', v'⟩ := e'
    simp only [tsorted, Bool.and_eq_true, decide_eq_true_eq]
    constructor
    · rintro ⟨h, hs⟩
      refine ⟨fun x hx => ?_, hs⟩
      rcases List.mem_cons.mp hx with rfl | hx
      · exact h
      · exact lt_trans h (((ih (k', v')).mp hs).1 x hx)
    · rintro ⟨h, hs⟩
      exact ⟨h (k', v') (by simp), hs⟩

theorem tabove_tget (n : Nat) (t : Tab α) (h : tabove n t) (j : Nat) (hj : j ≤ n) : tget t j = none := by
  induction t with
  | nil => rfl
  | cons e rest ih =>
    obtain ⟨k, v⟩ := e
    have hk : n < k := h (k, v) (by simp)
    simp only [tget]
    rw [if_neg (by omega), if_pos (by omega)]

theorem tabove_tset (n : Nat) (t : Tab α) (k : Nat) (v : α) (h : tabove n t) (hk : n < k) : tabove n (tset t k v) := by
  induction t with
  | nil => simpa [tset, tabove] using hk
  | cons e rest ih =>
    obtain ⟨x, u⟩ := e
    have hr : tabove n rest := fun y hy => h y (by simp [hy])
    have hx : n < x := h (x, u) (by simp)
    simp only [tset]
    split
    · intro y hy
      rcases List.mem_cons.mp hy with rfl | hy
      · exact hk
      · exact h y hy
    · split
      · intro y hy
        rcases List.mem_cons.mp hy with rfl | hy
        · exact hk
        · exact hr y hy
      · intro y hy
        rcases List.mem_cons.mp hy with rfl | hy
        · exact hx
        · exact ih hr y hy

theorem tsorted_tset (t : Tab α) (k : Nat) (v : α) (h : tsorted t = true) : tsorted (tset t k v) = true := by
  induction t with
  | nil => rfl
  | cons e rest ih =>
    obtain ⟨x, u⟩ := e
    obtain ⟨ha, hs⟩ := (tsorted_cons _ _).mp h
    simp only [tset]
    split
    · rename_i h1
      refine (tsorted_cons _ _).mpr ⟨fun y hy => ?_, h⟩
      rcases List.mem_cons.mp hy with rfl | hy
      · exact h1
      · exact lt_trans h1 (ha y hy)
    · split
      · rename_i h2
        subst h2
        exact (tsorted_cons _ _).mpr ⟨ha, hs⟩
      · exact (tsorted_cons _ _).mpr ⟨tabove_tset _ _ _ _ ha (by simp only; omega), ih hs⟩

theorem mem_terase (t : Tab α) (k : Nat) (e : Nat × α) (h : e ∈ terase t k) : e ∈ t := by
  induction t with
  | nil => simp [terase] at h
  | cons x rest ih =>
    obtain ⟨y, u⟩ := x
    simp only [terase] at h
    split at h
    · exact List.mem_cons_of_mem _ h
    · split at h
      · exact h
      · rcases List.mem_cons.mp h with rfl | h
        · simp
        · exact List.mem_cons_of_mem _ (ih h)

theorem tsorted_terase (t : Tab α) (k : Nat) (h : tsorted t = true) : tsorted (terase t k) = true := by
  induction t with
  | nil => rfl
  | cons e rest ih =>
    obtain ⟨x, u⟩ := e
    obtain ⟨ha, hs⟩ := (tsorted_cons _ _).mp h
    simp only [terase]
    split
    · exact hs
    · split
      · exact h
      · exact (tsorted_cons _ _).mpr ⟨fun y hy => ha y (mem_terase _ _ _ hy), ih hs⟩

theorem tget_terase_same (t : Tab α) (k : Nat) (h : tsorted t = true) : tget (terase t k) k = none := by
  induction t with
  | nil => rfl
  | cons e rest ih =>
    obtain ⟨x, u⟩ := e
    obtain ⟨ha, hs⟩ := (tsorted_cons _ _).mp h
    simp only [terase]
    split
    · rename_i h1
      exact tabove_tget x rest ha k (by omega)
    · split
      · rename_i h1 h2
        simp [tget, h1, h2]
      · rename_i h1 h2
        simp [tget, h1, h2, ih hs]

theorem tget_terase_ne (t : Tab α) (k j : Nat) (h : tsorted t = true) (hj : j ≠ k) : tget (terase t k) j = tget t j := by
  induction t with
  | nil => rfl
  | cons e rest ih =>
    obtain ⟨x, u⟩ := e
    obtain ⟨ha, hs⟩ := (tsorted_cons _ _).mp h
    simp only [terase]
    split
    · rename_i h1
      subst h1
      simp only [tget, Ne.symm hj, if_false]
      split
      · exact tabove_tget x rest ha j (by omega)
      · rfl
    · split
      · rfl
      · simp only [tget, ih hs]

theorem mem_tset (t : Tab α) (k : Nat) (v : α) (e : Nat × α) (h : e ∈ tset t k v) : e = (k, v) ∨ e ∈ t := by
  induction t with
  | nil => simpa [tset] using h
  | cons x rest ih =>
    obtain ⟨y, u⟩ := x
    simp only [tset] at h
    split at h
    · simpa using h
    · split at h
      · rcases List.mem_cons.mp h with rfl | h
        · exact .inl rfl
        · exact .inr (List.mem_cons_of_mem _ h)
      · rcases List.mem_cons.mp h with rfl | h
        · exact .inr (by simp)
        · rcases ih h with h | h
          · exact .inl h
          · exact .inr (List.mem_cons_of_mem _ h)

end Sys2Proof.Machine
end

