-- ==== Sys2Proof/Laws/Memory.lean ====
section
/-! SUPPORT. Memory: every operation keeps the canonical form; a read after a write; what a write at a home slice does to the
rest of the state. -/
namespace Sys2Proof.Machine

/-! The canonical form. -/

theorem memWf_iff (m : Tab Byte) : Memory.wf m = true ↔ tsorted m = true ∧ ∀ e ∈ m, e.2 ≠ emptyByte := by
  simp [Memory.wf]

theorem memWf_nil : Memory.wf [] = true := rfl

theorem memWf_memSet (m : Tab Byte) (a : Nat) (b : Byte) (h : Memory.wf m = true) : Memory.wf (memSet m a b) = true := by
  obtain ⟨hs, hne⟩ := (memWf_iff m).mp h
  unfold memSet
  split
  · exact (memWf_iff _).mpr ⟨tsorted_terase _ _ hs, fun e he => hne e (mem_terase _ _ _ he)⟩
  · refine (memWf_iff _).mpr ⟨tsorted_tset _ _ _ hs, fun e he => ?_⟩
    rcases mem_tset _ _ _ _ he with rfl | he
    · assumption
    · exact hne e he

theorem memWf_memWrite (m : Tab Byte) (a : Nat) (bs : List Byte) (h : Memory.wf m = true) : Memory.wf (memWrite m a bs) = true := by
  induction bs generalizing m a with
  | nil => exact h
  | cons b bs ih => exact ih _ _ (memWf_memSet m a b h)

/-- A read of one byte after a write of one byte. -/
theorem memByte_memSet (m : Tab Byte) (a j : Nat) (b : Byte) (h : Memory.wf m = true) :
    memByte (memSet m a b) j = if j = a then b else memByte m j := by
  have hs := ((memWf_iff m).mp h).1
  unfold memSet memByte
  by_cases hb : b = emptyByte <;> by_cases hj : j = a
  · subst hj
    simp [hb, tget_terase_same _ _ hs]
  · simp [hb, hj, tget_terase_ne _ _ _ hs hj]
  · subst hj
    simp [hb]
  · simp [hb, hj, tget_tset_ne _ _ _ _ hj]

/-- A read of one byte after a write. -/
theorem memByte_memWrite (m : Tab Byte) (a j : Nat) (bs : List Byte) (h : Memory.wf m = true) :
    memByte (memWrite m a bs) j = if a ≤ j ∧ j < a + bs.length then (bs[j - a]?).getD 0 else memByte m j := by
  induction bs generalizing m a with
  | nil =>
    have : ¬(a ≤ j ∧ j < a + ([] : List Byte).length) := by simp only [List.length_nil]; omega
    rw [if_neg this]; rfl
  | cons b bs ih =>
    rw [memWrite, ih _ _ (memWf_memSet m a b h), memByte_memSet _ _ _ _ h]
    simp only [List.length_cons]
    by_cases h1 : j = a
    · subst h1
      simp
    · by_cases h2 : a + 1 ≤ j ∧ j < a + 1 + bs.length
      · have h3 : a ≤ j ∧ j < a + (bs.length + 1) := by omega
        have h4 : j - a = (j - (a + 1)) + 1 := by omega
        rw [if_pos h2, if_pos h3, h4, List.getElem?_cons_succ]
      · have h3 : ¬(a ≤ j ∧ j < a + (bs.length + 1)) := by omega
        rw [if_neg h2, if_neg h3, if_neg h1]

theorem memByte_memWrite_out (m : Tab Byte) (a j : Nat) (bs : List Byte) (h : Memory.wf m = true)
    (hj : j < a ∨ a + bs.length ≤ j) : memByte (memWrite m a bs) j = memByte m j := by
  rw [memByte_memWrite m a j bs h, if_neg (by omega)]

/-- What was written is read. -/
theorem memRead_memWrite (m : Tab Byte) (a : Nat) (bs : List Byte) (h : Memory.wf m = true) :
    memRead (memWrite m a bs) a bs.length = bs := by
  apply List.ext_getElem
  · simp [memRead]
  · intro i h1 h2
    simp only [memRead, List.getElem_map, List.getElem_range]
    rw [memByte_memWrite _ _ _ _ h, if_pos (by omega)]
    simp [h2]

/-! Writes at a home slice. -/

@[simp] theorem dropVigil_mem (s : State) (v : Vigil) : (dropVigil s v).mem = s.mem := by
  unfold dropVigil
  dsimp only
  split <;> rfl

@[simp] theorem wakeVigil_mem (s : State) (v : Vigil) (f : Bool) (x : DWord) : (wakeVigil s v f x).mem = s.mem := by
  simp [wakeVigil]

theorem foldl_mem {β : Type} (g : State → β → State) (hg : ∀ s x, (g s x).mem = s.mem) (l : List β) (s : State) :
    (l.foldl g s).mem = s.mem := by
  induction l generalizing s with
  | nil => rfl
  | cons x l ih => rw [List.foldl_cons, ih, hg]

@[simp] theorem evalVigils_mem (s : State) (loc : WLoc) (n : Nat) : (evalVigils s loc n).mem = s.mem := by
  unfold evalVigils
  apply foldl_mem
  intro s v
  split <;> simp

@[simp] theorem clearErrs_mem (s : State) (pa : Nat) : (clearErrs s pa).mem = s.mem := by
  unfold clearErrs
  dsimp only
  split <;> rfl

/-! What the L2 keeps of a write or a read changes no memory (R92 to R95). -/

@[simp] theorem l2Drop_mem (s : State) (x : Nat) : (l2Drop s x).mem = s.mem := by
  unfold l2Drop
  split <;> rfl

theorem evictSector_mem (s t : State) (x : Nat) (h : evictSector s x = some t) : t.mem = s.mem := by
  unfold evictSector at h
  split at h
  · cases h; rfl
  · dsimp only at h
    split at h
    · cases h; simp
    · split at h
      · cases h; split <;> simp
      · split at h
        · cases h; simp
        · split at h
          · cases h; simp
          · cases h

theorem makeChunks_mem (keep but need fuel : Nat) (s : State) : (makeChunks keep but need fuel s).mem = s.mem := by
  induction fuel generalizing s with
  | zero => rfl
  | succ n ih =>
    unfold makeChunks
    split
    · rfl
    · dsimp only
      split
      · rfl
      · split
        · rfl
        · rename_i s1 h
          obtain ⟨x, -, hx⟩ := List.mem_filterMap.mp (List.mem_of_getElem? h)
          rw [ih, evictSector_mem _ _ _ hx]

theorem evictLine_mem (s t : State) (l : Nat) (h : evictLine s l = some t) : t.mem = s.mem := by
  simp only [evictLine, List.foldl_cons, List.foldl_nil, Option.bind_eq_some_iff, Option.some.injEq] at h
  obtain ⟨s3, ⟨s2, ⟨s1, ⟨s0, rfl, h0⟩, h1⟩, h2⟩, h3⟩ := h
  rw [evictSector_mem _ _ _ h3, evictSector_mem _ _ _ h2, evictSector_mem _ _ _ h1, evictSector_mem _ _ _ h0]

@[simp] theorem makeTag_mem (s : State) (l : Nat) : (makeTag s l).mem = s.mem := by
  unfold makeTag
  split
  · rfl
  · dsimp only
    split
    · rfl
    · rename_i h
      unfold Option.getD
      split
      · rename_i s1 h
        obtain ⟨x, -, hx⟩ := List.mem_filterMap.mp (List.mem_of_getElem? h)
        exact evictLine_mem _ _ _ hx
      · rfl

@[simp] theorem l2Put_mem (s : State) (cmp : Bool) (x : Nat) (f : Option L2Sector → L2Sector) : (l2Put s cmp x f).mem = s.mem := by
  simp [l2Put, makeChunks_mem]

@[simp] theorem homeFill_mem (s : State) (cmp : Bool) (pa : Nat) : (homeFill s cmp pa).mem = s.mem := by
  unfold homeFill
  dsimp only
  split_ifs
  · rfl
  · exact l2Put_mem s cmp (pa / 48) fun _ => ⟨false, 0, 0⟩
  · exact l2Put_mem _ _ _ _

@[simp] theorem dirtyParts_mem (ctx : Nat) (cmp : Bool) (l : List (Nat × Nat)) (s : State) :
    (dirtyParts s ctx cmp l).mem = s.mem := by
  induction l generalizing s with
  | nil => rfl
  | cons e l ih =>
    unfold dirtyParts
    dsimp only
    rw [ih]
    split
    · simp
    · split <;> simp

/-- A write at a home slice changes memory by its bytes and nothing else of memory. -/
@[simp] theorem homeWrite_mem (s : State) (ctx pa : Nat) (bs : List Byte) (cmp : Bool) :
    (homeWrite s ctx pa bs cmp).mem = memWrite s.mem pa bs := by
  unfold homeWrite
  split
  · rename_i h
    rw [h]
    rfl
  · simp

theorem homeWrite_memWf (s : State) (ctx pa : Nat) (bs : List Byte) (cmp : Bool) (h : Memory.wf s.mem = true) :
    Memory.wf (homeWrite s ctx pa bs cmp).mem = true := by
  rw [homeWrite_mem]
  exact memWf_memWrite _ _ _ h

@[simp] theorem clearTileWords_mem (s : State) (id off n : Nat) : (clearTileWords s id off n).mem = s.mem := rfl

@[simp] theorem tileWrite_mem (s : State) (id off : Nat) (bs : List Byte) : (tileWrite s id off bs).mem = s.mem := by
  simp [tileWrite]

theorem writeLoc_memWf (s : State) (ctx : Nat) (loc : WLoc) (bs : List Byte) (h : Memory.wf s.mem = true) :
    Memory.wf (writeLoc s ctx loc bs).mem = true := by
  cases loc with
  | mem pa => exact homeWrite_memWf s ctx pa bs _ h
  | tile t off => simpa [writeLoc] using h

theorem setBar_memWf (s : State) (ctx : Nat) (loc : WLoc) (b : Bar) (h : Memory.wf s.mem = true) :
    Memory.wf (setBar s ctx loc b).mem = true := writeLoc_memWf _ _ _ _ h

/-! What a translation leaves in the caches changes no memory (R86). -/

@[simp] theorem tlbAdd_mem (s : State) (e : TEntry) : (tlbAdd s e).mem = s.mem := by
  unfold tlbAdd
  split <;> rfl

@[simp] theorem useXlat_mem (s : State) (a : Agent) (ctx va : Nat) (x : Xlat) : (useXlat s a ctx va x).mem = s.mem := by
  unfold useXlat
  dsimp only
  rw [foldl_mem _ (fun s c => tlbAdd_mem s _)]
  split
  · rfl
  · exact foldl_mem _ (fun s pa => homeFill_mem s false pa) _ _

@[simp] theorem useRead_mem (s : State) (a : Agent) (ctx va : Nat) (p : Place) : (useRead s a ctx va p).mem = s.mem := by
  simp [useRead]

theorem foldl_memWf {β : Type} (g : State → β → State) (hg : ∀ s x, Memory.wf s.mem = true → Memory.wf (g s x).mem = true) (l : List β)
    (s : State) (h : Memory.wf s.mem = true) : Memory.wf (l.foldl g s).mem = true := by
  induction l generalizing s with
  | nil => exact h
  | cons x l ih => exact ih _ (hg s x h)

end Sys2Proof.Machine
end

