-- ==== Sys2Proof/Laws/Issue.lean ====
section
/-! SUPPORT. Issue: what taking lumens, the common beginning and the common end of an instruction do. -/
namespace Sys2Proof.Machine

/-! Waves under the updates of the state. -/

@[simp] theorem setWave_wave_same (s : State) (k : Nat) (w : Wave) : (s.setWave k w).wave k = some w := tget_tset_same _ _ _
theorem setWave_wave_ne (s : State) (k j : Nat) (w : Wave) (h : j ≠ k) : (s.setWave k w).wave j = s.wave j := tget_tset_ne _ _ _ _ h
@[simp] theorem setCore_wave (s : State) (c k : Nat) (x : Core) : (s.setCore c x).wave k = s.wave k := rfl
@[simp] theorem setSide_wave (s : State) (c k : Nat) (x : Side) : (s.setSide c x).wave k = s.wave k := rfl
@[simp] theorem setQuad_wave (s : State) (c k : Nat) (x : Quad) : (s.setQuad c x).wave k = s.wave k := rfl
@[simp] theorem setDie_wave (s : State) (c k : Nat) (x : Die) : (s.setDie c x).wave k = s.wave k := rfl
@[simp] theorem modCtx_wave (s : State) (c k : Nat) (f : Ctx → Ctx) : (s.modCtx c f).wave k = s.wave k := rfl

theorem ctxReg_congr (s t : State) (h : ∀ c, (tget t.ctxs c).map Ctx.regs = (tget s.ctxs c).map Ctx.regs) (c n : Nat) :
    t.ctxReg c n = s.ctxReg c n := by
  have hc := h c
  unfold State.ctxReg
  cases h1 : tget t.ctxs c <;> cases h2 : tget s.ctxs c <;> simp [h1, h2] at hc ⊢
  simp [Ctx.reg, hc]

/-! Lumens. -/

/-- Taking lumens reaches cores, quads and contexts alone. -/
theorem takeLumens_rest (s : State) (c d p : Nat) : ∃ co qu cx, takeLumens s c d p = { s with cores := co, quads := qu, ctxs := cx } := by
  unfold takeLumens
  split_ifs
  · exact ⟨_, _, _, rfl⟩
  · exact ⟨_, _, _, rfl⟩

@[simp] theorem takeLumens_free (s : State) (c d p : Nat) : (takeLumens s c d p).free = s.free := by
  obtain ⟨_, _, _, h⟩ := takeLumens_rest s c d p; rw [h]
@[simp] theorem takeLumens_turn (s : State) (c d p : Nat) : (takeLumens s c d p).turn = s.turn := by
  obtain ⟨_, _, _, h⟩ := takeLumens_rest s c d p; rw [h]
@[simp] theorem takeLumens_cur (s : State) (c d p : Nat) : (takeLumens s c d p).cur = s.cur := by
  obtain ⟨_, _, _, h⟩ := takeLumens_rest s c d p; rw [h]
@[simp] theorem takeLumens_mem (s : State) (c d p : Nat) : (takeLumens s c d p).mem = s.mem := by
  obtain ⟨_, _, _, h⟩ := takeLumens_rest s c d p; rw [h]
@[simp] theorem takeLumens_sent (s : State) (c d p : Nat) : (takeLumens s c d p).sent = s.sent := by
  obtain ⟨_, _, _, h⟩ := takeLumens_rest s c d p; rw [h]
@[simp] theorem takeLumens_early (s : State) (c d p : Nat) : (takeLumens s c d p).early = s.early := by
  obtain ⟨_, _, _, h⟩ := takeLumens_rest s c d p; rw [h]
@[simp] theorem takeLumens_l2 (s : State) (c d p : Nat) : (takeLumens s c d p).l2 = s.l2 := by
  obtain ⟨_, _, _, h⟩ := takeLumens_rest s c d p; rw [h]
@[simp] theorem takeLumens_errs (s : State) (c d p : Nat) : (takeLumens s c d p).errs = s.errs := by
  obtain ⟨_, _, _, h⟩ := takeLumens_rest s c d p; rw [h]
@[simp] theorem takeLumens_tlb (s : State) (c d p : Nat) : (takeLumens s c d p).tlb = s.tlb := by
  obtain ⟨_, _, _, h⟩ := takeLumens_rest s c d p; rw [h]
@[simp] theorem takeLumens_xlinvs (s : State) (c d p : Nat) : (takeLumens s c d p).xlinvs = s.xlinvs := by
  obtain ⟨_, _, _, h⟩ := takeLumens_rest s c d p; rw [h]
@[simp] theorem takeLumens_queues (s : State) (c d p : Nat) : (takeLumens s c d p).queues = s.queues := by
  obtain ⟨_, _, _, h⟩ := takeLumens_rest s c d p; rw [h]
@[simp] theorem takeLumens_launches (s : State) (c d p : Nat) : (takeLumens s c d p).launches = s.launches := by
  obtain ⟨_, _, _, h⟩ := takeLumens_rest s c d p; rw [h]
@[simp] theorem takeLumens_blocks (s : State) (c d p : Nat) : (takeLumens s c d p).blocks = s.blocks := by
  obtain ⟨_, _, _, h⟩ := takeLumens_rest s c d p; rw [h]
@[simp] theorem takeLumens_waves (s : State) (c d p : Nat) : (takeLumens s c d p).waves = s.waves := by
  obtain ⟨_, _, _, h⟩ := takeLumens_rest s c d p; rw [h]
@[simp] theorem takeLumens_sides (s : State) (c d p : Nat) : (takeLumens s c d p).sides = s.sides := by
  obtain ⟨_, _, _, h⟩ := takeLumens_rest s c d p; rw [h]
@[simp] theorem takeLumens_dies (s : State) (c d p : Nat) : (takeLumens s c d p).dies = s.dies := by
  obtain ⟨_, _, _, h⟩ := takeLumens_rest s c d p; rw [h]
@[simp] theorem takeLumens_vigils (s : State) (c d p : Nat) : (takeLumens s c d p).vigils = s.vigils := by
  obtain ⟨_, _, _, h⟩ := takeLumens_rest s c d p; rw [h]
@[simp] theorem takeLumens_tickets (s : State) (c d p : Nat) : (takeLumens s c d p).tickets = s.tickets := by
  obtain ⟨_, _, _, h⟩ := takeLumens_rest s c d p; rw [h]
@[simp] theorem takeLumens_wakes (s : State) (c d p : Nat) : (takeLumens s c d p).wakes = s.wakes := by
  obtain ⟨_, _, _, h⟩ := takeLumens_rest s c d p; rw [h]
@[simp] theorem takeLumens_helds (s : State) (c d p : Nat) : (takeLumens s c d p).helds = s.helds := by
  obtain ⟨_, _, _, h⟩ := takeLumens_rest s c d p; rw [h]
@[simp] theorem takeLumens_releases (s : State) (c d p : Nat) : (takeLumens s c d p).releases = s.releases := by
  obtain ⟨_, _, _, h⟩ := takeLumens_rest s c d p; rw [h]
@[simp] theorem takeLumens_locks (s : State) (c d p : Nat) : (takeLumens s c d p).locks = s.locks := by
  obtain ⟨_, _, _, h⟩ := takeLumens_rest s c d p; rw [h]
@[simp] theorem takeLumens_seals (s : State) (c d p : Nat) : (takeLumens s c d p).seals = s.seals := by
  obtain ⟨_, _, _, h⟩ := takeLumens_rest s c d p; rw [h]
@[simp] theorem takeLumens_tiles (s : State) (c d p : Nat) : (takeLumens s c d p).tiles = s.tiles := by
  obtain ⟨_, _, _, h⟩ := takeLumens_rest s c d p; rw [h]
@[simp] theorem takeLumens_engops (s : State) (c d p : Nat) : (takeLumens s c d p).engops = s.engops := by
  obtain ⟨_, _, _, h⟩ := takeLumens_rest s c d p; rw [h]
@[simp] theorem takeLumens_patches (s : State) (c d p : Nat) : (takeLumens s c d p).patches = s.patches := by
  obtain ⟨_, _, _, h⟩ := takeLumens_rest s c d p; rw [h]
@[simp] theorem takeLumens_qtBase (s : State) (c d p : Nat) : (takeLumens s c d p).qtBase = s.qtBase := by
  obtain ⟨_, _, _, h⟩ := takeLumens_rest s c d p; rw [h]
@[simp] theorem takeLumens_hubUs (s : State) (c d p : Nat) : (takeLumens s c d p).hubUs = s.hubUs := by
  obtain ⟨_, _, _, h⟩ := takeLumens_rest s c d p; rw [h]
@[simp] theorem takeLumens_started (s : State) (c d p : Nat) : (takeLumens s c d p).started = s.started := by
  obtain ⟨_, _, _, h⟩ := takeLumens_rest s c d p; rw [h]
@[simp] theorem takeLumens_minimal (s : State) (c d p : Nat) : (takeLumens s c d p).minimal = s.minimal := by
  obtain ⟨_, _, _, h⟩ := takeLumens_rest s c d p; rw [h]
@[simp] theorem takeLumens_reason (s : State) (c d p : Nat) : (takeLumens s c d p).reason = s.reason := by
  obtain ⟨_, _, _, h⟩ := takeLumens_rest s c d p; rw [h]
@[simp] theorem takeLumens_fails (s : State) (c d p : Nat) : (takeLumens s c d p).fails = s.fails := by
  obtain ⟨_, _, _, h⟩ := takeLumens_rest s c d p; rw [h]
@[simp] theorem takeLumens_nodeId (s : State) (c d p : Nat) : (takeLumens s c d p).nodeId = s.nodeId := by
  obtain ⟨_, _, _, h⟩ := takeLumens_rest s c d p; rw [h]
@[simp] theorem takeLumens_mgmtNode (s : State) (c d p : Nat) : (takeLumens s c d p).mgmtNode = s.mgmtNode := by
  obtain ⟨_, _, _, h⟩ := takeLumens_rest s c d p; rw [h]
@[simp] theorem takeLumens_serial (s : State) (c d p : Nat) : (takeLumens s c d p).serial = s.serial := by
  obtain ⟨_, _, _, h⟩ := takeLumens_rest s c d p; rw [h]
@[simp] theorem takeLumens_minVersion (s : State) (c d p : Nat) : (takeLumens s c d p).minVersion = s.minVersion := by
  obtain ⟨_, _, _, h⟩ := takeLumens_rest s c d p; rw [h]
@[simp] theorem takeLumens_romDigest (s : State) (c d p : Nat) : (takeLumens s c d p).romDigest = s.romDigest := by
  obtain ⟨_, _, _, h⟩ := takeLumens_rest s c d p; rw [h]
@[simp] theorem takeLumens_fwDigest (s : State) (c d p : Nat) : (takeLumens s c d p).fwDigest = s.fwDigest := by
  obtain ⟨_, _, _, h⟩ := takeLumens_rest s c d p; rw [h]
@[simp] theorem takeLumens_fuseDigest (s : State) (c d p : Nat) : (takeLumens s c d p).fuseDigest = s.fuseDigest := by
  obtain ⟨_, _, _, h⟩ := takeLumens_rest s c d p; rw [h]
@[simp] theorem takeLumens_rootKey (s : State) (c d p : Nat) : (takeLumens s c d p).rootKey = s.rootKey := by
  obtain ⟨_, _, _, h⟩ := takeLumens_rest s c d p; rw [h]
@[simp] theorem takeLumens_nextFw (s : State) (c d p : Nat) : (takeLumens s c d p).nextFw = s.nextFw := by
  obtain ⟨_, _, _, h⟩ := takeLumens_rest s c d p; rw [h]
@[simp] theorem takeLumens_sigIndex (s : State) (c d p : Nat) : (takeLumens s c d p).sigIndex = s.sigIndex := by
  obtain ⟨_, _, _, h⟩ := takeLumens_rest s c d p; rw [h]
@[simp] theorem takeLumens_outbox (s : State) (c d p : Nat) : (takeLumens s c d p).outbox = s.outbox := by
  obtain ⟨_, _, _, h⟩ := takeLumens_rest s c d p; rw [h]
@[simp] theorem takeLumens_selfRefresh (s : State) (c d p : Nat) : (takeLumens s c d p).selfRefresh = s.selfRefresh := by
  obtain ⟨_, _, _, h⟩ := takeLumens_rest s c d p; rw [h]
@[simp] theorem takeLumens_refreshing (s : State) (c d p : Nat) : (takeLumens s c d p).refreshing = s.refreshing := by
  obtain ⟨_, _, _, h⟩ := takeLumens_rest s c d p; rw [h]
@[simp] theorem takeLumens_admissions (s : State) (c d p : Nat) : (takeLumens s c d p).admissions = s.admissions := by
  obtain ⟨_, _, _, h⟩ := takeLumens_rest s c d p; rw [h]
@[simp] theorem takeLumens_stepIds (s : State) (c d p : Nat) : (takeLumens s c d p).stepIds = s.stepIds := by
  obtain ⟨_, _, _, h⟩ := takeLumens_rest s c d p; rw [h]

@[simp] theorem takeLumens_wave (s : State) (c d p k : Nat) : (takeLumens s c d p).wave k = s.wave k := by
  unfold State.wave
  rw [takeLumens_waves]

/-- The contexts after lumens are taken: only the account of one has changed. -/
theorem takeLumens_ctxs {β : Type} (g : Ctx → β) (hg : ∀ c n, g { c with energy := n } = g c) (s : State) (c d p j : Nat) :
    (tget (takeLumens s c d p).ctxs j).map g = (tget s.ctxs j).map g := by
  unfold takeLumens
  split_ifs
  · rfl
  · simp only [State.modCtx_ctxs, State.setQuad_ctxs, State.setCore_ctxs]
    by_cases h : j = c
    · subst h
      rw [tget_tmod_same]
      cases tget s.ctxs j <;> simp [hg]
    · rw [tget_tmod_ne _ _ _ _ h]

@[simp] theorem takeLumens_ctxReg (s : State) (c d p j n : Nat) : (takeLumens s c d p).ctxReg j n = s.ctxReg j n :=
  ctxReg_congr _ _ (takeLumens_ctxs Ctx.regs (fun _ _ => rfl) s c d p) j n

@[simp] theorem takeLumens_fv (s : State) (c d p n : Nat) : (takeLumens s c d p).fv n = s.fv n := by
  unfold State.fv
  rw [takeLumens_free]

theorem takeLumens_farBad (s : State) (c d p k : Nat) (i : Instr) : farBad (takeLumens s c d p) k i = farBad s k i := by
  unfold farBad
  rw [takeLumens_errs]

/-! The common beginning. -/

theorem fillAll_nil (s : State) (k : Nat) : fillAll s k [] = .filled s := rfl

/-- Where nothing stops an instruction, the common beginning takes its lumens and goes on with its wave as it is. -/
theorem prologue_ready {i : Instr} {k : Nat} {w : Wave} {s : State} (h : Ready i k w s) :
    prologue s k w i = .go (takeLumens s w.ctx w.side (priceOf i)) w := by
  unfold prologue
  simp [h.lumens, h.checks, h.granules, fillAll_nil, h.wave, takeLumens_farBad, h.sound]

/-- The frame of class P where nothing stops the instruction. -/
theorem issueP_ready {i : Instr} {k : Nat} {w : Wave} {s : State} (h : Ready i k w s) (body : State → Nat → Wave → Eff) :
    issueP i body s = match body (takeLumens s w.ctx w.side (priceOf i)) k w with
      | .trap f => .next (trapAtIssue (takeLumens s w.ctx w.side (priceOf i)) k w f)
      | .next s2 => .next (issued s2 k i true)
      | .jump s2 => .next (issued s2 k i false) := by
  cases hb : body (takeLumens s w.ctx w.side (priceOf i)) k w <;>
    simp only [issueP, h.issuing, h.wave, prologue_ready h, hb]

theorem issueB_ready {i : Instr} {k : Nat} {w : Wave} {s : State} (h : Ready i k w s) (mask : Option Word)
    (check : State → Nat → Wave → Option Fail) :
    issueB i mask check s = match check (takeLumens s w.ctx w.side (priceOf i)) k w with
      | some f => .next (trapAtIssue (takeLumens s w.ctx w.side (priceOf i)) k w f)
      | none => .next (boundary (takeLumens s w.ctx w.side (priceOf i)) k w i (mask.getD w.st.svm)) := by
  cases hb : check (takeLumens s w.ctx w.side (priceOf i)) k w <;>
    simp only [issueB, h.issuing, h.wave, prologue_ready h, hb]

end Sys2Proof.Machine
end

