-- ==== Sys2Proof/Laws/Leaves.lean ====
section
/-! SUPPORT. What an instruction does where a check fails, where its own part sets its wave, and where its own part traps. -/
namespace Sys2Proof.Machine

/-- The fields of an ECAUSE word. -/
theorem causeWord_fields (t : Trap) (rq be : Bool) : CauseIs (causeWord t rq be) t.cause t.sub t.whn rq be t.thr := by
  obtain ⟨c, sb, wh, thr, a, b, d⟩ := t
  have h0 : c % 256 < 256 := Nat.mod_lt _ (by decide)
  have h1 : sb % 16 < 16 := Nat.mod_lt _ (by decide)
  have h2 : wh % 4 < 4 := Nat.mod_lt _ (by decide)
  cases thr with
  | none => cases rq <;> cases be <;>
      constructor <;> simp [causeWord, bitsOf, Nat.shiftRight_eq_div_pow] <;> omega
  | some x =>
    have h3 : x % 32 < 32 := Nat.mod_lt _ (by decide)
    cases rq <;> cases be <;>
      constructor <;> simp [causeWord, bitsOf, Nat.shiftRight_eq_div_pow] <;> omega

theorem onlyWave_refl (s : State) (k : Nat) : OnlyWave k s s := by
  constructor <;> simp

theorem OnlyWave.set (s s1 : State) (k : Nat) (w : Wave) (h : OnlyWave k s s1) : OnlyWave k s (s1.setWave k w) := by
  obtain ⟨⟩ := h
  constructor <;> simp_all
  · intro j hj; rw [setWave_wave_ne _ _ _ _ hj]; simp_all
  · intro c n; rename_i h _; exact h c n

theorem OnlyWave.errs (s0 s : State) (k e) (h : OnlyWave k s0 s) : OnlyWave k s0 { s with errs := e } := by
  cases h; constructor <;> assumption

/-- Leaves that leave the caches do so on both sides. -/
theorem OnlyWave.dropLeaves (s0 s : State) (k : Nat) (a : Agent) (c n : Nat) (h : OnlyWave k s0 s) :
    OnlyWave k (Machine.dropLeaves s0 a c n) (Machine.dropLeaves s a c n) := by
  obtain ⟨h1, h2, h3, h4, h5, h6, h7, h8, h9, h10, h11, h12, h13, h14, h15, h16, h17, h18⟩ := h
  exact ⟨h1, h2, congrArg (fun l => List.filter _ l) h3, h4, h5, h6, h7, h8, h9, h10, h11, h12, h13, h14, h15, h16, h17, h18⟩

theorem onlyWave_takeLumens (s : State) (k c d p : Nat) : OnlyWave k s (takeLumens s c d p) := by
  constructor <;> try simp
  intro j
  exact takeLumens_ctxs Ctx.astat (fun _ _ => rfl) s c d p j

/-- A trap at issue that goes to the handler. -/
theorem trapAtIssue_handler (s s1 : State) (k : Nat) (w : Wave) (f : Fail) (hk : ∀ c n, s1.ctxReg c n = s.ctxReg c n) (ho : OnlyWave k s s1)
   (hh : trapToHost s w.rollback f.cause = false) :
   ∃ t w', trapAtIssue s1 k w f = t ∧ t.wave k = some w' ∧
    OnlyWave k (if f.cause = 3 then Machine.dropLeaves s (.lsu w.core) w.ctx (pageNo w'.eaddr.toNat) else s) t ∧
    AtHandler (handlerEntry s w) w.head w w' f.cause f.sub 0 f.thr w.st.pc w.head.pc (decide (w.residual ≠ [])) w.be.isSome ∧
    w'.bank = w.bank ∧ ∀ a, f.addr = some a → w'.eaddr = a := by
  have h2 : OnlyWave k (if f.cause = 3 then Machine.dropLeaves s (.lsu w.core) w.ctx (pageNo (eaddrOf f).toNat) else s)
      (if f.cause = 3 then Machine.dropLeaves s1 (.lsu w.core) w.ctx (pageNo (eaddrOf f).toNat) else s1) := by
    split_ifs
    · exact ho.dropLeaves _ _ _ _ _ _
    · exact ho
  have hk2 : ∀ c n, (if f.cause = 3 then Machine.dropLeaves s1 (.lsu w.core) w.ctx (pageNo (eaddrOf f).toNat) else s1).ctxReg c n = s.ctxReg c n := by
    intro c n; rw [← hk c n]; split_ifs <;> rfl
  unfold trapAtIssue takeTrap
  dsimp only
  have hc0 : w.rollback.core = w.core ∧ w.rollback.ctx = w.ctx := ⟨rfl, rfl⟩
  rw [hc0.1, hc0.2]
  revert h2 hk2
  generalize (if f.cause = 3 then Machine.dropLeaves s1 (.lsu w.core) w.ctx (pageNo (eaddrOf f).toNat) else s1) = s2
  intro h2 hk2
  have hh' : trapToHost s2 w.rollback f.cause = false := by
    unfold trapToHost at hh ⊢; rw [hk2]; exact hh
  simp only [hh']
  refine ⟨_, _, rfl, setWave_wave_same _ _ _, OnlyWave.set _ _ _ _ h2, ?_, rfl, ?_⟩
  · have hc := causeWord_fields ⟨f.cause, f.sub, 0, f.thr, w.st.pc, w.head.pc, eaddrOf f⟩ (decide (w.residual ≠ [])) w.be.isSome
    constructor <;> first | rfl | (exact ⟨rfl, rfl⟩) | (intros; rfl) | (exact ⟨rfl, rfl, rfl⟩)| (exact ⟨rfl, rfl, rfl,rfl⟩) | exact hc |
      simp [handlerEntry, hk2]
  · intro a ha
    simp [eaddrOf, ha]

/-- An instruction whose checks fail stops with their trap. -/
theorem prologue_failed {i : Instr} {k : Nat} {w : Wave} {s : State} {f : Fail}
   (hl : canTake s w.side (priceOf i) = true) (hf : issueFail w i = some f) :
   prologue s k w i = .stop (trapAtIssue (takeLumens s w.ctx w.side (priceOf i)) k w f) := by
  unfold prologue
  simp [hl, hf]

theorem issueP_failed {i : Instr} {k w s f} (hc : s.cur = some k) (hw : s.wave k = some w)
   (hl : canTake s w.side (priceOf i) = true) (hf : issueFail w i = some f) (b) :
   issueP i b s = .next (trapAtIssue (takeLumens s w.ctx w.side (priceOf i)) k w f) := by
  unfold issueP
  simp [hc, hw, prologue_failed hl hf]

theorem issueB_failed {i : Instr} {k w s f} (hc : s.cur = some k) (hw : s.wave k = some w)
   (hl : canTake s w.side (priceOf i) = true) (hf : issueFail w i = some f) (m b) :
   issueB i m b s = .next (trapAtIssue (takeLumens s w.ctx w.side (priceOf i)) k w f) := by
  unfold issueB
  simp [hc, hw, prologue_failed hl hf]

/-- Whatever the instruction, a failed check is its trap. -/
theorem exec_failed {i : Instr} {k w s f} (hi : i.isEvent = false) (hc : s.cur = some k) (hw : s.wave k = some w)
   (hl : canTake s w.side (priceOf i) = true) (hf : issueFail w i = some f) :
   exec i s = .next (trapAtIssue (takeLumens s w.ctx w.side (priceOf i)) k w f) := by
  cases i <;> first | (exact Bool.noConfusion hi) | (simp only [exec, issueQ, intV, intI, fpV, fpI, predV, execNop, execBra, execBrc, execBri, execCall, execRet, execRcv, execExit, execStrand, execYield, execTrap, execEret, execSrd, execSwr, execPatch, execBkpt, execHalt, execMov, execMovI, execSel, execSelI, execIadd, execIaddI, execIsub, execIsubI, execImul, execImulI, execImulh, execImulhI, execImad, execImadI, execImin, execIminI, execImax, execImaxI, execIabs, execIset, execIsetI, execLea, execLeaI, execIand, execIandI, execIor, execIorI, execIxor, execIxorI, execInot, execLop3, execShl, execShlI, execShr, execShrI, execSar, execSarI, execRot, execRotI, execPopc, execClz, execBrev, execBfx, execBfxI, execPand, execPor, execPxor, execPnot, execPmov, execFadd, execFaddI, execFsub, execFsubI, execFmul, execFmulI, execFfma, execFfmaI, execFmin, execFminI, execFmax, execFmaxI, execFmaxi, execFmini, execFset, execFsetI, execFcls, execFrcp, execFrsq, execFsqrt, execFexp2, execFlog2, execFsin, execFcos, execFdivs, execCvt, execBpk, execBupk, execSbpk, execSbupk, execXsel, execVote, execBall, execScan, execRedx, execMatchX, execRand, execRseed, execLd, execSt, execLdp, execStp, execLdl, execStl, execLdc, execPrf, execTld, execTst, execTalc, execTfree, execTinfo, execLayset, execLayinv, execSeal, execUnseal, execInvl1, execWbl2, execBulk, execBcopy, execKick, execTend, execEchk, execSpawn, execBincfg, execLaunch, execMbeg, execMend, execMma, execGang, execMrd, execMwr, execMzero, execMscl, execVigil, execWake, execWakeq, execArv, execBinit, execAtom, execRed, execRedd, execDtok, execFence, execOpcls, execLumq, execMonrd, execUnassignedOpcode]; first | exact issueP_failed hc hw hl hf _ | exact issueB_failed hc hw hl hf _ _)

/-- The end of an issued instruction touches its own wave only. -/
theorem OnlyWave.afterIssue (s0 s : State) (k i a) (h : OnlyWave k s0 s) : OnlyWave k s0 (issued s k i a) := by
  unfold issued
  split
  · exact h
  · dsimp only
    split_ifs <;> first | exact h | exact OnlyWave.set _ _ _ _ h | exact OnlyWave.errs _ _ _ _ (OnlyWave.set _ _ _ _ h)

/-- The wave at the end of an issued instruction. -/
theorem issued_wave (s : State) (k i a w) (h : s.wave k = some w) (hl : w.lit = true) : (issued s k i a).wave k = some { w with
      farRead := w.farRead ++ (farRefs (readsOf i)).filter (fun r => !w.farRead.contains r)
      st := { w.st with pc := if a then w.st.pc + 12 else w.st.pc } } := by
  unfold issued
  simp only [h, hl]
  simp only [Bool.not_true, Bool.false_eq_true, if_false]
  split_ifs <;> exact setWave_wave_same _ _ _

/-- The same where no far register is read. -/
theorem issued_wave_near (s : State) (k i a w) (h : s.wave k = some w) (hl : w.lit = true) (hf : farRefs (readsOf i) = []) : 
  (issued s k i a).wave k = some (if a then { w with st := { w.st with pc := w.st.pc + 12 } } else w) := by
  rw [issued_wave s k i a w h hl, hf]
  cases a <;> simp

/-- An instruction of class P whose own part only sets its wave. -/
theorem leaves_of_body {i k w s} (h : Ready i k w s) (hf : farRefs (readsOf i) = []) (w1 : Wave) (hl : w1.lit = true) (a : Bool)
   {b} (he : issueP i b s = exec i s) (hb : b (takeLumens s w.ctx w.side (priceOf i)) k w = 
     if a then .next ((takeLumens s w.ctx w.side (priceOf i)).setWave k w1) else .jump ((takeLumens s w.ctx w.side (priceOf i)).setWave k w1)) :
   Leaves i s k (if a then { w1 with st := { w1.st with pc := w1.st.pc + 12 } } else w1) := by
  refine ⟨issued ((takeLumens s w.ctx w.side (priceOf i)).setWave k w1) k i a, ?_, ?_, ?_⟩
  · rw [← he, issueP_ready h, hb]; cases a <;> rfl
  · exact issued_wave_near _ _ _ _ _ (setWave_wave_same _ _ _) hl hf
  · exact OnlyWave.afterIssue _ _ _ _ _ (OnlyWave.set _ _ _ _ (onlyWave_takeLumens _ _ _ _ _))

/-- An instruction of class P whose own part does nothing. -/
theorem leaves_of_nothing {i k w s} (h : Ready i k w s) (hf : farRefs (readsOf i) = [])
   {b} (he : issueP i b s = exec i s) (hb : b (takeLumens s w.ctx w.side (priceOf i)) k w = 
     .next (takeLumens s w.ctx w.side (priceOf i))) :
   Leaves i s k { w with st := { w.st with pc := w.st.pc + 12 } } := by
  refine ⟨issued ((takeLumens s w.ctx w.side (priceOf i))) k i true, ?_, ?_, ?_⟩
  · rw [← he, issueP_ready h, hb]
  · exact issued_wave_near _ _ _ true _ (by simp [h.wave]) h.lit hf
  · exact OnlyWave.afterIssue _ _ _ _ _ (onlyWave_takeLumens _ _ _ _ _)

/-- An instruction of class P whose own part is a trap. -/
theorem traps_of_body {i k w s} (h : Ready i k w s) (f : Fail) 
   {b} (he : issueP i b s = exec i s) (hb : b (takeLumens s w.ctx w.side (priceOf i)) k w = .trap f) :
   TrapsAtIssue i s k w f.cause f.sub f.thr f.addr := by
  intro hh
  obtain ⟨t, w', h1, h2⟩ := trapAtIssue_handler s (takeLumens s w.ctx w.side (priceOf i)) k w f (by simp) (onlyWave_takeLumens _ _ _ _ _) hh
  refine ⟨t, w', ?_, h2⟩
  rw [← he, issueP_ready h, hb, ← h1]

/-- Far registers among the operands. -/
theorem farRefs_guard (h : Hdr) : farRefs (if h.gp = 0#3 then ([] : List RegRef) else [(4, h.gp.toNat)]) = [] := by
  split_ifs <;> simp [farRefs]

theorem farRefs_append (a b : List RegRef) : farRefs (a ++ b) = farRefs a ++ farRefs b := by simp [farRefs]

theorem farRefs_scalar (f : Src) (h : f.lvl = 3) (o) : farRefs (refs f o) = [] := by
  unfold refs; simp [h]; split_ifs <;> simp [farRefs]

/-- What passed checks say. -/
theorem illegalSub_of_checks {w i} (h : issueFail w i = none) : illegalSub w.farRegs w.st.pl1 i = none := by
  unfold issueFail at h
  split at h
  · simp at h
  · assumption

theorem lowestSub_none (cs : Checks) : lowestSub cs = none ↔ ∀ c ∈ cs, c.2 = false := by
  induction cs with
  | nil => simp [lowestSub]
  | cons c cs ih =>
    obtain ⟨n, bad⟩ := c
    simp only [lowestSub]
    cases bad <;> cases h : lowestSub cs <;> simp_all

/-- Targets. -/
theorem badTarget_false (v : DWord) : badTarget v = false ↔ v.toNat % 12 = 0 ∧ v.toNat < 2 ^ 57 := by
  simp [badTarget]

theorem parcels_eq (x : BitVec 24) : parcels x = 12 * x.signExtend 64 := by
  unfold parcels; rw [BitVec.mul_comm]

theorem srcScalar_lvl {sp f} (h : ∀ c ∈ srcScalar sp f, c.2 = false) : f.lvl = 3 := by
  simp [srcScalar, cks] at h; exact h.2.1.1

end Sys2Proof.Machine
end

