-- ==== Sys2Proof/Laws/Boundary.lean ====
section
/-! SUPPORT. The strand boundary with an empty queue, and the delivery of a trap. -/
namespace Sys2Proof.Machine

/-- A key set twice. -/
theorem tset_tset {α} (t : Tab α) (k : Nat) (a b : α) : tset (tset t k a) k b = tset t k b := by
  induction t with
  | nil => simp [tset]
  | cons e t ih =>
    obtain ⟨x, u⟩ := e
    simp only [tset]
    by_cases h1 : k < x
    · simp [h1, tset]
    · by_cases h2 : k = x
      · simp [h2, tset]
      · simp [h1, h2, tset, ih]

/-- Whether an instruction is ERET, after which a boundary may go on (R375). -/
def isEret (i : Instr) : Bool := match i with
                | .eret _ => true
                | _ => false
/-- A wave after a boundary with an empty queue (R175). -/
def nextStrand (w : Wave) (mask : Word) : Wave :=
  { ({ w.newHead mask (w.st.pc + 12) with residual := [], queue := [], be := none, parity := 0, wait := .none } : Wave).afterBoundary with be := none }

/-- A wave set twice. -/
theorem setWave_setWave (s : State) (k : Nat) (a b : Wave) : (s.setWave k a).setWave k b = s.setWave k b := by
  unfold State.setWave; simp [tset_tset]

/-- The rest of a boundary with nothing queued: its own effect. -/
theorem finishBoundary_empty (s : State) (k : Nat) (w : Wave) (i : Instr) (mask : Word) (hq : w.queue = []) (hr : s.blockRuns w.block = true) (n : Nat) :
   finishBoundary k (n+1) (s.setWave k { w.newHead mask (w.st.pc + 12) with residual := w.queue, queue := [], be := some (i, w.st.pc), parity := 0 }) =
   (match (ownEffect (s.setWave k (nextStrand w mask)) k (nextStrand w mask) i w.st.pc).wave k with
            | none => ownEffect (s.setWave k (nextStrand w mask)) k (nextStrand w mask) i w.st.pc
            | some w3 =>
              if w3.wait = .boundary && isEret i then finishBoundary k n (ownEffect (s.setWave k (nextStrand w mask)) k (nextStrand w mask) i w.st.pc)
              else ownEffect (s.setWave k (nextStrand w mask)) k (nextStrand w mask) i w.st.pc) := by
  conv => lhs; unfold finishBoundary
  simp only [setWave_wave_same, hq, List.length_nil, setWave_setWave]
  simp only [drain, setWave_wave_same, setWave_setWave]
  have hb : ∀ x : Wave, (s.setWave k x).blockRuns w.block = true := fun _ => hr
  simp only [Wave.newHead, hb, Bool.not_true, Bool.false_eq_true, if_false]
  rfl

/-- The end of a boundary: the depth of its queue is sampled; the threads that retired may free contributions (R402, R438). -/
def boundaryEnd (w : Wave) (i : Instr) (s : State) : State := afterEnd w i (s.sampled (dieOfCore w.core) 5 w.queue.length)

/-- A boundary with nothing queued, of any instruction but ERET. -/
theorem boundary_empty (s : State) (k : Nat) (w : Wave) (i : Instr) (mask : Word) (hq : w.queue = [])
   (hr : s.blockRuns w.block = true) (hi : isEret i = false) :
  boundary s k w i mask =
    boundaryEnd w i (settle (ownEffect (s.setWave k (nextStrand w mask)) k (nextStrand w mask) i w.st.pc) k) := by
  refine congrArg (fun t => boundaryEnd w i (settle t k)) ((finishBoundary_empty s k w i mask hq hr 2).trans ?_)
  rw [hi]
  split
  · rfl
  · rw [Bool.and_false]; rfl

theorem noteBusy_wave (s : State) (b k : Nat) : (noteBusy s b).wave k = s.wave k := by
  unfold noteBusy
  split
  · rfl
  · dsimp only
    split_ifs <;> split <;> (try split_ifs) <;> rfl

/-- The end of a block's and a launch's waiting changes nothing else of them. -/
theorem setBlock_still (s : State) (b j : Nat) (x : Block) (h : tget s.blocks b = some x) :
    (tget (s.setBlock b { x with waited := 0 }).blocks j).map Block.still = (tget s.blocks j).map Block.still := by
  show (tget (tset s.blocks b _) j).map _ = _
  rw [tget_tset]
  split_ifs with hj
  · subst hj; rw [h]; rfl
  · rfl

theorem modLaunch_still (s : State) (l j : Nat) :
    (tget (s.modLaunch l fun x => { x with quiet := 0 }).launches j).map Launch.still = (tget s.launches j).map Launch.still := by
  show (tget (tmod s.launches l _) j).map _ = _
  by_cases hj : j = l
  · subst hj; rw [tget_tmod_same]; cases tget s.launches j <;> rfl
  · rw [tget_tmod_ne _ _ _ _ hj]

theorem OnlyWave.setBlock (s0 s : State) (k b : Nat) (x : Block) (hb : tget s.blocks b = some x) (h : OnlyWave k s0 s) :
    OnlyWave k s0 (s.setBlock b { x with waited := 0 }) := by
  obtain ⟨h1, h2, h3, h4, h5, h6, h7, h8, h9, h10, h11, h12, h13, h14, h15, h16, h17, h18⟩ := h
  exact ⟨h1, h2, h3, h4, h5, h6, h7, h8, fun j => (setBlock_still s b j x hb).trans (h9 j), h10, h11, h12, h13, h14, h15, h16, h17, h18⟩

theorem OnlyWave.modLaunch (s0 s : State) (k l : Nat) (h : OnlyWave k s0 s) :
    OnlyWave k s0 (s.modLaunch l fun x => { x with quiet := 0 }) := by
  obtain ⟨h1, h2, h3, h4, h5, h6, h7, h8, h9, h10, h11, h12, h13, h14, h15, h16, h17, h18⟩ := h
  exact ⟨h1, h2, h3, h4, h5, h6, h7, h8, h9, fun j => (modLaunch_still s l j).trans (h10 j), h11, h12, h13, h14, h15, h16, h17, h18⟩

theorem OnlyWave.noteBusy (s0 s : State) (k b : Nat) (h : OnlyWave k s0 s) : OnlyWave k s0 (noteBusy s b) := by
  unfold Machine.noteBusy
  split
  · exact h
  · rename_i x hx
    dsimp only
    have h1 : OnlyWave k s0 (if x.waited = 0 then s else s.setBlock b { x with waited := 0 }) := by
      split_ifs
      · exact h
      · exact h.setBlock _ _ _ _ _ hx
    revert h1
    generalize (if x.waited = 0 then s else s.setBlock b { x with waited := 0 }) = s1
    intro h1
    split
    · exact h1
    · split_ifs
      · exact h1
      · exact h1.modLaunch _ _ _ _

theorem OnlyWave.sampled (s0 s : State) (k d n v : Nat) (h : OnlyWave k s0 s) : OnlyWave k s0 (s.sampled d n v) := by
  cases h; constructor <;> assumption

@[simp] theorem sampled_wave (s : State) (d n v k : Nat) : (s.sampled d n v).wave k = s.wave k := rfl

/-- Whether an instruction ends threads. -/
def endsThreads (i : Instr) : Bool := match i with
  | .exit _ => true
  | .tend _ => true
  | _ => false

/-- The end of a boundary that ends no threads, or of a wave that is not formed from a bin: a sample alone. -/
theorem boundaryEnd_plain (w : Wave) (i : Instr) (s : State) (h : endsThreads i = false ∨ w.isBin = false) :
    boundaryEnd w i s = s.sampled (dieOfCore w.core) 5 w.queue.length := by
  unfold boundaryEnd afterEnd
  split
  · rcases h with h | h
    · cases h
    · simp [tokenAfter, h]
  · rcases h with h | h
    · cases h
    · simp [tokenAfter, h]
  · rfl

/-- A lit wave that is no victim stays as it is: only its block's and launch's waiting may end. -/
theorem settle_lit (s0 s : State) (k : Nat) (w : Wave) (h : s.wave k = some w) (hl : w.lit = true) (hv : w.victim = false)
    (ho : OnlyWave k s0 s) : (settle s k).wave k = some w ∧ OnlyWave k s0 (settle s k) := by
  unfold settle
  simp only [h, hl, hv]
  split_ifs
  · exact ⟨h, ho⟩
  · contradiction
  · contradiction
  · exact ⟨(noteBusy_wave _ _ _).trans h, ho.noteBusy _ _ _ _⟩

/-- Step 1 of a boundary, register by register. -/
theorem newHead_bank (near : Tab Lanes) (m : Word) (n : Nat) (b : Tab Lanes) (i : Nat) :
  tget ((List.range n).foldl (fun b i => if bit m i then tset b i ((tget near i).getD []) else b) b) i =
   if i < n ∧ bit m i = true then some ((tget near i).getD []) else tget b i := by
  induction n with
  | zero => simp
  | succ n ih =>
    rw [List.range_succ, List.foldl_append]
    simp only [List.foldl_cons, List.foldl_nil]
    by_cases hb : bit m n = true
    · simp only [hb, if_true]
      by_cases hin : i = n
      · subst hin; rw [tget_tset_same]; simp [hb]
      · rw [tget_tset_ne _ _ _ _ hin, ih]
        have : i < n + 1 ↔ i < n := by omega
        simp [this]
    · simp only [hb]
      rw [if_neg (by simp), ih]
      by_cases hin : i = n
      · subst hin; simp [hb]
      · have : i < n + 1 ↔ i < n := by omega
        simp [this]

/-- What a boundary with an empty queue leaves (R175, R176). -/
theorem nextStrand_after (w : Wave) (mask : Word) (h : w.st.pl1 = true → mask = 0) : AfterBoundary mask w (nextStrand w mask) ∧ (nextStrand w mask).st = w.nextHead mask ∧ (nextStrand w mask).head = (nextStrand w mask).st := by
  have hm : (if w.st.pl1 = true then 0 else mask) = mask := by
    split_ifs with h1
    · exact (h h1).symm
    · rfl
  refine ⟨?_, ?_, ?_⟩
  · constructor
    · intro i
      simp only [nextStrand, Wave.afterBoundary, Wave.newHead]
      rw [newHead_bank, hm]
    · intro i l
      simp only [nextStrand, Wave.afterBoundary, Wave.newHead, hm, List.mem_filter]
    · rfl
    · rfl
    · exact ⟨rfl, rfl, rfl, rfl⟩
    · rfl
    · exact ⟨rfl, rfl, rfl, rfl, rfl⟩
  · simp only [nextStrand, Wave.afterBoundary, Wave.newHead, hm]; rfl
  · rfl

/-- The same where the boundary keeps SVM. -/
theorem nextStrand_kept (w : Wave) : AfterBoundary w.keptMask w (nextStrand w w.st.svm) ∧ (nextStrand w w.st.svm).st = w.nextHead w.keptMask ∧ (nextStrand w w.st.svm).head = (nextStrand w w.st.svm).st := by
  have : nextStrand w w.st.svm = nextStrand w w.keptMask := by
    unfold nextStrand Wave.newHead Wave.keptMask; split_ifs <;> rfl
  rw [this]
  exact nextStrand_after w _ (by intro h; simp [Wave.keptMask, h])

/-- Delivery of a trap to the handler (R366, R368). -/
theorem deliver_atHandler (s : State) (k : Nat) (w : Wave) (t : Trap) : ∃ w', deliver s k w t = s.setWave k w' ∧
   AtHandler (handlerEntry s w) w.head w w' t.cause t.sub t.whn t.thr t.epc t.eres (decide (w.residual ≠ [])) w.be.isSome ∧
   w'.bank = w.bank ∧ w'.lit = w.lit ∧ w'.victim = w.victim ∧ w'.eaddr = t.eaddr := by
  refine ⟨_, rfl, ?_, rfl, rfl, rfl, rfl⟩
  have hc := causeWord_fields t (decide (w.residual ≠ [])) w.be.isSome
  constructor <;> first | rfl | (exact ⟨rfl, rfl⟩) | (intros; rfl) | (exact ⟨rfl, rfl, rfl⟩)| (exact ⟨rfl, rfl, rfl,rfl⟩) | skip
  exact hc
/-- A boundary with an empty queue whose own effect is none. -/
theorem boundary_nothing (i : Instr) (k : Nat) (w : Wave) (s : State) (h : Ready i k w s) (hq : w.queue = []) (hv : w.victim = false) 
  (hi : isEret i = false) (hd : endsThreads i = false) (he : exec i s = .next (boundary s k w i w.st.svm))
  (ho : ownEffect (s.setWave k (nextStrand w w.st.svm)) k (nextStrand w w.st.svm) i w.st.pc = s.setWave k (nextStrand w w.st.svm)) :
      ∃ t w', exec i s = .next t ∧ t.wave k = some w' ∧ OnlyWave k s t ∧ AfterBoundary w.keptMask w w' ∧
        w'.st = w.nextHead w.keptMask ∧ w'.head = w'.st := by
  obtain ⟨ha, hs, hh⟩ := nextStrand_kept w
  obtain ⟨h1, h2⟩ := settle_lit s (s.setWave k (nextStrand w w.st.svm)) k (nextStrand w w.st.svm) (setWave_wave_same _ _ _) h.lit hv
    (OnlyWave.set _ _ _ _ (onlyWave_refl _ _))
  refine ⟨_, nextStrand w w.st.svm, ?_, (sampled_wave _ _ _ _ _).trans h1, h2.sampled _ _ _ (dieOfCore w.core) 5 w.queue.length, ha, hs, hh⟩
  rw [he, boundary_empty _ _ _ _ _ hq h.runs hi, ho, boundaryEnd_plain _ _ _ (.inl hd)]

end Sys2Proof.Machine
end

