-- ==== Sys2Proof/Laws/Parts.lean ====
section
/-! SUPPORT. Reading a core, a side, a quad or a die after it or another one was set; folds, sorted lists, fresh keys. -/
namespace Sys2Proof.Machine

theorem core_setCore (s : State) (c j : Nat) (x : Core) : (s.setCore c x).core j = if j = c then x else s.core j := by
  unfold State.setCore State.core; simp only [tget_tset]; split_ifs <;> rfl

theorem side_setSide (s : State) (c j : Nat) (x : Side) : (s.setSide c x).side j = if j = c then x else s.side j := by
  unfold State.setSide State.side; simp only [tget_tset]; split_ifs <;> rfl

theorem quad_setQuad (s : State) (c j : Nat) (x : Quad) : (s.setQuad c x).quad j = if j = c then x else s.quad j := by
  unfold State.setQuad State.quad; simp only [tget_tset]; split_ifs <;> rfl

theorem die_setDie (s : State) (c j : Nat) (x : Die) : (s.setDie c x).die j = if j = c then x else s.die j := by
  unfold State.setDie State.die; simp only [tget_tset]; split_ifs <;> rfl

@[simp] theorem setSide_core (s : State) (c j : Nat) (x : Side) : (s.setSide c x).core j = s.core j := rfl
@[simp] theorem setDie_core (s : State) (c j : Nat) (x : Die) : (s.setDie c x).core j = s.core j := rfl
@[simp] theorem setQuad_core (s : State) (c j : Nat) (x : Quad) : (s.setQuad c x).core j = s.core j := rfl
@[simp] theorem setWave_core (s : State) (c j : Nat) (x : Wave) : (s.setWave c x).core j = s.core j := rfl
@[simp] theorem modWave_core (s : State) (c j : Nat) (f : Wave → Wave) : (s.modWave c f).core j = s.core j := rfl

theorem modWave_wave (s : State) (k j : Nat) (f : Wave → Wave) : (s.modWave k f).wave j = if j = k then (s.wave k).map f else s.wave j := by
  by_cases h : j = k
  · subst h; rw [if_pos rfl]; exact tget_tmod_same _ _ _
  · rw [if_neg h]; exact tget_tmod_ne _ _ _ _ h

/-- A property that every step of a fold keeps. -/
theorem foldl_keeps {α β : Type} (P : α → Prop) (g : α → β → α) (l : List β) (hg : ∀ a b, b ∈ l → P a → P (g a b)) (a : α) (h : P a) :
    P (l.foldl g a) := by
  induction l generalizing a with
  | nil => exact h
  | cons x l ih => exact ih (fun a b hb => hg a b (List.mem_cons_of_mem _ hb)) _ (hg a x List.mem_cons_self h)

theorem tget_tmap {α : Type} (t : Tab α) (f : α → α) (k : Nat) : tget (tmap t f) k = (tget t k).map f := by
  induction t with
  | nil => rfl
  | cons e t ih =>
    obtain ⟨a, v⟩ := e
    show tget ((a, f v) :: tmap t f) k = _
    unfold tget
    split_ifs
    · rfl
    · rfl
    · exact ih

theorem mem_insertBy {α : Type} (r : α → α → Bool) (a : α) (l : List α) (x : α) : x ∈ insertBy r a l ↔ x = a ∨ x ∈ l := by
  induction l with
  | nil => simp [insertBy]
  | cons b l ih =>
    unfold insertBy
    split
    · simp
    · simp only [List.mem_cons, ih]; tauto

/-- Sorting keeps the members. -/
theorem mem_sortBy {α : Type} (r : α → α → Bool) (l : List α) (x : α) : x ∈ sortBy r l ↔ x ∈ l := by
  unfold sortBy
  induction l with
  | nil => simp
  | cons b l ih => simp only [List.foldr_cons, mem_insertBy, ih, List.mem_cons]

theorem le_tfresh {α : Type} (t : Tab α) (n : Nat) : n ≤ t.foldl (fun n e => max n (e.1 + 1)) n ∧
    ∀ e ∈ t, e.1 < t.foldl (fun n e => max n (e.1 + 1)) n := by
  induction t generalizing n with
  | nil => simp
  | cons e t ih =>
    obtain ⟨h1, h2⟩ := ih (max n (e.1 + 1))
    refine ⟨le_trans (le_max_left _ _) h1, ?_⟩
    intro x hx
    rcases List.mem_cons.1 hx with rfl | hx
    · exact lt_of_lt_of_le (Nat.lt_of_lt_of_le (Nat.lt_succ_self _) (le_max_right _ _)) h1
    · exact h2 x hx

theorem tget_mem {α : Type} (t : Tab α) (k : Nat) (v : α) (h : tget t k = some v) : (k, v) ∈ t := by
  induction t with
  | nil => simp at h
  | cons e t ih =>
    obtain ⟨a, u⟩ := e
    unfold tget at h
    split_ifs at h with h1 h2
    · cases h; rw [← h1]; exact List.mem_cons_self
    · exact List.mem_cons_of_mem _ (ih h)

/-- A fresh key has no entry. -/
theorem tget_tfresh {α : Type} (t : Tab α) : tget t (tfresh t) = none := by
  cases h : tget t (tfresh t) with
  | none => rfl
  | some v => exact absurd ((le_tfresh t 0).2 _ (tget_mem _ _ _ h)) (lt_irrefl _)

end Sys2Proof.Machine
end

