-- ==== Sys2Proof/Laws/Registers.lean ====
section
/-! SUPPORT. Writing registers: what a masked write, a unit and a block of units reach and hold afterwards. -/
namespace Sys2Proof.Machine

/-- One lane of a register after a masked write. -/
theorem mergeLanes_get (o : Option Lanes) (act : Word) (v : Nat → Word) (t : Nat) (h : t < 32) :
    ((mergeLanes o act v)[t]?).join = if bit act t then some (v t) else (o.bind fun l => (l[t]?).join) := by
  unfold mergeLanes
  simp only [List.getElem?_map, List.getElem?_range h, Option.map_some, Option.join_some]
  cases o <;> simp

/-- The register that a masked write names. -/
theorem setReg_lane_same (w : Wave) (lvl i : Nat) (act : Word) (v : Nat → Word) (t : Nat) (h : t < 32) :
    (w.setReg lvl i act v).lane lvl i t = if bit act t then some (v t) else w.lane lvl i t := by
  unfold Wave.lane Wave.setReg Wave.file
  split <;> simp only [tget_tset_same, Option.bind_some, mergeLanes_get _ _ _ _ h]

/-- Every other register after a masked write. -/
theorem setReg_lane_ne (w : Wave) (lvl i lvl' j : Nat) (act : Word) (v : Nat → Word) (t : Nat) (hl : lvl < 3) (hl' : lvl' < 3)
    (h : (lvl', j) ≠ (lvl, i)) : (w.setReg lvl i act v).lane lvl' j t = w.lane lvl' j t := by
  have h3 : lvl = 0 ∨ lvl = 1 ∨ lvl = 2 := by omega
  have h3' : lvl' = 0 ∨ lvl' = 1 ∨ lvl' = 2 := by omega
  unfold Wave.lane Wave.setReg Wave.file
  rcases h3 with rfl|rfl|rfl <;> rcases h3' with rfl|rfl|rfl <;> simp only [] <;> try rfl
  all_goals rw [tget_tset_ne]; simpa using h

/-- A masked write touches the register files alone. -/
theorem setReg_rest (w : Wave) (lvl i : Nat) (act : Word) (v : Nat → Word) :
    ∃ n k f, w.setReg lvl i act v = { w with near := n, wick := k, far := f } := by
  unfold Wave.setReg
  split <;> exact ⟨_, _, _, rfl⟩

/-- Only registers of a list have changed, in the threads of a mask. -/
structure Wrote (dsts : List RegRef) (act : Word) (w w' : Wave) : Prop where
  rest : w' = { w with near := w'.near, wick := w'.wick, far := w'.far }
  other : ∀ lvl i t, lvl < 3 → (lvl, i) ∉ dsts → w'.lane lvl i t = w.lane lvl i t
  lanes : ∀ lvl i t, lvl < 3 → t < 32 → bit act t = false → w'.lane lvl i t = w.lane lvl i t

theorem Wrote.refl (dsts act w) : Wrote dsts act w w := ⟨rfl, fun _ _ _ _ _ => rfl, fun _ _ _ _ _ _ => rfl⟩
theorem Wrote.trans {dsts act a b c} (h : Wrote dsts act a b) (g : Wrote dsts act b c) : Wrote dsts act a c := by
  refine ⟨?_, fun l i t hl hn => (g.other l i t hl hn).trans (h.other l i t hl hn), fun l i t hl ht hb => (g.lanes l i t hl ht hb).trans (h.lanes l i t hl ht hb)⟩
  rw [g.rest, h.rest]
theorem Wrote.setReg {dsts act} (w : Wave) (lvl i : Nat) (v) (hl : lvl < 3) (hm : (lvl, i) ∈ dsts) : Wrote dsts act w (w.setReg lvl i act v) := by
  refine ⟨?_, ?_, ?_⟩
  · obtain ⟨n, k, f, h⟩ := setReg_rest w lvl i act v
    rw [h]
  · intro l j t hl' hn
    apply setReg_lane_ne _ _ _ _ _ _ _ _ hl hl'
    rintro h; rw [h] at hn; exact hn hm
  · intro l j t hl' ht hb
    by_cases h : (l, j) = (lvl, i)
    · simp only [Prod.mk.injEq] at h
      rw [h.1, h.2, setReg_lane_same _ _ _ _ _ _ ht, hb]; rfl
    · exact setReg_lane_ne _ _ _ _ _ _ _ _ hl hl' h
theorem Wrote.mono {d1 d2 act w w'} (h : Wrote d1 act w w') (hs : ∀ x ∈ d1, x ∈ d2) : Wrote d2 act w w' :=
  ⟨h.rest, fun l i t hl hn => h.other l i t hl (fun hh => hn (hs _ hh)), h.lanes⟩

/-- Writes one after another, each within the list. -/
theorem foldl_wrote {β : Type} {dsts act} (l : List β) (g : Wave → β → Wave) (hg : ∀ w b, b ∈ l → Wrote dsts act w (g w b)) (w : Wave) :
   Wrote dsts act w (l.foldl g w) := by
  induction l generalizing w with
  | nil => exact Wrote.refl _ _ _
  | cons x l ih =>
    exact (hg w x (by simp)).trans (ih (fun w b hb => hg w b (by simp [hb])) _)

/-- One unit of a destination block: what the write reaches (R190). -/
theorem writeUnit_wrote (w : Wave) (fmt : Nat) (d : Dst) (off : Nat) (act : Word) (v : Nat → DWord) (hl : d.lvl.toNat < 3) :
   Wrote ((d.lvl.toNat, d.idx.toNat + off) :: if fmt = 1 then [(d.lvl.toNat, d.idx.toNat + off + 1)] else []) act w (w.writeUnit fmt d off act v) := by
  unfold Wave.writeUnit
  dsimp only
  split_ifs with h
  · refine (Wrote.setReg _ _ _ _ hl ?_).trans (Wrote.setReg _ _ _ _ hl ?_) <;> simp
  · exact Wrote.setReg _ _ _ _ hl (by simp)

/-- The first register of a unit that was written. -/
theorem writeUnit_lo (w : Wave) (fmt : Nat) (d : Dst) (off : Nat) (act : Word) (v : Nat → DWord) (hl : d.lvl.toNat < 3) (t) (ht : t < 32) (hb : bit act t = true) :
   (w.writeUnit fmt d off act v).lane d.lvl.toNat (d.idx.toNat + off) t = some ((v t).truncate 32) := by
  unfold Wave.writeUnit
  dsimp only
  split_ifs with h
  · rw [setReg_lane_ne _ _ _ _ _ _ _ _ hl hl (by simp), setReg_lane_same _ _ _ _ _ _ ht, hb]; rfl
  · rw [setReg_lane_same _ _ _ _ _ _ ht, hb]; rfl
/-- The second register of a 64-bit unit that was written (R190). -/
theorem writeUnit_hi (w : Wave) (d : Dst) (off : Nat) (act : Word) (v : Nat → DWord) (t) (ht : t < 32) (hb : bit act t = true) :
   (w.writeUnit 1 d off act v).lane d.lvl.toNat (d.idx.toNat + off + 1) t = some (((v t) >>> 32).truncate 32) := by
  unfold Wave.writeUnit
  dsimp only
  rw [if_pos rfl, setReg_lane_same _ _ _ _ _ _ ht, hb]; rfl

/-- The registers of a unit. -/
def unitRefs (fmt : Nat) (d : Dst) (off : Nat) : List RegRef := (d.lvl.toNat, d.idx.toNat + off) :: if fmt = 1 then [(d.lvl.toNat, d.idx.toNat + off + 1)] else []

/-- All the units of a block: what the writes reach. -/
theorem units_wrote (fmt : Nat) (d : Dst) (act : Word) (v : Nat → Nat → DWord) (hl : d.lvl.toNat < 3) (l : List Nat) (dsts)
   (hd : ∀ off ∈ l, ∀ x ∈ unitRefs fmt d off, x ∈ dsts) (w : Wave) :
   Wrote dsts act w (l.foldl (fun w off => w.writeUnit fmt d off act (fun t => v t off)) w) := by
  apply foldl_wrote
  intro w off hm
  exact (writeUnit_wrote w fmt d off act _ hl).mono (hd off hm)

/-- Each unit of a block that was written holds its own value. -/
theorem units_val (fmt : Nat) (d : Dst) (act : Word) (v : Nat → Nat → DWord) (hl : d.lvl.toNat < 3) (l : List Nat)
   (hp : l.Pairwise fun a b => ∀ x ∈ unitRefs fmt d a, x ∉ unitRefs fmt d b) (w : Wave) (off n : Nat) (hm : off ∈ l) (hn : n < 32) (hb : bit act n = true) :
   let w' := l.foldl (fun w off => w.writeUnit fmt d off act (fun t => v t off)) w
   w'.lane d.lvl.toNat (d.idx.toNat + off) n = some ((v n off).truncate 32) ∧
   (fmt = 1 → w'.lane d.lvl.toNat (d.idx.toNat + off + 1) n = some (((v n off) >>> 32).truncate 32)) := by
  induction l generalizing w with
  | nil => simp at hm
  | cons a l ih =>
    rw [List.pairwise_cons] at hp
    dsimp only [List.foldl_cons]
    rcases List.mem_cons.1 hm with rfl | hm'
    · have hr := units_wrote fmt d act v hl l (l.flatMap (unitRefs fmt d)) (fun o ho x hx => List.mem_flatMap.2 ⟨o, ho, hx⟩) (w.writeUnit fmt d off act (fun t => v t off))
      have hno : ∀ x ∈ unitRefs fmt d off, x ∉ l.flatMap (unitRefs fmt d) := by
        intro x hx hh
        obtain ⟨o, ho, hxo⟩ := List.mem_flatMap.1 hh
        exact hp.1 o ho x hx hxo
      constructor
      · rw [hr.other _ _ _ hl (hno _ (by simp [unitRefs]))]
        exact writeUnit_lo _ _ _ _ _ _ hl _ hn hb
      · rintro rfl
        rw [hr.other _ _ _ hl (hno _ (by simp [unitRefs]))]
        exact writeUnit_hi _ _ _ _ _ _ hn hb
    · exact ih hp.2 _ hm'

/-- Flags raised after writes that reach registers alone (R239). -/
theorem raise_kept (w w' : Wave) (dsts act fl) (hw : Wrote dsts act w w') : 
   (w'.raise fl) = { w with
    near := w'.near, wick := w'.wick, far := w'.far, queue := w.queue.map (QEntry.later fl)
    st := { w.st with fpstat := w.st.fpstat ||| fl } } := by
  rw [hw.rest]; rfl

/-- The values and the flags of a block, apart. -/
theorem elementwise_fold (w : Wave) (fmt : Nat) (d : Dst) (act : Word) (val : Nat → Nat → DWord × FFlags) (l : List Nat) (a : FFlags):
   l.foldl (fun acc off =>
      (acc.1.writeUnit fmt d off act (fun t => (val t off).1), acc.2 ||| joinFlags act (fun t => (val t off).2))) (w, a) =
   (l.foldl (fun w off => w.writeUnit fmt d off act (fun t => (val t off).1)) w, l.foldl (fun a off => a ||| joinFlags act fun t => (val t off).2) a) := by
  induction l generalizing w a with
  | nil => rfl
  | cons x l ih => simp only [List.foldl_cons]; exact ih _ _

/-- The units of a block share no register. -/
theorem unitOffs_pair (fmt : Nat) (d : Dst) : (unitOffs fmt d).Pairwise fun a b => ∀ x ∈ unitRefs fmt d a, x ∉ unitRefs fmt d b := by
  have hr : d.rows.toNat < 4 := d.rows.isLt
  have hc : d.cols.toNat < 4 := d.cols.isLt
  unfold unitOffs
  split_ifs with h
  · subst h
    have : ((List.range (d.rows.toNat + 1)).flatMap fun r => (List.range ((d.cols.toNat + 1) / 2)).map fun m => 4 * r + 2 * m).Pairwise fun a b => a + 1 < b := by
      generalize d.rows.toNat = r at *; generalize d.cols.toNat = c at *
      have h1 : r = 0 ∨ r = 1 ∨ r = 2 ∨ r = 3 := by omega
      have h2 : c = 0 ∨ c = 1 ∨ c = 2 ∨ c = 3 := by omega
      rcases h1 with rfl|rfl|rfl|rfl <;> rcases h2 with rfl|rfl|rfl|rfl <;> decide
    refine this.imp ?_
    intro a b hab x hx hx2
    simp [unitRefs] at hx hx2
    rcases hx with rfl|rfl <;> rcases hx2 with h|h <;> simp at h <;> omega
  · have : (blockOffs d).Pairwise fun a b => a < b := by
      unfold blockOffs
      generalize d.rows.toNat = r at *; generalize d.cols.toNat = c at *
      have h1 : r = 0 ∨ r = 1 ∨ r = 2 ∨ r = 3 := by omega
      have h2 : c = 0 ∨ c = 1 ∨ c = 2 ∨ c = 3 := by omega
      rcases h1 with rfl|rfl|rfl|rfl <;> rcases h2 with rfl|rfl|rfl|rfl <;> decide
    refine this.imp ?_
    intro a b hab x hx hx2
    simp [unitRefs, h] at hx hx2
    subst hx; simp at hx2; omega

end Sys2Proof.Machine
end

