-- ==== Sys2Proof/Tests/Slice0.lean ====
section
/-! SUPPORT. Tests: ill-formed words refused, words of the spec decoded, every instruction ready to issue somewhere, a witness for the
hypotheses of every statement, and worked values of the spec. -/
namespace Sys2Proof.Tests
set_option Elab.async false
open Sys2Proof Sys2Proof.Machine

/-! Well-formedness: one ill-formed instruction for each check, with the sub-cause of R65 that refuses it. -/

/-- A decoded instruction and the sub-cause that refuses it in the widest wave at PL 0. -/
def refusedBy (n : Nat) (i : Instr) : Bool := !WellFormed i && decide (illegalSub 240 false i = some n)

/-- Reserved opcodes, fields and bits (R42, R48, R49, R54, R57, R64, R174, R194, R195, R197, R221, R264). -/
theorem test_wellformed_reserved :
    refusedBy 1 (.unassignedOpcode 0) = true ∧
    ([.nop ⟨⟨false, false, 0⟩, 1, ⟨0, 0, 0, 0⟩, 0, 0⟩, .nop ⟨⟨true, false, 0⟩, 0, ⟨0, 0, 0, 0⟩, 0, 0⟩,
      .bra ⟨⟨false, false, 1⟩, 0, ⟨0, 0, 0, 0⟩, 0, 0⟩, .brc ⟨⟨false, false, 0⟩, 0, ⟨0, 0, 0, 0⟩, 0x1000000, 0⟩,
      .call ⟨⟨false, false, 0⟩, 1, ⟨3, 0, 0, 0⟩, 0, 1⟩, .strand ⟨⟨false, true, 0⟩, 0, ⟨0, 0, 0, 0⟩, 0, 0⟩,
      .mov ⟨⟨false, false, 0⟩, ⟨0, 0, 0, 0⟩, ⟨0, 0, 0, 0⟩, ⟨0, 1, 0, 0⟩, ⟨0, 0, 0, 0⟩, 0, 0, 0⟩,
      .iadd ⟨⟨false, false, 0⟩, ⟨0, 0, 0, 0⟩, ⟨0, 0, 0, 0⟩, ⟨0, 0, 0, 0⟩, ⟨0, 0, 0, 0⟩, 2, 0, 0⟩,
      .iadd ⟨⟨false, false, 0⟩, ⟨0, 0, 0, 0⟩, ⟨0, 0, 0, 0⟩, ⟨0, 0, 0, 0⟩, ⟨0, 0, 0, 0⟩, 0, 1, 0⟩,
      .bfx ⟨⟨false, false, 0⟩, ⟨0, 0, 0, 0⟩, ⟨0, 0, 0, 0⟩, ⟨0, 0, 0, 0⟩, ⟨0, 0, 0, 0⟩, 3, 0, 0⟩,
      .faddI ⟨⟨false, false, 0⟩, ⟨0, 0, 0, 0⟩, ⟨0, 0, 0, 0⟩, 0x10000, 0, 0, 0, 2⟩,
      .movI ⟨⟨false, false, 0⟩, ⟨0, 0, 0, 0⟩, ⟨0, 0, 0, 0⟩, 0, 1, 0, 0, 0⟩,
      .pand ⟨⟨false, false, 0⟩, ⟨0, 1, 0, 1⟩, ⟨0, 1, 0, 0⟩, ⟨0, 1, 0, 0⟩, ⟨0, 0, 0, 0⟩, 0, 0, 0⟩,
      .trap ⟨⟨false, false, 0⟩, ⟨0, 1, 0, 0⟩, ⟨0, 0, 0, 0⟩, ⟨0, 0, 0, 0⟩, 0, 0, 0⟩,
      .dtok ⟨⟨false, false, 0⟩, ⟨0, 0, 0, 0⟩, ⟨0, 0, 0, 0⟩, ⟨0, 0, 0, 0⟩, 0, 1, false, 0⟩,
      .ld ⟨⟨false, false, 0⟩, ⟨0, 0, 0, 0⟩, ⟨3, 0, 0, 0⟩, ⟨0, 0, 0, 0⟩, 0, 1, false, 64⟩,
      .red ⟨⟨false, false, 0⟩, ⟨0, 0, 0, 0⟩, ⟨3, 0, 0, 0⟩, ⟨0, 0, 0, 0⟩, 1, 0, false, 0⟩,
      .tend ⟨⟨false, false, 0⟩, ⟨0, 0, 0, 0⟩, ⟨0, 0, 0, 0⟩, ⟨0, 0, 0, 0⟩, 1, 0, 0, 0, 0⟩,
      .mzero ⟨⟨false, false, 1⟩, 0, ⟨0, 0, 0, 0⟩, ⟨0, 0, 0, 0⟩, false, false, false, 0, 0, 0, 0, 0, 0, 0⟩,
      .mbeg ⟨⟨false, false, 0⟩, 0, ⟨0, 0, 0, 0⟩, ⟨0, 0, 0, 0⟩, false, false, false, 0, 0, 0, 0, 0, 0, 1⟩] : List Instr).all (refusedBy 2)
      = true := by decide +kernel

/-- Formats, patterns, modes and sizes that an entry does not list (R46, R47, R53, R65, R129, R190, R210, R213, R298, R375). -/
theorem test_wellformed_modes :
    ([.mov ⟨⟨false, false, 0⟩, ⟨0, 0, 0, 0⟩, ⟨0, 0, 6, 0⟩, ⟨0, 0, 0, 0⟩, ⟨0, 0, 0, 0⟩, 0, 0, 0⟩,
      .mov ⟨⟨false, false, 0⟩, ⟨0, 0, 0, 0⟩, ⟨3, 0, 1, 0⟩, ⟨0, 0, 0, 0⟩, ⟨0, 0, 0, 0⟩, 0, 0, 0⟩,
      .imul ⟨⟨false, false, 0⟩, ⟨0, 0, 0, 0⟩, ⟨0, 0, 0, 0⟩, ⟨0, 0, 0, 0⟩, ⟨0, 0, 0, 0⟩, 0, 0, 1⟩,
      .iset ⟨⟨false, false, 0⟩, ⟨0, 1, 0, 0⟩, ⟨0, 0, 0, 0⟩, ⟨0, 0, 0, 0⟩, ⟨0, 0, 0, 0⟩, 0, 0, 2⟩,
      .pand ⟨⟨false, false, 0⟩, ⟨1, 1, 0, 0⟩, ⟨0, 1, 0, 0⟩, ⟨0, 1, 0, 0⟩, ⟨0, 0, 0, 0⟩, 0, 0, 0⟩,
      .cvt ⟨⟨false, false, 0⟩, ⟨0, 0, 0, 0⟩, ⟨0, 0, 0, 0⟩, ⟨0, 0, 0, 0⟩, ⟨3, 0, 0, 0⟩, 0, 0, 0⟩,
      .bpk ⟨⟨false, false, 0⟩, ⟨1, 0, 0, 3⟩, ⟨1, 0, 0, 0⟩, ⟨0, 0, 0, 0⟩, ⟨0, 0, 0, 0⟩, 7, 0, 0⟩,
      .ld ⟨⟨false, false, 0⟩, ⟨0, 0, 0, 0⟩, ⟨3, 0, 0, 0⟩, ⟨0, 0, 0, 0⟩, 0, 0, false, 96⟩,
      .tld ⟨⟨false, false, 0⟩, ⟨0, 0, 0, 0⟩, ⟨0, 0, 0, 0⟩, ⟨0, 0, 0, 0⟩, 0, 0, 2, 0, 0⟩,
      .spawn ⟨⟨false, false, 0⟩, ⟨0, 0, 0, 0⟩, ⟨3, 0, 0, 0⟩, ⟨1, 0, 0, 0⟩, 0, 0, 0, 0, 13⟩,
      .mma ⟨⟨false, false, 0⟩, 0, ⟨1, 0, 0, 0⟩, ⟨1, 8, 0, 0⟩, false, false, false, 0, 0, 1, 0, 0, 0, 0⟩,
      .atom ⟨⟨false, false, 0⟩, ⟨0, 0, 0, 0⟩, ⟨3, 0, 0, 0⟩, ⟨0, 0, 0, 0⟩, 0, 0, true, 0⟩,
      .fence ⟨⟨false, false, 0⟩, ⟨0, 0, 0, 0⟩, ⟨0, 0, 0, 0⟩, ⟨0, 0, 0, 0⟩, 0, 0, false, 3⟩,
      .lumq ⟨⟨false, false, 0⟩, ⟨3, 0, 0, 0⟩, ⟨0, 0, 0, 0⟩, ⟨0, 0, 0, 0⟩, 0, 0, 5⟩,
      .eret ⟨⟨false, false, 0⟩, ⟨0, 0, 0, 0⟩, ⟨0, 0, 0, 0⟩, ⟨0, 0, 0, 0⟩, 0, 0, 3⟩] : List Instr).all (refusedBy 3) = true := by
  decide +kernel

/-- Operands at a level or an index that the entry does not admit (R45, R54, R57, R121, R122, R187), and blocks that run over the
end of their file (R46). -/
theorem test_wellformed_operands :
    ([.mov ⟨⟨false, false, 0⟩, ⟨0, 8, 0, 0⟩, ⟨0, 0, 0, 0⟩, ⟨0, 0, 0, 0⟩, ⟨0, 0, 0, 0⟩, 0, 0, 0⟩,
      .mov ⟨⟨false, false, 0⟩, ⟨2, 240, 0, 0⟩, ⟨0, 0, 0, 0⟩, ⟨0, 0, 0, 0⟩, ⟨0, 0, 0, 0⟩, 0, 0, 0⟩,
      .mov ⟨⟨false, false, 0⟩, ⟨3, 0, 0, 0⟩, ⟨0, 0, 0, 0⟩, ⟨0, 0, 0, 0⟩, ⟨0, 0, 0, 0⟩, 0, 0, 0⟩,
      .iadd ⟨⟨false, false, 0⟩, ⟨0, 0, 0, 0⟩, ⟨3, 192, 0, 0⟩, ⟨0, 0, 0, 0⟩, ⟨0, 0, 0, 0⟩, 0, 0, 0⟩,
      .iadd ⟨⟨true, false, 0⟩, ⟨3, 0, 0, 0⟩, ⟨1, 0, 0, 0⟩, ⟨3, 0, 0, 0⟩, ⟨0, 0, 0, 0⟩, 0, 0, 0⟩,
      .pand ⟨⟨false, false, 0⟩, ⟨0, 0, 0, 0⟩, ⟨0, 1, 0, 0⟩, ⟨0, 1, 0, 0⟩, ⟨0, 0, 0, 0⟩, 0, 0, 0⟩,
      .bri ⟨⟨false, false, 0⟩, 0, ⟨1, 0, 0, 0⟩, 0, 0⟩, .srd ⟨⟨false, false, 0⟩, ⟨1, 0, 0, 0⟩, ⟨0, 0, 0, 0⟩, ⟨0, 0, 0, 0⟩, 0x20, 0, 0⟩,
      .rseed ⟨⟨false, false, 0⟩, ⟨0, 0, 0, 0⟩, ⟨1, 0, 0, 0⟩, ⟨0, 0, 0, 0⟩, ⟨0, 0, 0, 0⟩, 0, 0, 0⟩,
      .mrd ⟨⟨false, false, 0⟩, 0, ⟨3, 0, 0, 0⟩, ⟨0, 0, 0, 0⟩, false, false, false, 0, 0, 0, 0, 0, 0, 0⟩] : List Instr).all (refusedBy 4)
      = true ∧
    ([.mov ⟨⟨false, false, 0⟩, ⟨1, 31, 0, 1⟩, ⟨0, 0, 0, 0⟩, ⟨0, 0, 0, 0⟩, ⟨0, 0, 0, 0⟩, 0, 0, 0⟩,
      .iadd ⟨⟨false, false, 0⟩, ⟨2, 0, 0, 1⟩, ⟨0, 7, 0, 0⟩, ⟨0, 0, 0, 0⟩, ⟨0, 0, 0, 0⟩, 0, 0, 0⟩,
      .mov ⟨⟨true, false, 0⟩, ⟨3, 0, 0, 1⟩, ⟨3, 0, 0, 0⟩, ⟨0, 0, 0, 0⟩, ⟨0, 0, 0, 0⟩, 0, 0, 0⟩,
      .bulk ⟨⟨false, false, 0⟩, ⟨3, 59, 0, 0⟩, ⟨3, 0, 0, 0⟩, ⟨3, 0, 0, 0⟩, 0, 5, 0, 0, 0⟩,
      .mma ⟨⟨false, false, 0⟩, 0, ⟨1, 25, 0, 0⟩, ⟨1, 8, 0, 0⟩, false, false, false, 0, 0, 0, 0, 0, 0, 0⟩,
      .mrd ⟨⟨false, false, 0⟩, 0, ⟨1, 25, 0, 0⟩, ⟨0, 0, 0, 0⟩, false, false, false, 0, 0, 0, 0, 0, 0, 0⟩] : List Instr).all (refusedBy 5)
      = true := by decide +kernel

/-- The same words with the offending field mended are well formed. -/
theorem test_wellformed_good :
    ([.mov ⟨⟨false, false, 0⟩, ⟨1, 31, 0, 0⟩, ⟨0, 7, 0, 0⟩, ⟨0, 0, 0, 0⟩, ⟨0, 0, 0, 0⟩, 0, 0, 0⟩,
      .mov ⟨⟨false, false, 0⟩, ⟨2, 239, 0, 0⟩, ⟨3, 191, 0, 0⟩, ⟨0, 0, 0, 0⟩, ⟨0, 0, 0, 0⟩, 0, 0, 3⟩,
      .mma ⟨⟨false, false, 0⟩, 0, ⟨1, 24, 0, 0⟩, ⟨1, 8, 0, 0⟩, false, false, false, 0, 0, 0, 0, 0, 0, 0⟩,
      .bulk ⟨⟨false, false, 0⟩, ⟨3, 58, 0, 0⟩, ⟨3, 0, 0, 0⟩, ⟨3, 62, 0, 0⟩, 0, 5, 0, 0, 0⟩] : List Instr).all WellFormed = true := by
  decide +kernel

/-! Words of the spec. -/

/-- NOP (R62), `strand 0x0000_0030` (R65), BRC (R223). -/
theorem test_decode_control :
    decode 0x004000000000000000000000#96 = .nop ⟨⟨false, false, 0⟩, 0, ⟨0, 0, 0, 0⟩, 0, 0⟩ ∧
    decode 0x024000000000000000000600#96 = .strand ⟨⟨false, false, 0⟩, 0, ⟨0, 0, 0, 0⟩, 48, 0⟩ ∧
    decode 0x00C200000600000000000080#96 = .brc ⟨⟨false, false, 1⟩, 3, ⟨0, 0, 0, 0⟩, 4, 0⟩ := by decide +kernel

/-- `srd s5, 0x0020`, `swr 0x0032, s7`, `trap 0x0123`, `eret.drop`, PATCH (spec/17 R372 to R382). -/
theorem test_decode_system :
    decode 0x108182800000000000010000#96 = .srd ⟨⟨false, false, 0⟩, ⟨3, 5, 0, 0⟩, ⟨0, 0, 0, 0⟩, ⟨0, 0, 0, 0⟩, 32, 0, 0⟩ ∧
    decode 0x10C000060E00000000019000#96 = .swr ⟨⟨false, false, 0⟩, ⟨0, 0, 0, 0⟩, ⟨3, 7, 0, 0⟩, ⟨0, 0, 0, 0⟩, 50, 0, 0⟩ ∧
    decode 0x100000000000000000091800#96 = .trap ⟨⟨false, false, 0⟩, ⟨0, 0, 0, 0⟩, ⟨0, 0, 0, 0⟩, ⟨0, 0, 0, 0⟩, 0x123, 0, 0⟩ ∧
    decode 0x104000000000000000000004#96 = .eret ⟨⟨false, false, 0⟩, ⟨0, 0, 0, 0⟩, ⟨0, 0, 0, 0⟩, ⟨0, 0, 0, 0⟩, 0, 0, 4⟩ ∧
    decode 0x11000006080060C000000500#96 = .patch ⟨⟨false, false, 0⟩, ⟨0, 0, 0, 0⟩, ⟨3, 4, 0, 0⟩, ⟨3, 6, 0, 0⟩, 0, 5, 0⟩ := by decide +kernel

/-- `mov w0, f4` (spec/10), ISET, `imul n12, n12, 0x0BAD_8005` (spec/14). -/
theorem test_decode_integer :
    decode 0x200000040800000000000000#96 = .mov ⟨⟨false, false, 0⟩, ⟨0, 0, 0, 0⟩, ⟨2, 4, 0, 0⟩, ⟨0, 0, 0, 0⟩, ⟨0, 0, 0, 0⟩, 0, 0, 0⟩ ∧
    decode 0x250000872000682000000030#96 = .iset ⟨⟨false, false, 0⟩, ⟨0, 1, 0, 0⟩, ⟨3, 144, 0, 0⟩, ⟨3, 65, 0, 0⟩, ⟨0, 0, 0, 0⟩, 3, 0, 0⟩ ∧
    decode 0x22408602180005D6C0028000#96 = .imulI ⟨⟨false, false, 0⟩, ⟨1, 12, 0, 0⟩, ⟨1, 12, 0, 0⟩, 0xbad8005, 0, 0, 0, 0⟩ := by decide +kernel

/-- `fadd.rz n4:1x2, n0, f20` (R65), `ffma w0, w0, n0, f3` (spec/10), `fmaxi.f16` (spec/21). -/
theorem test_decode_float :
    decode 0x4000820A0000428000000004#96 = .fadd ⟨⟨false, false, 0⟩, ⟨1, 4, 0, 1⟩, ⟨1, 0, 0, 0⟩, ⟨2, 20, 0, 0⟩, ⟨0, 0, 0, 0⟩, 0, 1, 0⟩ ∧
    decode 0x418000000000200004060000#96 = .ffma ⟨⟨false, false, 0⟩, ⟨0, 0, 0, 0⟩, ⟨0, 0, 0, 0⟩, ⟨1, 0, 0, 0⟩, ⟨2, 3, 0, 0⟩, 0, 0, 0⟩ ∧
    decode 0x4300800A0000200680000002#96 = .fmaxi ⟨⟨false, false, 0⟩, ⟨1, 0, 0, 1⟩, ⟨1, 0, 0, 0⟩, ⟨1, 0, 3, 16⟩, ⟨0, 0, 0, 0⟩, 0, 0, 2⟩ := by decide +kernel

/-- `redx.fmax.f16 n9, n0` (spec/21). -/
theorem test_decode_cross_lane :
    decode 0x650084820000000000000072#96 = .redx ⟨⟨false, false, 0⟩, ⟨1, 9, 0, 0⟩, ⟨1, 0, 0, 0⟩, ⟨0, 0, 0, 0⟩, ⟨0, 0, 0, 0⟩, 7, 0, 2⟩ := by decide +kernel

/-- `ld.byp n0, [s1 + n1]` (spec/10), `ldl n9, [n8]`, `stl [n1], n2` (spec/19). -/
theorem test_decode_memory :
    decode 0x8000800602002020000000C8#96 = .ld ⟨⟨false, false, 0⟩, ⟨1, 0, 0, 0⟩, ⟨3, 1, 0, 0⟩, ⟨1, 1, 0, 0⟩, 0, 0, true, 72⟩ ∧
    decode 0x810084821000000000000000#96 = .ldl ⟨⟨false, false, 0⟩, ⟨1, 9, 0, 0⟩, ⟨1, 8, 0, 0⟩, ⟨0, 0, 0, 0⟩, 0, 0, false, 0⟩ ∧
    decode 0x814081020200000000000000#96 = .stl ⟨⟨false, false, 0⟩, ⟨1, 2, 0, 0⟩, ⟨1, 1, 0, 0⟩, ⟨0, 0, 0, 0⟩, 0, 0, false, 0⟩ := by decide +kernel

/-- BULK, `bcopy.core t0, s44(s32), s12` (spec/18), SPAWN, LAUNCH. -/
theorem test_decode_engine :
    decode 0xA00188061000630000050000#96 = .bulk ⟨⟨false, false, 0⟩, ⟨3, 16, 0, 0⟩, ⟨3, 8, 0, 0⟩, ⟨3, 24, 0, 0⟩, 0, 5, 0, 0, 0⟩ ∧
    decode 0xA04186065800640000020000#96 = .bcopy ⟨⟨false, false, 0⟩, ⟨3, 12, 0, 0⟩, ⟨3, 44, 0, 0⟩, ⟨3, 32, 0, 0⟩, 0, 2, 0, 0, 0⟩ ∧
    decode 0xA40000061400208000000002#96 = .spawn ⟨⟨false, false, 0⟩, ⟨0, 0, 0, 0⟩, ⟨3, 10, 0, 0⟩, ⟨1, 4, 0, 0⟩, 0, 0, 0, 0, 2⟩ ∧
    decode 0xA48183061000612000000500#96 = .launch ⟨⟨false, false, 0⟩, ⟨3, 6, 0, 0⟩, ⟨3, 8, 0, 0⟩, ⟨3, 9, 0, 0⟩, 0, 5, false, 0⟩ := by decide +kernel

/-- MMA of BFP4 and `mma t12, n0, t4` (spec/12), `mma t2, f0, t1` (spec/18). -/
theorem test_decode_matrix :
    decode 0xC08019000010400043BB0000#96 = .mma ⟨⟨false, false, 0⟩, 12, ⟨2, 0, 0, 0⟩, ⟨2, 8, 0, 0⟩, false, false, true, 3, 11, 11, 0, 0, 0, 0⟩ ∧
    decode 0xC080188000002000C0000000#96 = .mma ⟨⟨false, false, 0⟩, 12, ⟨1, 0, 0, 0⟩, ⟨0, 4, 0, 0⟩, false, true, true, 0, 0, 0, 0, 0, 0, 0⟩ ∧
    decode 0xC080050000000800C0000000#96 = .mma ⟨⟨false, false, 0⟩, 2, ⟨2, 0, 0, 0⟩, ⟨0, 1, 0, 0⟩, false, true, true, 0, 0, 0, 0, 0, 0, 0⟩ := by decide +kernel

/-- VIGIL, `vigil.bar.core s5, [s12], s40` (spec/18), `red.or.i64 [n22], n18` (spec/14), `redd.maxi.f16` (spec/21). -/
theorem test_decode_sync :
    decode 0xE00182860800610000000432#96 = .vigil ⟨⟨false, false, 0⟩, ⟨3, 5, 0, 0⟩, ⟨3, 4, 0, 0⟩, ⟨3, 8, 0, 0⟩, 0, 4, false, 50⟩ ∧
    decode 0xE00182861800650000000A00#96 = .vigil ⟨⟨false, false, 0⟩, ⟨3, 5, 0, 0⟩, ⟨3, 12, 0, 0⟩, ⟨3, 40, 0, 0⟩, 1, 2, false, 0⟩ ∧
    decode 0xE18000022C00224000000014#96 = .red ⟨⟨false, false, 0⟩, ⟨0, 0, 0, 0⟩, ⟨1, 22, 0, 0⟩, ⟨1, 18, 0, 0⟩, 0, 0, false, 20⟩ ∧
    decode 0xE1C00006000021A000188070#96 = .redd ⟨⟨false, false, 0⟩, ⟨0, 0, 0, 0⟩, ⟨3, 0, 0, 0⟩, ⟨1, 13, 0, 0⟩, 0x310, 0, false, 112⟩ := by decide +kernel

/-- `opcls s5, s6, s7`, `lumq.dom s5`, `monrd.cap s5, s6` (spec/22). -/
theorem test_decode_power :
    decode 0xF00182860C0060E000000000#96 = .opcls ⟨⟨false, false, 0⟩, ⟨3, 5, 0, 0⟩, ⟨3, 6, 0, 0⟩, ⟨3, 7, 0, 0⟩, 0, 0, 0⟩ ∧
    decode 0xF04182800000000000000002#96 = .lumq ⟨⟨false, false, 0⟩, ⟨3, 5, 0, 0⟩, ⟨0, 0, 0, 0⟩, ⟨0, 0, 0, 0⟩, 0, 0, 2⟩ ∧
    decode 0xF08182860C00000000000001#96 = .monrd ⟨⟨false, false, 0⟩, ⟨3, 5, 0, 0⟩, ⟨3, 6, 0, 0⟩, ⟨0, 0, 0, 0⟩, 0, 0, 1⟩ := by decide +kernel

/-! Small states. -/

/-- One wave at PL 0, about to issue, in a context with a handler: page 0 executable and sealed, page 1 writable, page 2 private. -/
def base : State :=
  let s := (placeInstr State.reset 0).setCtxReg 1 0x40 (2 ^ 63 + 192)
  { s with cur := some 0, mem := memWrite8 s.mem [(0x5808, 0x2000F), (0x5810, 0x3020F)] }

def wv (s : State) : Wave := (s.wave 0).getD (newWave s 0 0 0 0 false 0 0 0 0)

def withWave (f : Wave → Wave) : State := base.setWave 0 (f (wv base))

def withSt (f : WState → WState) : State := withWave fun w => { w with st := f w.st }

/-- A scalar set. -/
def sv (n v : Nat) : State := withSt fun st => st.setS n (BitVec.ofNat 64 v)

/-- At PL 1. -/
def pl1 : State := withSt fun st => { st with pl1 := true }

/-- No thread on the wave's path. -/
def idle : State := withSt fun st => { st with exec := 0 }

def readyB (s : State) (i : Instr) : Bool :=
  decide (s.cur = some 0) && decide (s.wave 0 = some (wv s)) && (wv s).lit && s.blockRuns (wv s).block && canTake s (wv s).side (priceOf i) &&
  (issueFail (wv s) i).isNone && (absentOf (wv s) (readsOf i ++ writesOf i)).isEmpty && !farBad s 0 i

/-- The wave stands ready for an instruction; `ready_of` gives the premise of the statements. -/
abbrev R (i : Instr) (s : State) : Prop := readyB s i = true

theorem ready_of {i : Instr} {s : State} (h : R i s) : Ready i 0 (wv s) s := by
  simp only [R, readyB, Bool.and_eq_true, decide_eq_true_eq, Option.isNone_iff_eq_none, List.isEmpty_iff, Bool.not_eq_true'] at h
  obtain ⟨⟨⟨⟨⟨⟨⟨a, b⟩, c⟩, c'⟩, d⟩, e⟩, f⟩, g⟩ := h
  exact ⟨a, b, c, c', d, e, f, g⟩

/-- A trap of the wave goes to its context's handler. -/
def handled (s : State) (cause : Nat) : Bool := !trapToHost s (wv s).rollback cause

/-- An answer that satisfies a test; `okIs_ok` gives the answer. -/
def okIs {ε α : Type} (x : Except ε α) (p : α → Bool) : Bool :=
  match x with
  | .ok a => p a
  | .error _ => false

theorem okIs_ok {ε α : Type} {x : Except ε α} {p : α → Bool} (h : okIs x p = true) : ∃ a, x = .ok a ∧ p a = true := by
  cases x with
  | ok a => exact ⟨a, rfl, h⟩
  | error e => cases h

/-- An error that satisfies a test. -/
def errIs {ε α : Type} (x : Except ε α) (p : ε → Bool) : Bool :=
  match x with
  | .ok _ => false
  | .error e => p e

theorem errIs_error {ε α : Type} {x : Except ε α} {p : ε → Bool} (h : errIs x p = true) : ∃ e, x = .error e ∧ p e = true := by
  cases x with
  | ok a => cases h
  | error e => exact ⟨e, rfl, h⟩

def nextB (o : Host.Outcome State Fault Refusal) : Bool :=
  match o with
  | .next _ => true
  | _ => false

theorem next_of {o : Host.Outcome State Fault Refusal} (h : nextB o = true) : ∃ t, o = .next t := by
  cases o with
  | next t => exact ⟨t, rfl⟩
  | fault _ => cases h
  | refused _ => cases h

/-- Nothing stands in the way of loads (`Calm`). -/
def calmB (s : State) : Bool :=
  decide (s.errs = []) && decide (s.sent = []) && decide ((s.core (wv s).core).priv = []) && !raceOn s (wv s).ctx &&
  s.dies.all fun d => decide (d.2.poison = [])

/-! Operands. -/

def s0 : Src := ⟨0, 0, 0, 0⟩
def d0 : Dst := ⟨0, 0, 0, 0⟩
def h0 : Hdr := ⟨false, false, 0⟩
def uni : Hdr := ⟨true, false, 0⟩
def sc (n : BitVec 8) : Src := ⟨3, n, 0, 0⟩
def dsc (n : BitVec 8) : Dst := ⟨3, n, 0, 0⟩
def near (n : BitVec 8) : Src := ⟨1, n, 0, 0⟩
def v0 : FmtV := ⟨h0, d0, s0, s0, s0, 0, 0, 0⟩
def p1 : FmtV := { v0 with d := ⟨0, 1, 0, 0⟩ }
def vw : FmtV := { v0 with d := ⟨0, 0, 0, 1⟩, fmt := 1 }
def i0 : FmtI := ⟨h0, d0, s0, 0, 0, 0, 0, 0⟩
def c0 : FmtC := ⟨h0, 0, s0, 0, 0⟩
def y0 : FmtY := ⟨h0, d0, s0, s0, 0, 0, 0⟩
def m0 : FmtM := ⟨h0, d0, s0, s0, 0, 0, false, 0⟩
def m4 : FmtM := { m0 with a := sc 4, b := sc 6 }
def e0 : FmtE := ⟨h0, d0, s0, s0, 0, 0, 0, 0, 0⟩
def x0 : FmtX := ⟨h0, 0, s0, s0, false, false, false, 0, 0, 0, 0, 0, 0, 0⟩

/-! Every instruction can issue: nothing stops one with these operands. -/

theorem test_ready_control :
    ([.nop c0, .bra c0, .brc { c0 with imm := 4 }, .bri { c0 with a := sc 1 }, .call c0, .ret c0, .rcv c0, .exit c0,
      .strand { c0 with imm := 48 }, .yield c0, .trap y0, .bkpt y0] : List Instr).all (readyB base) = true := by decide +kernel

theorem test_ready_system :
    ([.halt y0, .eret y0, .srd { y0 with d := dsc 5, sysn := 0x30 }, .swr { y0 with a := sc 7, sysn := 0x40 },
      .patch { y0 with a := sc 4, b := sc 6, scope := 5 }, .opcls { y0 with d := dsc 5, a := sc 6, b := sc 7 },
      .lumq { y0 with d := dsc 5 }, .monrd { y0 with d := dsc 5 }] : List Instr).all (readyB pl1) = true := by decide +kernel

theorem test_ready_integer :
    ([.mov v0, .sel v0, .iadd v0, .isub v0, .imul v0, .imulh v0, .imad v0, .imin v0, .imax v0, .iabs v0, .iset p1, .lea vw,
      .iand v0, .ior v0, .ixor v0, .inot v0, .lop3 true v0, .shl v0, .shr v0, .sar v0, .rot v0, .popc v0, .clz v0, .brev v0, .bfx v0,
      .pand p1, .por p1, .pxor p1, .pnot p1, .pmov p1] : List Instr).all (readyB base) = true := by decide +kernel

theorem test_ready_immediate :
    ([.movI i0, .selI i0, .iaddI i0, .isubI i0, .imulI i0, .imulhI i0, .imadI i0, .iminI i0, .imaxI i0,
      .isetI { i0 with d := ⟨0, 1, 0, 0⟩ }, .leaI { i0 with fmt := 1, d := ⟨0, 0, 0, 1⟩ }, .iandI i0, .iorI i0, .ixorI i0, .shlI i0,
      .shrI i0, .sarI i0, .rotI i0, .bfxI i0, .faddI i0, .fsubI i0, .fmulI i0, .ffmaI i0, .fminI i0, .fmaxI i0,
      .fsetI { i0 with d := ⟨0, 1, 0, 0⟩ }] : List Instr).all (readyB base) = true := by decide +kernel

theorem test_ready_float :
    ([.fadd v0, .fsub v0, .fmul v0, .ffma v0, .fmin v0, .fmax v0, .fmaxi { v0 with d := ⟨0, 0, 0, 1⟩ },
      .fmini { v0 with d := ⟨0, 0, 0, 1⟩ }, .fset p1, .fcls v0, .frcp v0, .frsq v0, .fsqrt v0, .fexp2 v0, .flog2 v0, .fsin v0,
      .fcos v0, .fdivs v0, .cvt v0] : List Instr).all (readyB base) = true := by decide +kernel

theorem test_ready_pack_and_lanes :
    ([.bpk { v0 with d := ⟨1, 0, 0, 3⟩, a := near 4, subop := 2 }, .bupk { v0 with d := ⟨1, 0, 0, 0⟩, a := near 16, subop := 2 },
      .sbpk { v0 with d := ⟨1, 0, 0, 3⟩, a := ⟨2, 0, 0, 0⟩, subop := 2 },
      .sbupk { v0 with d := ⟨2, 0, 0, 0⟩, a := near 16, subop := 2 }, .xsel v0, .vote p1, .ball v0, .scan v0, .redx v0, .matchX v0,
      .rand v0, .rseed { v0 with a := sc 2 }] : List Instr).all (readyB base) = true := by decide +kernel

theorem test_ready_memory :
    ([.ld { m4 with b := s0, sub := 0x40 }, .st { m4 with b := s0, sub := 0x40 }, .ldp m0, .stp m0, .ldl m0, .stl m0,
      .ldc { m4 with b := s0, sub := 0x40 }, .prf { m4 with b := s0 }, .layset { m4 with d := dsc 8, b := s0 },
      .layinv { m4 with b := s0 }, .seal m4, .unseal m4, .invl1 m0, .wbl2 m4, .tld e0, .tst e0, .talc { e0 with a := sc 4 },
      .tfree e0, .tinfo e0] : List Instr).all (readyB base) = true := by decide +kernel

theorem test_ready_engine :
    ([.bulk { e0 with d := dsc 16, a := sc 8, b := sc 24, scope := 5 }, .bcopy { e0 with d := dsc 12, a := sc 11, b := sc 32, scope := 2 },
      .kick { e0 with a := sc 4, b := sc 5 }, .tend e0, .echk e0, .spawn { e0 with a := sc 10, b := near 4, imm := 2 },
      .bincfg { e0 with a := sc 4, b := sc 5 }, .launch { m4 with d := dsc 8, scope := 5 }] : List Instr).all (readyB base) = true := by
  decide +kernel

theorem test_ready_matrix :
    ([.mbeg x0, .mend x0, .mma { x0 with a := near 0, b := near 8 }, .gang { x0 with a := sc 4 }, .mrd { x0 with a := near 0 },
      .mwr { x0 with a := near 0 }, .mzero x0, .mscl x0] : List Instr).all (readyB base) = true := by decide +kernel

theorem test_ready_sync :
    ([.vigil { m4 with d := dsc 5 }, .wake m4, .wakeq m4, .arv { m4 with d := dsc 5 }, .binit m4, .atom { m4 with b := s0 },
      .red { m4 with b := s0 }, .redd { m4 with b := s0 }, .dtok m0, .fence m0] : List Instr).all (readyB base) = true := by decide +kernel

/-! Witnesses: for each statement, states and operands that meet its hypotheses, clause by clause. -/

def nopWord : State := placeInstr State.reset 0x004000000000000000000000

theorem test_wit_StepKeepsMemoryCanonical : Memory.wf nopWord.mem = true ∧ ∃ t, step nopWord = .next t :=
  ⟨by decide +kernel, next_of (by decide +kernel)⟩

theorem test_wit_DecodeEncode : ([.nop c0, .fadd v0, .mma { x0 with a := near 0, b := near 8 }] : List Instr).all WellFormed = true := by
  decide +kernel

def drawn (s : State) : State := { s with free := s.free + 1, turn := Config.nextTurn s.free }

theorem test_wit_StepRunsDecoded :
    (nopWord.turn = .issue 0 ∧ pick (drawn nopWord) 0 = (some 0, false) ∧ (drawn nopWord).wave 0 = some (wv nopWord) ∧
      okIs (xlate (drawn nopWord) (.core (wv nopWord).core) (wv nopWord).ctx (wv nopWord).st.pc.toNat .fetch) (fun p =>
        (tget ((drawn nopWord).core (wv nopWord).core).icache (p.pa / 192)).isNone && !uncorrectable (drawn nopWord) p.pa &&
        decide (decodeBytes (memRead (drawn nopWord).mem p.pa 12) = some (.nop c0, []))) = true) ∧
    (Instr.lumenRotation 0).isEvent = true ∧ (Instr.nop c0).isEvent = false := by decide +kernel

theorem test_wit_FailedCheckTraps :
    ((Instr.eret y0).isEvent = false ∧ base.cur = some 0 ∧ base.wave 0 = some (wv base) ∧
      canTake base (wv base).side (priceOf (.eret y0)) = true ∧ issueFail (wv base) (.eret y0) = some ⟨2, 1, none, none⟩ ∧
      handled base 2 = true) ∧ handled base 1 = true := by decide +kernel

theorem test_wit_PrivilegeFaults :
    illegalSub (wv base).farRegs false (.halt y0) = none ∧ (wv base).st.pl1 = false ∧
    (∀ i : Instr, i ∈ [Instr.srd { y0 with d := dsc 5, sysn := 0x30 }, .swr { y0 with a := sc 7, sysn := 0x147 },
      .swr { y0 with a := sc 7, sysn := 0x31 },
      .srd { y0 with d := dsc 5, sysn := 0x99 }, .swr { y0 with a := sc 7, sysn := 0x01 }, .srd { y0 with d := dsc 5, sysn := 0x40 }] →
      illegalSub (wv base).farRegs false i = none) ∧
    sysInfo 0x99 = none ∧ (wv pl1).st.pl1 = true ∧ handled base 2 = true ∧ handled pl1 2 = true ∧
    (∀ i : Instr, i ∈ [Instr.srd { y0 with d := dsc 5, sysn := 0x42 }, .swr { y0 with a := sc 7, sysn := 0x33 }] →
      illegalSub (wv pl1).farRegs true i = none) := by decide +kernel

def bri1 : Instr := .bri { c0 with a := sc 1 }
def call1 : Instr := .call { c0 with sub := 1, a := sc 1 }
def returns (n : Nat) : State := withSt fun st => { st with rstack := [⟨24, n⟩] }

theorem test_wit_DirectControl :
    R (.nop c0) base ∧ R (.bra c0) base ∧
    (R bri1 (sv 1 24) ∧ (wv (sv 1 24)).st.s 1 = 24) ∧ (R bri1 (sv 1 25) ∧ (wv (sv 1 25)).st.s 1 = 25 ∧ handled (sv 1 25) 15 = true) ∧
    (R bri1 (sv 1 0x200000000000004) ∧ ((wv (sv 1 0x200000000000004)).st.s 1).toNat ≥ 2 ^ 57) ∧
    (let s := withSt fun st => { st with rstack := List.replicate 16 ⟨24, 0⟩ }; R (.call c0) s ∧ (wv s).st.rstack.length ≥ 16) ∧
    (R (.call c0) base ∧ (wv base).st.rstack.length < 16) ∧ R call1 (sv 1 24) ∧ R call1 (sv 1 25) ∧
    (R (.ret c0) base ∧ (wv base).st.rstack = []) ∧
    (R (.ret c0) (returns 0) ∧ R (.ret c0) (returns 1) ∧ (wv (returns 0)).st.dstack.length = 0) := by decide +kernel

def brc (j : BitVec 32) : FmtC := { c0 with h := ⟨false, false, 2⟩, imm := j, offs := 5 }
/-- Predicate 2 of the threads. -/
def pv (p : Nat) : State := withSt fun st => st.setP 2 (BitVec.ofNat 32 p)

theorem test_wit_DivergentBranch :
    R (.brc (brc 0)) base ∧ handled base 15 = true ∧
    (∀ p : Nat, p ∈ [0, 0xFFFFFFFF, 1, 2] → R (.brc (brc 4)) (pv p) ∧ ((wv (pv p)).st.p 2).toNat = p ∧ (wv (pv p)).st.exec = 0xFFFFFFFF) ∧
    (let s := withSt fun st => { st.setP 2 1 with dstack := List.replicate 32 ⟨24, 36, 3, 1⟩ };
      R (.brc (brc 4)) s ∧ (wv s).st.dstack.length ≥ 32) ∧
    lowestThread 1 < lowestThread (0xFFFFFFFF &&& ~~~1) ∧ lowestThread (0xFFFFFFFF &&& ~~~2) < lowestThread 2 := by decide +kernel

/-- A stack entry whose join is the wave's PC, 0. -/
def joins (p : Nat) : State := withSt fun st => { st with exec := 1, dstack := [⟨0, 36, 3, BitVec.ofNat 32 p⟩] }

/-- Three entries, the two on top with the wave's PC as their join. -/
def joinsTwo : State :=
  withSt fun st => { st with exec := 1, dstack := [⟨0, 36, 3, 0⟩, ⟨0, 48, 7, 4⟩, ⟨60, 72, 0xFFFFFFFF, 8⟩] }

theorem test_wit_JoinResolves :
    (R (.rcv c0) joinsTwo ∧ (wv joinsTwo).st.dstack.map DEntry.jpc = [0, 0, 60]) ∧ R (.rcv c0) idle ∧
    (R (.rcv c0) base ∧ (wv base).st.exec ≠ 0 ∧ (wv base).st.dstack.head? = none) ∧
    (∀ p : Nat, p ∈ [2, 0] → R (.rcv c0) (joins p) ∧ (wv (joins p)).st.dstack = [⟨0, 36, 3, BitVec.ofNat 32 p⟩] ∧
      (wv (joins p)).st.pc = 0 ∧ (BitVec.ofNat 32 p &&& (wv (joins p)).st.live).toNat = p ∧ (3 : Word) &&& (wv (joins p)).st.live ≠ 0) := by decide +kernel

theorem test_wit_StrandBoundary :
    R (.strand { c0 with imm := 3 }) base ∧ (wv base).queue = [] ∧ (wv base).victim = false := by decide +kernel

/-- An open chain; and with predicate 2 of the threads. -/
def inChain : State := withSt fun st => { st with chain := true }
def pvChain (p : Nat) : State := withSt fun st => { st.setP 2 (BitVec.ofNat 32 p) with chain := true }

/-- A guard on predicate 2 leaves the threads of `p` active. -/
def exit2 : FmtC := { c0 with h := ⟨false, false, 2⟩ }

/-- A wave formed from a bin by SPAWN alone. -/
def spawned : State :=
  withWave fun w => { w with isBin := true, born := (List.range 32).map fun n => (n, ⟨false, false, 0, 0, 0, 0, 0, 0, [], 0, 0, [], 0⟩) }

theorem test_wit_ExitRetires :
    (R (.exit c0) inChain ∧ (wv inChain).st.chain = true ∧ (wv inChain).st.act h0 = (wv inChain).st.live ∧ handled inChain 17 = true) ∧
    (R (.exit exit2) (pvChain 1) ∧ (wv (pvChain 1)).st.chain = true ∧ (wv (pvChain 1)).st.act exit2.h ≠ (wv (pvChain 1)).st.live) ∧
    (R (.exit c0) spawned ∧ (wv spawned).isBin = true ∧ (wv spawned).queue = [] ∧ (wv spawned).victim = false ∧
      (wv spawned).born.all (fun e => !e.2.taper) = true ∧ (wv spawned).st.live &&& ~~~((wv spawned).st.act h0) = 0 ∧
      (spawned.core (wv spawned).core).bins = [] ∧ tsorted spawned.waves = true) ∧
    (R (.exit c0) (joins 0) ∧ (wv (joins 0)).st.act h0 = 1 ∧ (wv (joins 0)).st.exec &&& ~~~1 = 0 ∧
      (wv (joins 0)).st.dstack = [⟨0, 36, 3, 0⟩] ∧ (wv (joins 0)).st.live &&& ~~~1 ≠ 0) ∧
    (R (.exit exit2) (pv 1) ∧ (wv (pv 1)).queue = [] ∧ (wv (pv 1)).victim = false ∧ (wv (pv 1)).isBin = false ∧ (wv (pv 1)).born = [] ∧
      (wv (pv 1)).st.act exit2.h = 1 ∧ (wv (pv 1)).st.chain = false ∧ (wv (pv 1)).st.live &&& ~~~1 ≠ 0 ∧
      (wv (pv 1)).st.exec &&& ~~~1 ≠ 0) ∧
    (R (.exit c0) (joins 2) ∧ (wv (joins 2)).st.act h0 = 1 ∧ (wv (joins 2)).st.exec &&& ~~~1 = 0 ∧
      (wv (joins 2)).st.dstack = [⟨0, 36, 3, 2⟩] ∧ (2 : Word) &&& ~~~1 &&& ((wv (joins 2)).st.live &&& ~~~1) ≠ 0) ∧
    (R (.exit c0) base ∧ (wv base).st.live &&& ~~~((wv base).st.act h0) = 0) := by decide +kernel

/-- A wave formed from a bin, its threads tapers of operation 0; predicate 2 holds in thread 0. -/
def tapers (closing : Bool) : State :=
  let b : Machine.Born := ⟨true, closing, 0, 0, 0, 0, 48, 0, [], 0, 0, [], 0⟩
  { (withWave fun w => { w with isBin := true, born := (List.range 32).map fun n => (n, b), st := w.st.setP 2 1 }) with
    engops := [(0, ⟨.bulk 0 [] [] 0 0 [] 0 0, 1, 0, 0, 0, 5, .none, [], true, 96, 0, false, false, false⟩)] }

/-- The same in an open chain; and with a barrier object at 49152 that awaits 96 bytes. -/
def tapersChain : State := (tapers true).setWave 0 { wv (tapers true) with st := { (wv (tapers true)).st with chain := true } }
def tapersBar : State :=
  { tapers false with
    engops := [(0, ⟨.bulk 0 [] [] 0 0 [] 0 0, 1, 0, 0, 0, 5, .mem 49152, [], true, 96, 0, false, false, false⟩)]
    mem := memWrite base.mem 98304 (leBytes 16 (Bar.toNat ⟨0, 1, 1, 0, 96, 0, false, false, 0⟩)) }

def tend2 : FmtE := { e0 with h := ⟨false, false, 2⟩ }

theorem test_wit_TendRetires :
    (∀ i ∈ [Instr.tend e0, .exit c0], R i tapersChain ∧ (threads ((wv tapersChain).st.act h0)).all (isTaper (wv tapersChain)) = true ∧
      (wv tapersChain).st.chain = true ∧ (wv tapersChain).st.act h0 = (wv tapersChain).st.live ∧ handled tapersChain 17 = true) ∧
    (∀ c : Bool, R (.exit exit2) (tapers c) ∧ (tapers c).sent = []) ∧
    (R (.tend tend2) tapersBar ∧ okIs (barPlace tapersBar (.core 0) 1 0 (.mem 49152)) (fun p => p = some (.mem 98304)) = true ∧
      calmB tapersBar = true ∧ Memory.wf tapersBar.mem = true ∧ (barAt tapersBar (.mem 98304)).bytes = 96) ∧
    (R (.tend e0) base ∧ (threads ((wv base).st.act h0)).find? (fun t => !isTaper (wv base) t) = some 0 ∧ handled base 14 = true) ∧
    (∀ c : Bool, R (.tend tend2) (tapers c) ∧ (wv (tapers c)).queue = [] ∧ (wv (tapers c)).victim = false ∧
      (wv (tapers c)).isBin = true ∧ (wv (tapers c)).st.chain = false ∧ (wv (tapers c)).st.exec &&& ~~~1 ≠ 0 ∧
      (wv (tapers c)).st.live &&& ~~~1 ≠ 0 ∧ (wv (tapers c)).st.act tend2.h = 1 ∧ threads 1 = [0] ∧
      (tget (wv (tapers c)).born 0).map Born.closing = some c ∧ (tget (wv (tapers c)).born 0).map Born.taper = some true ∧
      (tget (tapers c).engops 0).map EngOp.bar = some .none ∧ 0 + 48 ≠ 96) := by decide +kernel

theorem test_wit_YieldGivesWay :
    (R (.yield c0) base ∧ (wv base).queue = [] ∧ (wv base).victim = false ∧ (base.side 0).lighting = []) ∧
    (let s := base.setSide 0 { Side.reset with lighting := [7] };
      R (.yield c0) s ∧ (s.side 0).lighting = [7] ∧ 0 ∉ (s.side 0).lighting ∧ s.blockRuns 0 = true) := by decide +kernel

theorem test_wit_TrapRaises :
    R (.trap y0) base ∧ R (.bkpt y0) base ∧ (wv base).st.act h0 ≠ 0 ∧ trapToHost base (wv base) 24 = false ∧
    trapToHost base (wv base) 25 = false ∧ (wv base).queue = [] ∧ (wv base).victim = false ∧
    R (.trap y0) idle ∧ (wv idle).st.act h0 = 0 ∧ (wv idle).queue = [] := by decide +kernel

/-- At PL 1, no thread on the path. -/
def idle1 : State := withSt fun st => { st with exec := 0, pl1 := true }

theorem test_wit_HaltStopsContext :
    (R (.halt y0) idle1 ∧ (wv idle1).st.act h0 = 0 ∧ (wv idle1).queue = [] ∧ (wv idle1).victim = false) ∧
    R (.halt y0) pl1 ∧ (wv pl1).st.act h0 ≠ 0 ∧ (tget pl1.blocks (wv pl1).block).map Block.ctx = some (wv pl1).ctx ∧
    (tget pl1.ctxs (wv pl1).ctx).isSome = true := by decide +kernel

/-- No handler: every trap goes to the host. -/
def noHandler : State := { placeInstr State.reset 0 with cur := some 0 }

theorem test_wit_EscalationTellsHost :
    (Instr.eret y0).isEvent = false ∧ noHandler.cur = some 0 ∧ noHandler.wave 0 = some (wv noHandler) ∧
    canTake noHandler (wv noHandler).side (priceOf (.eret y0)) = true ∧ issueFail (wv noHandler) (.eret y0) = some ⟨2, 1, none, none⟩ ∧
    trapToHost noHandler (wv noHandler).rollback 2 = true ∧ (tget noHandler.blocks 0).map Block.ctx = some 1 ∧
    (tget noHandler.ctxs 1).isSome = true ∧ tsorted noHandler.blocks = true := by decide +kernel

/-- At PL 1 in a handler, with a frame. -/
def inHandler : State := withWave fun w => { w with st := { w.st with pl1 := true }, frame := some w.st, eres := 36 }

/-- The same with one residual entry. -/
def handlerRest : State :=
  withWave fun w => { w with
    st := { w.st with pl1 := true }, frame := some w.st, eres := 36, fresidual := [⟨24, .dtok, 1, [], [], none⟩] }
def restored (s : State) : Wave :=
  let w := wv s
  let fr := w.frame.getD w.st
  let st := { fr with pl1 := false, pc := w.eres, aiv := w.st.aiv }
  { w with
    st := st, head := st, frame := none, residual := w.fresidual, fresidual := [], be := none, queue := [], farRead := [], wick := []
    near := w.bank.filter fun e => bit fr.svm e.1, mflags := w.fmflags, fmflags := 0, parity := 0, wait := .none }

theorem test_wit_EretRestores :
    (R (.eret y0) handlerRest ∧ (wv handlerRest).fbe = none ∧ absentOf (wv handlerRest) [] = [] ∧
      (match performOp { handlerRest.setWave 0 (restored handlerRest) with free := handlerRest.free + 1 } 0 (restored handlerRest)
          ⟨24, .dtok, 1, [], [], none⟩ with
       | .done t => decide (t.wave 0 = some (wv t)) && decide ((wv t).residual = [⟨24, .dtok, 1, [], [], none⟩]) &&
          decide ((wv t).wait = .none) && decide ((wv t).be = none) && (wv t).lit && !(wv t).victim && t.blockRuns (wv t).block
       | _ => false) = true) ∧
    (R (.eret { y0 with sub := 1 }) inHandler ∧ (tget inHandler.blocks (wv inHandler).block).map Block.ctx = some 1 ∧
      (tget inHandler.ctxs 1).isSome = true ∧ tsorted inHandler.blocks = true ∧ tsorted inHandler.waves = true ∧
      (inHandler.core 0).steps = []) ∧
    (∀ n : Nat, n ∈ [0, 2, 4] → R (.eret { y0 with sub := BitVec.ofNat 8 n }) inHandler) ∧ (wv inHandler).queue = [] ∧ (wv inHandler).victim = false ∧
    (wv inHandler).frame = some (wv base).st ∧ (wv inHandler).fbe = none ∧ (wv inHandler).fresidual = [] := by decide +kernel

def isAnswer : RegTest → Bool
  | .answer .. => true
  | _ => false

def isMade : RegTest → Bool
  | .entry (.made _) => true
  | _ => false

/-- A VIGIL of the 32-bit word at s4 = 64, which reads 0, against s8. -/
def vig : FmtM := { m0 with d := dsc 5, a := sc 4, b := sc 8 }
def vigS (v : Nat) : State := withSt fun st => (st.setS 4 64).setS 8 (BitVec.ofNat 64 v)

/-- The barrier form, of the word at s4. -/
def vigBar : FmtM := { vig with ofs := 1 }

/-- The checks at issue: a taper; an address that is not canonical, one that is misaligned, pages that may not be read or are private, a
reference that names no barrier object. -/
theorem test_wit_VigilAnswersOrWaits_checks :
    (R (.vigil vig) (tapers true) ∧ (threads ((wv (tapers true)).st.act h0)).find? (isTaper (wv (tapers true))) = some 0 ∧
      handled (tapers true) 14 = true) ∧
    (∀ a ∈ [vlim - 2, 2, 0x1000000], R (.vigil vig) (sv 4 a) ∧ ((wv (sv 4 a)).st.s 4).toNat = a ∧ (wv (sv 4 a)).born = [] ∧
      (wv (sv 4 a)).st.act h0 ≠ 0 ∧ errIs (vigilPlace (sv 4 a) (wv (sv 4 a)) vig) (fun e => handled (sv 4 a) e.cause) = true) ∧
    (∀ n ∈ [(0x1000000, 2), (0x18000, 7)], errIs (xlate (sv 4 n.1) (.core 0) 1 n.1 .load) (fun e => e = n.2) = true) ∧
    (R (.vigil vigBar) (sv 4 (2 ^ 60)) ∧ parseBar (sv 4 (2 ^ 60)) 0 ((wv (sv 4 (2 ^ 60))).st.s 4) = none ∧ handled (sv 4 (2 ^ 60)) 19 = true) := by
  decide +kernel

/-- A vigil of the doubleword at 98304, which reads 0. -/
def vigOf (kind : VKind) (w64 timed : Bool) (budget operand : Nat) : Vigil :=
  ⟨0, .wave 0, 1, 49152, .mem 98304, w64, 0, BitVec.ofNat 64 operand, 0, kind, 0, timed, budget, 0, 2, none, false⟩

theorem test_wit_VigilAnswersOrWaits_conditions :
    (∀ w64 : Bool, (vigOf .plain w64 false 0 0).holds base = true ∧ (vigOf .plain w64 false 0 1).holds base = false) ∧
    ((vigOf .phase false false 0 1).holds base = true ∧ (vigOf .phase false true 0 0).holds base = false ∧
      (vigOf .drain false false 0 0).holds base = true) ∧
    (isAnswer (registerVigil base (vigOf .plain false true 0 1)) = true ∧ isMade (registerVigil base (vigOf .plain false true 1 1)) = true ∧
      isAnswer (registerVigil base (vigOf .queue false true 0 1)) = true ∧ isMade (registerVigil base (vigOf .queue false false 0 0)) = true) := by
  decide +kernel

/-- The state in which that VIGIL registers. -/
def vigTouched (v : Nat) : State := vigilTouch ((vigS v).setWave 0 (wv (vigS v)).bounded) 0 (wv (vigS v)).bounded (.mem 49216) 64 4

theorem test_wit_VigilAnswersOrWaits :
    (R (.vigil vig) idle ∧ (wv idle).queue = [] ∧ (wv idle).victim = false ∧ (wv idle).st.act h0 = 0) ∧
    (∀ v : Nat, v ∈ [0, 5] → R (.vigil vig) (vigS v) ∧ (wv (vigS v)).queue = [] ∧ (wv (vigS v)).st.act h0 ≠ 0 ∧
      (wv (vigS v)).born = [] ∧ okIs (vigilPlace (vigS v) (wv (vigS v)) vig) (fun p => p = (.mem 49216, 64)) = true ∧
      vigilBad (vigS v) (.mem 49216) (vigilEntry (vigS v) 0 (wv (vigS v)) vig (.mem 49216) 64).width = false) ∧
    isAnswer (registerVigil (vigTouched 0) (vigilEntry (vigTouched 0) 0 (wv (vigS 0)).bounded vig (.mem 49216) 64)) = true ∧
    isMade (registerVigil (vigTouched 5) (vigilEntry (vigTouched 5) 0 (wv (vigS 5)).bounded vig (.mem 49216) 64)) = true := by decide +kernel

theorem test_wit_VectorResults :
    (unitForm (.fadd v0)).map (fun e => e.h.u) = some false ∧ R (.fadd v0) base ∧ (unitForm (.redx v0)).map (fun e => e.h.u) = some false ∧
    R (.redx v0) base := by decide +kernel

/-- `fadd.uni s0, s0, s0`. -/
def faddU : Instr := .fadd { v0 with h := uni, d := dsc 0, a := sc 0, b := sc 0 }

theorem test_wit_ScalarResults :
    (unitForm faddU).map (fun e => e.h.u) = some true ∧ R faddU base ∧ (wv base).st.act uni ≠ 0 ∧ R faddU idle ∧ (wv idle).st.act uni = 0 := by
  decide +kernel

theorem test_wit_ElementsIndependent : (64 : Nat) = 64 ∧ (8 : Nat) ≤ 64 ∧ (7 : Nat) < 64 / 8 ∧ (0 : Nat) < 32 / 32 := by decide

theorem test_wit_PredicateResults :
    (predForm (.iset p1)).map PredForm.d = some 1 ∧ R (.iset p1) base ∧ (predForm (.vote p1)).isSome = true ∧ R (.vote p1) base := by
  decide +kernel

def bupk : Instr := .bupk { v0 with d := ⟨1, 0, 0, 0⟩, a := near 16, subop := 1 }
/-- Near registers 16 to 19 written, the last with its top bits set. -/
def blocks16 (top : Nat) : State :=
  withWave fun w => { w with near := [(16, List.replicate 32 (some 0)), (17, List.replicate 32 (some 0)), (18, List.replicate 32 (some 0)),
    (19, List.replicate 32 (some (BitVec.ofNat 32 top)))] }
def cvtU : FmtV := { v0 with h := uni, d := dsc 0, a := sc 0 }

theorem test_wit_RegisterRunResults :
    (runForm bupk).isSome = true ∧ (R bupk (blocks16 0xFFFFFFFF) ∧ (spareThreads (blocks16 0xFFFFFFFF) (wv (blocks16 0xFFFFFFFF)) bupk).head? = some 0 ∧
      handled (blocks16 0xFFFFFFFF) 16 = true) ∧
    (R bupk (blocks16 0) ∧ spareThreads (blocks16 0) (wv (blocks16 0)) bupk = []) ∧
    (R (.cvt cvtU) base ∧ (wv base).st.act uni ≠ 0 ∧ R (.cvt cvtU) idle ∧ (wv idle).st.act uni = 0) := by decide +kernel

theorem test_wit_RandomNumbers :
    R (.rand v0) base ∧ R (.rseed { v0 with a := sc 2 }) base ∧ (wv base).st.act h0 ≠ 0 ∧ R (.rseed { v0 with a := sc 2 }) idle ∧
    (wv idle).st.act h0 = 0 := by decide +kernel

theorem test_wit_SpecialReads :
    (∀ s ∈ [base, idle], R (.srd { y0 with d := dsc 5, sysn := 0x20 }) s ∧ R (.srd { y0 with d := dsc 5, sysn := 1 }) s ∧
      R (.lumq { y0 with d := dsc 5, sub := 3 }) s ∧ R (.monrd { y0 with d := dsc 5, a := sc 6, sub := 1 }) s) ∧
    (wv base).st.act h0 ≠ 0 ∧ (wv idle).st.act h0 = 0 := by decide +kernel

theorem test_wit_StatusReads :
    (∀ s ∈ [base, idle], R (.tinfo e0) s ∧ R (.echk { e0 with sub := 2 }) s ∧ R (.talc { e0 with a := sc 4 }) s ∧
      R (.tinfo { e0 with h := uni, d := dsc 5 }) s ∧ R (.echk { e0 with h := uni, d := dsc 5, sub := 3 }) s ∧
      R (.talc { e0 with h := uni, d := dsc 5, a := sc 4 }) s) ∧
    tsorted (base.core 0).efaults = true := by decide +kernel

/-- LD and LDC of the word at s4 = 0, under U = 1 too, LDP through layout s10 = 0, LDL of private word s10, TLD of tile 0. -/
def ld4 : Instr := .ld { m0 with a := sc 4, sub := 0x40 }
def ldu4 : Instr := .ld { m0 with h := uni, d := dsc 5, a := sc 4, sub := 0x40 }
def ldcu4 : Instr := .ldc { m0 with h := uni, d := dsc 5, a := sc 4, sub := 0x40 }
def ldc4 : Instr := .ldc { m0 with a := sc 4, sub := 0x40 }
def ldp0 : Instr := .ldp { m0 with a := sc 10, b := sc 11 }
def ldl0 : Instr := .ldl { m0 with a := sc 10 }
def tld0 : Instr := .tld { e0 with a := sc 10, b := sc 10 }

/-- A layout record of FP32 elements at address 0, private storage on page 2, a tile of the block. -/
def stored : State :=
  let s := ((((withWave fun w => { w with frameNo := some 0, pwlim := 64 }).setCtxReg 1 0x44 1).setCtxReg 1 0x47 1).setCtxReg 1 0x46 192)
  { (s.setCtxReg 1 0x45 1).setCtxReg 1 0x43 98304 with
    tiles := [(0, ⟨.block 0, 0, 0, 2, 32, 32, [0], 4096, 0, 0, [], true, false⟩)]
    mem := memWrite base.mem (49152 + 192) (leBytes 48 (2 * 2 ^ 57 + 4 * 2 ^ 84)) }

/-- The answer of a load's access: bytes, or a failure. -/
def answers (s : State) (i : Instr) : Bool :=
  match loadForm s 0 (wv s) i with
  | none => false
  | some e => okIs e.answer fun _ => true

def fails (s : State) (i : Instr) : Bool :=
  match loadForm s 0 (wv s) i with
  | none => false
  | some e => errIs e.answer fun x => handled s x.cause

theorem test_wit_LoadResults :
    (∀ i ∈ [ld4, ldu4, ldc4, ldp0, ldl0, tld0], R i stored ∧ answers stored i = true) ∧ calmB stored = true ∧
    (∀ i ∈ [ldp0, ldl0, tld0], R i base ∧ fails base i = true) ∧ R ld4 (sv 4 2) ∧ fails (sv 4 2) ld4 = true ∧
    (∀ i ∈ [ld4, ldu4, ldc4, ldcu4], R i idle ∧ answers idle i = true) ∧ ((loadForm idle 0 (wv idle) ldcu4).bind LoadForm.one).isSome = true ∧
    ((loadForm idle 0 (wv idle) ldu4).map LoadForm.one) = some none ∧ calmB idle = true := by decide +kernel

/-- A place for an access of the wave's load-store unit on a plain page (`PlainAt`). -/
def plainB (s : State) (acc : Acc) (va n : Nat) : Bool :=
  decide (0 < n) && decide (va % 48 + n ≤ 48) && !sealedBy s (wv s).ctx va n && decide (s.locks = []) &&
  okIs (xlate s (.lsu (wv s).core) (wv s).ctx va acc) fun p => decide (pteOrd p.pte = 0) && !ptePriv p.pte

/-- The layouts of context 1 stand at page 1; layout 2 there is of FP32 elements of 4 by 1 from page 1 on. -/
def layouts : State :=
  { ((base.setCtxReg 1 0x46 49152).setCtxReg 1 0x47 4) with
    mem := memWrite base.mem (98304 + 96) (leBytes 48 (49152 + 2 * 2 ^ 57 + 4 * 2 ^ 84 + 4 * 2 ^ 224)) }

theorem test_wit_HomeAccesses :
    (ptePriv 0x10117 = false ∧ tget (base.core 0).l1 (49152 / 48) = none ∧ (base.core 0).priv = [] ∧ base.sent = [] ∧ base.early = [] ∧
      uncorrectable base 49152 = false ∧ uncorrectable { base with errs := [.tier 1024] } 49152 = true) ∧
    errIs (xlate base (.lsu 0) 1 0 .store) (fun _ => true) = true ∧
    okIs (xlate stored (.lsu 0) 1 98304 .store) (fun p => ptePriv p.pte && decide (p.pa % 48 + 4 ≤ 48) &&
      decide (tget (stored.core (wv stored).core).priv (p.pa / 48) = none)) = true ∧
    (stored.core 0).l1.length + (stored.core 0).priv.length < (stored.core 0).splitL * 256 ∧
    (∀ ord ∈ [0, 1, 2], pteOrd (0x2000F + 2 ^ 5 * ord) = ord ∧ ptePriv (0x2000F + 2 ^ 5 * ord) = false) ∧ Memory.wf base.mem = true ∧
    (plainB base .store 49152 4 = true ∧ calmB base = true) ∧
    (plainB base .atomic 49152 4 = true ∧ atomBytes 0 false false = 4 ∧ base.isDet (wv base) = false) := by decide +kernel

theorem test_wit_HomeAccesses_layout :
    calmB layouts = true ∧ okIs (layUse layouts 0 1 2) (fun x => decide (x.1 = layouts) || true) = true ∧
    (∀ b : Bool, let s := if b then (layUse layouts 0 1 2).toOption.map Prod.fst else none
      (s.map fun s => okIs (layUse s 0 1 2) fun x => decide (x.1 = s) && decide (layElem x.2 [9, 0, 0, 0, 0] = none) &&
        (match layElem x.2 [1, 0, 0, 0, 0] with
         | none => false
         | some a => okIs (elemAddr a (layEs (layFmt x.2))) fun va => plainB s .store va (layEs (layFmt x.2)))) =
        if b then some true else none) := by decide +kernel

def wbl2 : Instr := .wbl2 { m0 with a := sc 4, b := sc 5 }

theorem test_wit_CacheControl :
    (R (.prf { m0 with a := sc 4 }) base ∧ base.locks = [] ∧ (wv base).queue = [] ∧ calmB base = true) ∧
    R (.layinv { m0 with a := sc 4 }) base ∧ R (.invl1 m0) base ∧ R (.invl1 m0) idle ∧
    R wbl2 base ∧ R wbl2 idle ∧ ((wv base).st.s 4).toNat % 192 = 0 ∧ (read64w base (wv base) (sc 5)).toNat = 0 ∧
    (R wbl2 (sv 4 1) ∧ ((wv (sv 4 1)).st.s 4).toNat % 192 ≠ 0 ∧ handled (sv 4 1) 4 = true) ∧
    (R wbl2 (sv 5 1) ∧ (read64w (sv 5 1) (wv (sv 5 1)) (sc 5)).toNat = 1 ∧ readableFail (sv 5 1) (wv (sv 5 1)) 0 192 = none ∧
      (sv 5 1).errs = [] ∧ tsorted (sv 5 1).l2 = true ∧ (sv 5 1).l2.all (fun e => tsorted e.2.sects) = true) ∧
    (R wbl2 (sv 5 2048) ∧ (readableFail (sv 5 2048) (wv (sv 5 2048)) 0 (192 * 2048)).isSome = true) := by decide +kernel

def queueFree (s : State) (i : Instr) : Bool :=
  (queuedAs s (wv s) i).isSome && decide (queueFail s (wv s) i = none) && decide ((wv s).queue.length < 32) && decide (R i s)

theorem test_wit_QueuedAppends :
    (([.st { m4 with b := s0, sub := 0x40 }, .stp { m0 with a := sc 10, b := sc 11 }, .tst { e0 with a := sc 10, b := sc 10 }, .tfree e0,
      .layset { m4 with d := dsc 8, b := s0 }, .seal m4, .unseal m4,
      .bulk { e0 with d := dsc 16, a := sc 8, b := sc 24, scope := 5 }, .bcopy { e0 with d := dsc 12, a := sc 11, b := sc 32, scope := 2 },
      .kick { e0 with a := sc 4, b := sc 5 }, .spawn { e0 with a := sc 10, b := near 4, imm := 2 }, .launch { m4 with d := dsc 8, scope := 5 },
      .mbeg x0, .mma { x0 with a := near 0, b := near 8 }, .mwr { x0 with a := near 0 }, .mzero x0, .mscl x0, .wake m4, .wakeq m4,
      .arv { m4 with d := dsc 5 }, .binit m4, .atom { m4 with b := s0 }, .red { m4 with b := s0 }, .redd { m4 with b := s0 }, .dtok m0,
      .fence m0, .opcls { y0 with d := dsc 5, a := sc 6, b := sc 7 }] : List Instr).all (queueFree base) = true) ∧
    (([.swr { y0 with a := sc 7, sysn := 0x40 }, .patch { y0 with a := sc 4, b := sc 6, scope := 5 }] : List Instr).all (queueFree pl1)
      = true) ∧
    queueFree stored (.stl { m0 with d := dsc 5, a := sc 10 }) = true ∧ queueFree inChain (.mend x0) = true ∧
    queueFree idle (.fence m0) = true ∧ queueFree idle (.seal { m4 with h := uni, d := dsc 5 }) = true := by decide +kernel

/-- A strand queue with 32 entries. -/
def full : State := withWave fun w => { w with queue := List.replicate 32 ⟨0, .dtok, 1, [], [], none⟩ }

theorem test_wit_QueuedChecksTrap :
    (R (.stl { m0 with d := dsc 5, a := sc 10 }) base ∧ (queueFail base (wv base) (.stl { m0 with d := dsc 5, a := sc 10 })).map Fail.cause = some 5 ∧
      handled base 5 = true) ∧
    (R (.fence m0) full ∧ (queuedAs full (wv full) (.fence m0)).isSome = true ∧ queueFail full (wv full) (.fence m0) = none ∧
      (wv full).queue.length ≥ 32 ∧ handled full 12 = true) := by decide +kernel

/-- A strand queue with one entry. -/
def queued (op : QOp) : State := withWave fun w => { w with queue := [⟨24, op, 1, [], [], none⟩] }

def strandHead (s : State) : Wave :=
  { (wv s).newHead 3 ((wv s).st.pc + 12) with
    residual := (wv s).queue, queue := [], be := some (.strand { c0 with imm := 3 }, (wv s).st.pc), parity := 0 }

def isDone : Done → Bool
  | .done _ => true
  | _ => false

/-- A fault whose cause goes to the handler. -/
def isFault (s : State) : Done → Bool
  | .fault f => handled s f.cause
  | _ => false

theorem test_wit_StrandPerformsEntry :
    let s := queued (.swr 0x20 1 0)
    R (.strand { c0 with imm := 3 }) s ∧ (wv s).victim = false ∧ (wv s).wait = .none ∧ (wv s).queue = [⟨24, .swr 0x20 1 0, 1, [], [], none⟩] ∧
    absentOf (wv s) [] = [] ∧ s.blockRuns (wv s).block = true ∧
    (match performOp { s.setWave 0 (strandHead s) with free := s.free + 1 } 0 (strandHead s) ⟨24, .swr 0x20 1 0, 1, [], [], none⟩ with
     | .done t => decide ((wv t).residual = [⟨24, .swr 0x20 1 0, 1, [], [], none⟩] ∧ (wv t).wait = .none ∧ (wv t).lit = true ∧
        (wv t).victim = false ∧ (wv t).be = (strandHead s).be ∧ t.blockRuns (wv t).block = true)
     | _ => false) = true := by decide +kernel

def entryOf2 (op : QOp) : QEntry := ⟨24, op, 1, [], [], none⟩

/-- A tile of 4 by 4 words at level 0, an engine's claims on it. -/
def tiled (bd bs : Nat) : State := { base with tiles := [(0, ⟨.block 0, 0, 0, 2, 4, 4, [0], 64, bd, bs, [], false, false⟩)] }

theorem test_wit_StrandPerformsEntry_tiles :
    (errIs (tilePlace (tiled 0 0) (wv base) 0 0 4 0 4 true) (fun x => x = 2) = true ∧
      okIs (tilePlace (tiled 0 0) (wv base) 0 0 3 3 4 true) (fun x => x = (0, 60)) = true ∧ tsorted (tiled 0 0).tiles = true) ∧
    (findTile base 0 0).isNone = true ∧
    (∀ b ∈ [0, 1], (findTile (tiled b b) 0 0).map (fun x => (x.1, x.2.lvl, x.2.bd, x.2.bs)) = some (0, 0, b, b)) := by decide +kernel

theorem test_wit_StrandPerformsEntry_layouts :
    errIs (layAddr base 1 2) (fun _ => true) = true ∧ okIs (layAddr layouts 1 2) (fun va => va = 49248) = true ∧
    plainB layouts .store 49248 48 = true ∧ calmB layouts = true ∧ Memory.wf layouts.mem = true := by decide +kernel

/-- `n` seals of context `c`. -/
def sealedBefore (c n : Nat) : State := { base with seals := (List.range n).map fun i => ⟨c, 192 * i, 1⟩ }

theorem test_wit_StrandPerformsEntry_seals :
    (192 % 192 = 0 ∧ 192 + 192 * 2 ^ 24 ≤ vlim ∧ vlim - 192 + 192 ≤ vlim) ∧ base.seals = [] ∧ base.locks = [] ∧ base.sent = [] ∧
    ((sealedBefore 1 16).seals.length < 64 ∧ ((sealedBefore 1 16).seals.filter fun x => x.ctx = 1).length ≥ 16 ∧
      (sealedBefore 1 16).seals.contains ⟨1, 192, 1⟩ = true ∧ (sealedBefore 1 16).seals.contains ⟨1, 192 * 16, 1⟩ = false) ∧
    (sealedBefore 2 64).seals.length ≥ 64 ∧ (entryOf2 .dtok).stage = none := by decide +kernel

/-- A barrier object at the address 49152 of context 1. -/
def barState (b : Bar) : State := { base with mem := memWrite base.mem 98304 (leBytes 16 b.toNat) }
def barRef : DWord := 0x400000000000C000

theorem test_wit_StrandPerformsEntry_barriers :
    (∀ b ∈ [⟨0, 1, 1, 0, 0, 0, false, false, 0⟩, ⟨3, 0, 1, 0, 0, 0, false, false, 0⟩, ⟨3, 2, 2, 1, 7, 0, false, true, 0⟩,
        (⟨0, 0, 0, 0, 0, 0, false, false, 0⟩ : Bar)],
      okIs (barOfRef (barState b) (wv (barState b)) barRef) (fun x => x.1 = .mem 98304) = true ∧ barAt (barState b) (.mem 98304) = b ∧
      calmB (barState b) = true ∧ Memory.wf (barState b).mem = true) ∧
    base.isDet (wv base) = false ∧ hasSteps base 0 (wv base) = false ∧
    okIs (wakePlace base 0 1 49152 4 .load) (fun p => p.pa = 98304) = true ∧ calmB base = true := by decide +kernel

theorem test_wit_StrandEntryFails :
    let s := queued (.swr 0x20 32 0)
    R (.strand { c0 with imm := 3 }) s ∧ (wv s).victim = false ∧ (wv s).wait = .none ∧ absentOf (wv s) [] = [] ∧
    s.blockRuns (wv s).block = true ∧
    isFault s (performOp { s.setWave 0 (strandHead s) with free := s.free + 1 } 0 (strandHead s) ⟨24, .swr 0x20 32 0, 1, [], [], none⟩) = true := by decide +kernel

theorem test_wit_SystemWrites :
    base.wave 0 = some (wv base) ∧ sysRefused 0x20 32 = true ∧ sysRefused 0x20 31 = false ∧ sysRefused 0x40 193 = true ∧
    (∀ n ∈ [0x40, 0x43, 0x44, 0x45, 0x46, 0x47, 0x48, 0x49, 0x4B, 0x4C, 0x4D, 0x4E, 0x4F], sysRefused n 0 = false) ∧
    (tget base.ctxs (wv base).ctx).isSome = true ∧
    (∀ n ∈ [0x4A, 0x21, 0x32, 0x100, 0x13F, 0x141, 0x147, 0x150, 0x41, 0x50], sysRefused n 0 = false) ∧
    (wv inHandler).frame.isSome = true ∧ inHandler.wave 0 = some (wv inHandler) ∧ (2 ^ 42 - 1 : DWord).toNat < 2 ^ 42 ∧
    (2 ^ 42 : DWord).toNat ≥ 2 ^ 42 ∧ qdCtx (queueDesc base 0) ≠ 1 ∧ sysRefused 0x50 0xC00 = false ∧ sysRefused 0x32 12 = false := by
  decide +kernel

def gang4 : FmtX := { x0 with a := sc 4 }
def mrd0 : FmtX := { x0 with a := near 0 }
/-- An accumulator tile of the block: handle 0, 32 rows of 32 FP32 elements. -/
def accTile (s : State) : State := { s with tiles := [(0, ⟨.block 0, 0, 2, 2, 32, 32, [0], 4096, 0, 0, [], true, false⟩)] }
def held : State := (accTile base).setCore 0 { base.core 0 with steps := [⟨0, 0, [0], [], false, 0, false, .mzero 0 false, []⟩] }

/-- A wave formed from a bin, with a scalar set. -/
def binWave (v : Nat) : State := withWave fun w => { w with isBin := true, st := w.st.setS 4 (BitVec.ofNat 64 v) }
/-- The tile with an uncorrectable word in row 3. -/
def badTile (poison : Bool) : State :=
  { base with
    tiles := [(0, ⟨.block 0, 0, 2, 2, 32, 32, [0], 4096, 0, 0, [], true, poison⟩)], errs := [.tile 0 48] }

theorem test_wit_GangAndRead :
    (∀ b : Bool, R (.mrd mrd0) (badTile b) ∧ mrdHeld (badTile b) (wv (badTile b)) 0 = false ∧ tileQueued (wv (badTile b)) 0 = false ∧
      (findTile (badTile b) 0 0).map (fun e => (e.1, e.2.poison)) = some (0, b) ∧
      tileWordsBad (badTile b) 0 (((32 * 0 + 3) * 32 + 8 * 0) * fcBytes 0) (8 * fcBytes 0) = true ∧ handled (badTile b) 26 = true) ∧
    (R (.gang gang4) inChain ∧ (wv inChain).st.chain = true ∧ handled inChain 17 = true) ∧
    (R (.gang gang4) base ∧ read32w base (wv base) (sc 4) = 0 ∧ (wv base).st.chain = false) ∧
    (R (.gang gang4) (sv 4 2) ∧ bit (read32w (sv 4 2) (wv (sv 4 2)) (sc 4)) (wv (sv 4 2)).wid = false) ∧
    (R (.gang gang4) (sv 4 1) ∧ bit (read32w (sv 4 1) (wv (sv 4 1)) (sc 4)) (wv (sv 4 1)).wid = true) ∧
    (R (.gang gang4) (binWave 1) ∧ (wv (binWave 1)).isBin = true ∧ read32w (binWave 1) (wv (binWave 1)) (sc 4) ≠ 0) ∧
    (R (.gang gang4) (sv 4 127) ∧ (threads (read32w (sv 4 127) (wv (sv 4 127)) (sc 4))).length = 7) ∧
    (R (.mrd mrd0) base ∧ maTileFault base (wv base).block 0 (some (0, 0)) = some (7 * 16 + 1) ∧ handled base 7 = true) ∧
    (let s := accTile (queued (.mzero 0 false)); R (.mrd mrd0) s ∧ maTileFault s (wv s).block 0 (some (0, 0)) = none ∧ tileQueued (wv s) 0 = true) ∧
    (R (.mrd mrd0) held ∧ maTileFault held (wv held).block 0 (some (0, 0)) = none ∧ tileQueued (wv held) 0 = false ∧
      mrdHeld held (wv held) 0 = true) ∧
    (R (.mrd mrd0) (accTile base) ∧ mrdHeld (accTile base) (wv base) 0 = false ∧
      (findTile (accTile base) (wv base).block 0).map Prod.fst = some 0 ∧ tileBad (accTile base) 0 = false) := by decide +kernel

def bincfg (n : BitVec 7) : FmtE := { e0 with a := sc 4, b := sc 5, sub := n }
/-- A bin with entry address 0 that holds one thread. -/
def bin0 (refused : Option Nat) (expired : Bool) : Bin :=
  ⟨0, 0, [⟨[7], ⟨false, false, 0, 0, 0, 0, 0, 0, [], 0, 0, [], 0⟩⟩], 0, 100, expired, refused⟩
def binned (s : State) (refused : Option Nat) : State := s.setCore 0 { s.core 0 with bins := [(0, bin0 refused false)] }

theorem test_wit_BinControl :
    (R (.bincfg (bincfg 3)) idle ∧ (wv idle).st.act h0 = 0) ∧
    (R (.bincfg (bincfg 3)) base ∧ (wv base).st.act h0 ≠ 0 ∧ (tget base.blocks (wv base).block).isSome = true ∧
      (base.core (wv base).core).bins = []) ∧
    (R (.bincfg (bincfg 1)) (binned base none) ∧ ((wv (binned base none)).st.s 4).toNat = 0 ∧
      ((binned base none).core 0).bins = [(0, bin0 none false)] ∧ (bin0 none false).threads ≠ []) ∧
    (R (.bincfg (bincfg 1)) (binned base (some 0)) ∧ ((binned base (some 0)).core 0).bins = [(0, bin0 (some 0) false)]) := by decide +kernel
/-! Steps of the power control, messages. -/

def starved : State := withWave fun w => { w with starve := 4 }

theorem test_wit_RotationSteps :
    (base.core 0).lumens ≤ 256 ∧ (0 : Nat) < 192 ∧ (192 : Nat) ≤ 192 ∧
    (base.side 1).denied < 4 ∧ (let s := base.setSide 1 { Side.reset with denied := 4 };
      (s.side 1).denied ≥ 4 ∧ 1 % 4 ∉ (s.core (1 / 4)).reserved) ∧
    (let s := base.setCore 0 { base.core 0 with reserved := [1] }; 1 % 4 ∈ (s.core (1 / 4)).reserved) ∧ (768 : Nat) ≤ 768 ∧
    (starved.wave 0 = some (wv starved) ∧ canIssue starved 0 (wv starved) = true ∧ (wv starved).starve ≥ 4) ∧
    base.wave 1 = none ∧ (canIssue base 0 (wv base) = true ∧ (wv base).starve < 4) := by decide +kernel

/-- The wave waits in its VIGIL at the word of page 1; `timed` with a budget. -/
def vigilAt (timed : Bool) (budget : Nat) (withdraw : Bool) : Vigil :=
  ⟨0, .wave 0, 1, 49152, .mem 98304, false, 1, 0, 0, .plain, 0, timed, budget, 0, 2, none, withdraw⟩
def waiting (v : Vigil) : State :=
  let s := withWave fun w => { w with
    lit := false, wait := .vigil, vpend := some ⟨5, 0, 2, 24, true⟩, waited := 1000000, st := { w.st with pc := 36 }, head := { w.st with pc := 36 } }
  { s with vigils := [(0, v)] }
def window : State := base.setDie 0 { base.die 0 with usec := 10 }
def captures (en : Bool) : State := base.setDie 0 { base.die 0 with capture := [(3, { Capture.reset with en := en, ctx := 1 })] }

theorem test_wit_TickSteps :
    (tget (waiting (vigilAt true 7 false)).vigils 0 = some (vigilAt true 7 false) ∧ (vigilAt true 7 false).timed = true ∧
      (waiting (vigilAt true 7 false)).wave 0 = some (wv (waiting (vigilAt true 7 false))) ∧
      dieOfCore (wv (waiting (vigilAt true 7 false))).core = 0) ∧
    (vigilAt false 0 false).timed = false ∧ (4 : Nat) < 5 ∧
    ((base.die 0).usec / 10 ≤ (base.side 0).winUs ∧ (window.die 0).usec / 10 > (window.side 0).winUs) ∧
    (tget ((captures false).die 0).capture 3).map Capture.en = some false ∧
    (tget ((captures true).die 0).capture 3).map Capture.en = some true := by decide +kernel

def retained : State := base.setQuad 3 { Quad.reset with retention := true }

theorem test_wit_PowerSteps :
    ((base.quad 3).retention = false) ∧
    ((retained.quad 3).retention = true ∧ (tget retained.ctxs 1).isSome = true ∧ tget retained.ctxs 9 = none ∧ (1 : Nat) ≠ 4095) := by
  decide +kernel

/-- A read or write of four bytes of context 1 at a virtual address. -/
def acc (typ : BitVec 4) (va : BitVec 57) : Msg :=
  ⟨0, 0, typ, if typ = 2 then 1 else 0, 1, 6, va, 0, 3, if typ = 2 then List.replicate 24 0 else []⟩
def owned (s : State) (m : Msg) : Bool :=
  taken s m && !s.minimal && decide ((tget s.ctxs m.ctx.toNat).map Ctx.owner = some m.src.toNat) && decide (m.ctx ≠ 4095)

/-- Descriptor 0 of the queue table: context `ctx`, weight, quantum and mask set, enabled or not. -/
def queueTable (ctx weight : Nat) : State :=
  { base with mem := memWrite base.mem 0 (leBytes 48 (ctx * 2 ^ 225 + weight * 2 ^ 264 + 2 ^ 240 + 2 ^ 272)) }
/-- The same under a management node that is not the owner of context 1, which is node 0. -/
def managed : State := { queueTable 1 1 with mgmtNode := 9 }
/-- An access to the management context, of four bytes. -/
def mgmtAcc (typ : BitVec 4) (va : BitVec 57) : Msg := { acc typ va with ctx := 4095 }

theorem test_wit_FabricAccesses :
    taken base { acc 0 0 with dst := 1 } = false ∧
    (∀ x ∈ [(false, acc 0 49152), (true, acc 2 49152)], taken base x.2 = true ∧ accessBad x.2 x.1 = false ∧ owned base x.2 = true ∧
      accessBad { x.2 with scope := 0 } x.1 = true ∧ taken { base with minimal := true } x.2 = true ∧
      accessBad { x.2 with ctx := 7 } x.1 = false ∧ tget base.ctxs 7 = none ∧ accessBad { x.2 with src := 5 } x.1 = false ∧
      (tget base.ctxs 1).map Ctx.owner ≠ some 5) ∧
    errIs (xlate base .hub 1 0x1000000 .load) (fun _ => true) = true ∧ errIs (xlate base .hub 1 0 .store) (fun _ => true) = true ∧
    okIs (xlate base .hub 1 49152 .load) (fun p => !accessErrs base p.pa 4 && accessErrs { base with errs := [.tier 2048] } p.pa 4) = true ∧
    okIs (xlate base .hub 1 49152 .store) (fun p => !sealedBy base 1 49152 4 && sealedBy { base with seals := [⟨1, 49152, 1⟩] } 1 49152 4 &&
      !vigilErr base (.mem p.pa) 4) = true ∧
    vigilErr { waiting (vigilAt false 0 false) with errs := [.vigil 0] } (.mem 98304) 4 = true ∧ Memory.wf base.mem = true := by decide +kernel

theorem test_wit_FabricAccesses_management :
    (∀ x ∈ [(false, mgmtAcc 0 44), (true, mgmtAcc 2 44), (true, mgmtAcc 2 40), (true, { mgmtAcc 2 49152 with src := 9 }),
        (false, { mgmtAcc 0 44 with src := 9 })],
      taken managed x.2 = true ∧ accessBad x.2 x.1 = false ∧ managed.minimal = false ∧ (tget managed.ctxs 4095).isSome = true) ∧
    (mgmtAcc 2 44).src.toNat ≠ managed.mgmtNode ∧
    ((44 : BitVec 57).toNat / 48 < 1024 ∧ (44 : BitVec 57).toNat % 48 ≥ 44 ∧ (44 : BitVec 57).toNat % 48 + msgBytes (mgmtAcc 2 44) ≤ 48 ∧
      qdCtx (queueDesc managed 0) = 1 ∧ (tget managed.ctxs 1).map Ctx.owner = some (mgmtAcc 2 44).src.toNat) ∧
    Memory.wf managed.mem = true := by decide +kernel

/-- A command with an argument. -/
def cmd (code : BitVec 8) (ctx : BitVec 12) (arg : BitVec 64) : Msg := ⟨0, 0, 4, 0, ctx, 0, 0, code, arg, []⟩

def commandedB (s : State) (m : Msg) (code : Nat) : Bool :=
  taken s m && decide (m.typ = 4) && decide (m.cmd.toNat = code) && decide (m.len = 0) && (!s.minimal || decide (code ∈ [1, 0x0B, 0x0C, 0x0D]))

theorem commanded_of {s : State} {m : Msg} {code : Nat} (h : commandedB s m code = true) : Commanded s m code := by
  simp only [commandedB, Bool.and_eq_true, Bool.or_eq_true, decide_eq_true_eq, Bool.not_eq_true'] at h
  exact ⟨h.1.1.1.1, h.1.1.1.2, h.1.1.2, h.1.2, fun m => h.2.resolve_left (by rw [m]; decide)⟩

theorem test_wit_ModuleCommands :
    (∀ c ∈ [1, 11, 12, 13], commandedB { base with minimal := true } (cmd (BitVec.ofNat 8 c) 0 0) c = true) ∧
    (∀ c ∈ [2, 3, 4, 5, 6, 7, 8, 9, 10], taken base (cmd (BitVec.ofNat 8 c) 1 0) = true ∧ ({ cmd (BitVec.ofNat 8 c) 1 0 with len := 1 } : Msg).len ≠ 0 ∧
      taken { base with minimal := true } (cmd (BitVec.ofNat 8 c) 1 0) = true) ∧
    (let m := { cmd 12 0 3 with data := [1, 2, 3] }; commandedB base m 12 = true ∧ m.data.length = m.arg.toNat) ∧
    (⟨0, 9, 4, 0, 0, 0, 0, 10, 0, []⟩ : Msg).src.toNat ≠ base.mgmtNode ∧ taken base { cmd 0 0 0 with typ := 7 } = true ∧
    commandedB base (cmd 1 0 0) 1 = true ∧ commandedB base (cmd 11 0 0) 11 = true ∧ base.sigIndex < 2 ^ 40 ∧
    (let s := { base with sigIndex := 2 ^ 40 }; commandedB s (cmd 11 0 0) 11 = true ∧ s.sigIndex ≥ 2 ^ 40) ∧
    (commandedB base (cmd 12 0 0) 12 = true ∧ (cmd 12 0 0).src.toNat = base.mgmtNode ∧ (cmd 12 0 0).data.length = (cmd 12 0 0).arg.toNat) ∧
    (cmd 12 0 1).data.length ≠ (cmd 12 0 1).arg.toNat ∧ (⟨0, 9, 4, 0, 0, 0, 0, 12, 0, []⟩ : Msg).src.toNat ≠ base.mgmtNode ∧
    (commandedB base (cmd 10 1 0x4000) 10 = true ∧ bitsOf 0x4000 8 8 = 0 ∧ (tget base.ctxs 1).isSome = true ∧ tget base.ctxs 7 = none ∧
      0x4000 % 256 < 7) ∧ bitsOf 0x100 8 8 = 1 ∧
    (taken base (cmd 0x99 0 0) = true ∧ (cmd 0x99 0 0).typ = 4 ∧ (cmd 0x99 0 0).cmd.toNat > 0x0D) := by decide +kernel

theorem test_wit_Restart :
    (commandedB base (cmd 13 0 0) 13 = true ∧ (cmd 13 0 0).src.toNat = base.mgmtNode ∧
      commandedB base { cmd 13 0 0 with src := 9 } 13 = true ∧ (9 : BitVec 19).toNat ≠ base.mgmtNode) ∧
    base.started = true ∧ (10 : Nat) > 9 ∧ (let s := { base with started := false }; s.started = false ∧ s.nextFw = []) ∧ (3 : Nat) ≤ 9 ∧
    commandedB { base with minimal := true } (cmd 13 0 0) 13 = true := by decide +kernel

/-- Context 1 with one escalated block in slot 0. -/
def escalated (lost : Bool) : State :=
  { base with blocks := [(0, { placeBlock with status := .escalated, lost := lost })] }
/-- Context 1 with its save area at page 1, an access that failed there. -/
def areaAt1 (failed : List SaFailure) : State :=
  { base with ctxs := tset base.ctxs 1 { Ctx.fresh 0 49152 0 with regs := [(0x41, 0x2001)], failed := failed, halted := true } }
/-- The escalated block with its save area at page 1. -/
def escalatedAt1 : State := { areaAt1 [] with blocks := [(0, { placeBlock with status := .escalated })] }
/-- Queue 0 of context 1 in the table, enabled, with its copy in the dispatcher. -/
def tableEnabled (running : Option Nat) : State :=
  { base with
    mem := memWrite base.mem 0 (leBytes 48 (2 ^ 225 + 2 ^ 264 + 2 ^ 240 + 2 ^ 272 + 2 ^ 224))
    queues := [(0, ⟨2 ^ 225 + 2 ^ 264 + 2 ^ 240 + 2 ^ 272 + 2 ^ 224, 0, 0, running, false⟩)] }

theorem test_wit_ContextCommands_areas :
    (commandedB (areaAt1 []) (cmd 5 1 0) 5 = true ∧ (tget (areaAt1 []).ctxs 1).map Ctx.failed = some [] ∧
      okIs (saWrite ((areaAt1 []).modCtx 1 fun c => { c with failed := [], halted := false }) 1 (49152 + 20) (leBytes 4 0)) (fun _ => true) = true) ∧
    errIs (saWrite (base.modCtx 1 fun c => { c with failed := [], halted := false }) 1 (0 + 20) (leBytes 4 0)) (fun _ => true) = true ∧
    (let f : SaFailure := ⟨0, 2, 0x1000000, .read 48⟩
     commandedB (areaAt1 [f]) (cmd 5 1 0) 5 = true ∧
     errIs (saRead ((areaAt1 [f]).modCtx 1 fun c => { c with failed := [] }) 1 f.va 48) (fun _ => true) = true) ∧
    (commandedB escalatedAt1 (cmd 6 1 0) 6 = true ∧ commandedB escalatedAt1 (cmd 7 1 0) 7 = true ∧
      okIs (tryHeader (escalatedAt1.setBlock 0 { placeBlock with status := .swapped }) 0) (fun _ => true) = true) ∧
    (∀ r ∈ [none, some 3], commandedB (tableEnabled r) (cmd 9 1 0x400) 9 = true ∧ qdCtx (queueDesc (tableEnabled r) 0) = 1 ∧
      Memory.wf (tableEnabled r).mem = true ∧ tsorted (tableEnabled r).queues = true ∧
      (tget (tableEnabled r).queues 0).map Queue.running = some r) ∧
    Memory.wf (queueTable 1 1).mem = true := by decide +kernel

theorem test_wit_ContextCommands :
    (∀ c ∈ [3, 4, 5, 6, 7, 8, 9], commandedB base (cmd (BitVec.ofNat 8 c) 1 0) c = true) ∧
    tget base.ctxs 7 = none ∧ (tget base.ctxs 4095).isSome = true ∧ (tget base.ctxs 1).map Ctx.owner = some 0 ∧
    (tget base.ctxs 1).map Ctx.rloss = some false ∧ (tget base.ctxs 1).map Ctx.failed = some [] ∧ tsorted base.ctxs = true ∧
    (∀ e ∈ base.blocks, ¬(e.2.ctx = 1 ∧ e.2.status = .stranded)) ∧
    (let s := { base with ctxs := tset base.ctxs 1 { Ctx.fresh 0 0 0 with rloss := true } }; (tget s.ctxs 1).map Ctx.rloss = some true) ∧
    (cmd 6 1 0x4000).arg.toNat ≥ 2 ^ 14 ∧ (∀ e ∈ base.blocks, ¬(e.2.ctx = 1 ∧ e.2.slot = 0 ∧ e.2.status = .escalated)) ∧
    (∀ l : Bool, ((escalated l).blocks.find? (fun e => e.2.ctx = 1 && e.2.slot = 0 && e.2.status = .escalated)).map (fun e => e.2.lost) =
      some l) ∧
    (cmd 8 1 0x100000000).arg.toNat ≥ 2 ^ 32 ∧ pageOff (cmd 8 1 0).va.toNat = 0 ∧
    0xC00 / 1024 ≥ 3 ∧ qdCtx (queueDesc base 0) ≠ 1 ∧ qdCtx (queueDesc (queueTable 1 1) 0) = 1 ∧
    descRefused (queueDesc (queueTable 1 1) 0) = false ∧ descRefused (queueDesc (queueTable 1 0) 0) = true := by decide +kernel

/-- The header of a save area of one slot at page 1, for a context that shares the page tables. -/
def saved : State := { base with mem := memWrite base.mem 98304 (leBytes 192 (saHeader 1)) }
def create (n : BitVec 12) : Msg := { cmd 2 n 0x2001 with va := 49152 }
def made : Ctx := { Ctx.fresh 0 49152 0 with regs := [(0x41, 0x2001)] }

theorem test_wit_ContextCreated :
    (commandedB saved (create 1) 2 = true ∧ (tget saved.ctxs 1).isSome = true) ∧
    (commandedB saved (create 2) 2 = true ∧ tget saved.ctxs 2 = none ∧ sysRefused 0x41 (create 2).arg = false ∧
      (create 2).va.toNat % 49152 = 0 ∧ sysRefused 0x41 2 = true) ∧
    (let s1 := { saved with ctxs := tset saved.ctxs 2 made };
      okIs (saRead s1 2 49152 192) (fun bs => bitsOf (leNat bs) 159 128 = 1 && maskHeader (leNat bs) = saHeader 1) = true ∧
      okIs (saWrites s1 2 [(49152 + 20, List.replicate 4 0), (49152 + 32, List.replicate 32 0)]) (fun _ => true) = true) ∧
    (let s1 := { base with ctxs := tset base.ctxs 2 made };
      okIs (saRead s1 2 49152 192) (fun bs => bitsOf (leNat bs) 159 128 = 0) = true) := by decide +kernel

/-! Waiting waves. -/

def entryOf (op : QOp) (stage : Option Nat) : QEntry := ⟨12, op, 0xFFFFFFFF, [], [], stage⟩
/-- The wave waits in step 3 of its boundary, at a STRAND, with one entry. -/
def inBoundary (op : QOp) (stage : Option Nat) (why : Wait) : State :=
  withWave fun w => { w with
    lit := false, wait := why, residual := [entryOf op stage], be := some (.strand { c0 with imm := 48 }, 24), absent := [] }

def waitsB (s : State) (e : QEntry) (f : FmtC) (pc : DWord) : Bool :=
  decide (s.wave 0 = some (wv s)) && boundaryWaits (wv s) && s.blockRuns (wv s).block && decide ((wv s).residual = [e]) &&
  decide ((wv s).be = some (.strand f, pc)) && (absentOf (wv s) e.dsts).isEmpty

theorem waits_of {s : State} {e : QEntry} {f : FmtC} {pc : DWord} (h : waitsB s e f pc = true) : WaitsAt s 0 (wv s) e f pc := by
  simp only [waitsB, Bool.and_eq_true, decide_eq_true_eq, List.isEmpty_iff] at h
  obtain ⟨⟨⟨⟨⟨a, b⟩, c⟩, d⟩, e⟩, g⟩ := h
  exact ⟨a, b, c, d, e, g⟩

def isWait (d : Done) (p : State → Option Nat → Wait → Bool) : Bool :=
  match d with
  | .wait s st why => p s st why
  | _ => false
def doneB (d : Done) (p : State → Bool) : Bool :=
  match d with
  | .done s => p s
  | _ => false

/-- An `swr` of XLINV waits for its invalidation; a `dtok` is done at once. -/
def swrWaits : State := inBoundary (.swr 0x42 0 0) none .boundary
def tokWaits : State := inBoundary .dtok none .boundary

theorem test_wit_BoundaryResumes :
    base.wave 9 = none ∧ (base.wave 0 = some (wv base) ∧ boundaryWaits (wv base) = false) ∧
    (waitsB swrWaits (entryOf (.swr 0x42 0 0) none) { c0 with imm := 48 } 24 = true ∧
      (let w0 := { wv swrWaits with wait := .none }
       isWait (performOp { swrWaits.setWave 0 w0 with free := swrWaits.free + 1 } 0 w0 (entryOf (.swr 0x42 0 0) none)) (fun s1 _ why => decide (why ≠ .none) &&
         (s1.wave 0).isSome) = true)) ∧
    (waitsB tokWaits (entryOf .dtok none) { c0 with imm := 48 } 24 = true ∧
      (let w0 := { wv tokWaits with wait := .none }
       doneB (performOp { tokWaits.setWave 0 w0 with free := tokWaits.free + 1 } 0 w0 (entryOf .dtok none)) (fun s1 => ((s1.wave 0).map fun w1 =>
         decide (w1.residual = [entryOf .dtok none]) && decide (w1.wait = .none) && !w1.lit && decide (w1.be = (wv tokWaits).be) && s1.blockRuns w1.block) =
           some true) = true)) := by decide +kernel

/-- A wake with value 5 on its way to wave 0. -/
def awake (s : State) : State := { s with wakes := [⟨.wave 0, 49152, 5, true, none, false, none⟩] }
/-- The same with the wave's block swapped out, and the save area at page 1 or on an unmapped page. -/
def awakeOut (sabase : Nat) : State :=
  let s := awake (waiting (vigilAt false 0 false))
  { s with
    ctxs := tset s.ctxs 1 { Ctx.fresh 0 sabase 0 with regs := [(0x41, 0x2001)] }
    blocks := [(0, { placeBlock with status := .swapped })] }

theorem test_wit_VigilSteps :
    (vigilOf (waiting (vigilAt true 0 false)) 0 = some (vigilAt true 0 false) ∧ (vigilAt true 0 false).timed = true ∧
      (vigilAt true 0 false).budget = 0) ∧
    (vigilOf (waiting (vigilAt false 0 false)) 0 = some (vigilAt false 0 false) ∧ (vigilAt false 0 false).timed = false ∧
      (vigilAt false 0 false).withdraw = false) ∧
    (vigilOf (waiting (vigilAt false 0 true)) 0 = some (vigilAt false 0 true) ∧ (vigilAt false 0 true).withdraw = true ∧
      (vigilAt false 0 true).kind ≠ .phase) ∧
    base.wakes[0]? = none ∧ ((awake base).wakes[0]?.map Wake.waiter = some (.wave 0) ∧ (awake { base with waves := [] }).wave 0 = none) ∧
    (let s := awake (waiting (vigilAt false 0 false))
     s.wakes[0]? = some ⟨.wave 0, 49152, 5, true, none, false, none⟩ ∧ s.wave 0 = some (wv s) ∧ s.residentBlock (wv s).block = true ∧
       (wv s).wait = .vigil ∧ (wv s).vpend = some ⟨5, 0, 2, 24, true⟩ ∧ inRelease s 0 = false ∧ (wv s).lit = false ∧ s.sent = []) := by
  decide +kernel

theorem test_wit_VigilSteps_swapped :
    (∀ a ∈ [49152, 100 * 49152],
      (awakeOut a).wakes[0]? = some ⟨.wave 0, 49152, 5, true, none, false, none⟩ ∧ (awakeOut a).wave 0 = some (wv (awakeOut a)) ∧
      (awakeOut a).residentBlock (wv (awakeOut a)).block = false ∧ (wv (awakeOut a)).wait = .vigil ∧
      knownFailed (awakeOut a) (wv (awakeOut a)).ctx (.wake 0) = false ∧ (tget (awakeOut a).ctxs (wv (awakeOut a)).ctx).isSome = true ∧
      (tget (awakeOut a).blocks (wv (awakeOut a)).block).isSome = true) ∧
    okIs (recordResult (dropWake (awakeOut 49152) 0) (wv (awakeOut 49152)) 5 true) (fun _ => true) = true ∧
    errIs (recordResult (dropWake (awakeOut (100 * 49152)) 0) (wv (awakeOut (100 * 49152))) 5 true) (fun _ => true) = true := by
  decide +kernel

def limited (n : Nat) (v : Vigil) : State := (waiting v).setCtxReg 1 0x4E (BitVec.ofNat 64 n)
/-- The launch of the waiting wave, quiet for `n` microseconds. -/
def quiet (n : Nat) : State := { waiting (vigilAt false 0 false) with launches := [(0, { placeLaunch with quiet := n })] }
/-- The launch with a second wave in a swapped-out block, both waiting, beside a wave of another launch. -/
def withdrawn : State :=
  let s := quiet 100
  let v := vigilAt false 0 false
  { s with
    waves := [(0, wv s), (1, { wv s with block := 1 }), (2, { wv base with block := 2 })]
    blocks := [(0, placeBlock), (1, { placeBlock with status := .swapped, slot := 1 }), (2, { placeBlock with launch := 1 })]
    vigils := [(0, v), (1, { v with id := 1, waiter := .wave 1 })] }
def mineB (s : State) (w : Wave) : Bool := decide ((tget s.blocks w.block).map Block.launch = some 0) && decide (w.wait ≠ .ended)

theorem test_wit_QuiescenceSteps :
    (∀ v ∈ [vigilAt false 0 false, vigilAt true 0 false], vigilOf (waiting v) 0 = some v ∧ (waiting v).wave 0 = some (wv (waiting v))) ∧
    (let s := waiting (vigilAt false 0 false)
     (s.ctxReg 1 0x4E).toNat % 2 ^ 32 ≠ 0 ∧ (wv s).waited ≥ (s.ctxReg 1 0x4E).toNat % 2 ^ 32 ∧ s.residentBlock (wv s).block = true ∧
       (wv s).vpend = some ⟨5, 0, 2, 24, true⟩ ∧ handled s 23 = true) ∧
    ((limited 0 (vigilAt false 0 false)).ctxReg 1 0x4E).toNat % 2 ^ 32 = 0 ∧
    (wv (limited 1000001 (vigilAt false 0 false))).waited < ((limited 1000001 (vigilAt false 0 false)).ctxReg 1 0x4E).toNat % 2 ^ 32 ∧
    vigilOf base 0 = none ∧ (tget (quiet 0).launches 0).map Launch.quiet = some 0 ∧
    ((tget (quiet 100).launches 0).map Launch.quiet = some 100 ∧ quiescent (quiet 100) 0 = true) ∧ quiescent base 0 = false := by
  decide +kernel

theorem test_wit_QuiescenceSteps_withdrawn :
    (tget withdrawn.launches 0).map Launch.quiet = some 100 ∧ quiescent withdrawn 0 = true ∧ tsorted withdrawn.waves = true ∧
    (∀ e ∈ withdrawn.waves, mineB withdrawn e.2 = true → withdrawn.residentBlock e.2.block = true →
      e.2.vpend.isSome = true ∧ trapToHost withdrawn e.2.rollback 23 = false) ∧
    (∀ x ∈ [(0, true, true), (1, true, false), (2, false, true)], ((withdrawn.wave x.1).map fun w =>
      (mineB withdrawn w, withdrawn.residentBlock w.block)) = some x.2) := by
  decide +kernel

/-- Granules 0 and 14 are absent: the first is read at address 960 of page 0; with a save area on an unmapped page, or with an
uncorrectable error in it, neither is. -/
def absentWave : State := withWave fun w => { w with absent := [0, 14] }
def absentLost : State := { absentWave with ctxs := tset absentWave.ctxs 1 { Ctx.fresh 0 (100 * 49152) 0 with regs := [(0x41, 0x2001)] } }
def absentBad (lit : Bool) : State :=
  let s := withWave fun w => { w with lit := lit, absent := [0, 14] }
  { s with errs := [.tier ((49152 + 960) / 48)] }
def parityWave (lit : Bool) (n : Nat) : State := withWave fun w => { w with lit := lit, parity := n }
def granuleB (s : State) (p : Except SaFail (List Byte) → Bool) : Bool :=
  ((tget s.ctxs 1).map fun c => p (saRead s 1 (saAddr c 1 0 0) 2048)).getD false

theorem test_wit_FillsAndParity :
    (∀ s ∈ [absentWave, absentLost, absentBad true, absentBad false], s.wave 0 = some (wv s) ∧ 3 ∉ (wv s).absent ∧ 0 ∈ (wv s).absent ∧
      s.residentBlock (wv s).block = true ∧ knownFailed s (wv s).ctx (.read 1) = false ∧ (tget s.blocks 0).map Block.slot = some 0) ∧
    granuleB absentWave (fun r => okIs r fun _ => true) = true ∧
    (∀ lit : Bool, granuleB (absentBad lit) (fun r => errIs r fun e => decide (e.1 = 0)) = true ∧
      isLit (absentBad lit) (wv (absentBad lit)) = lit ∧ handled (absentBad lit) 26 = true) ∧
    granuleB absentLost (fun r => errIs r fun e => decide (e.1 ≠ 0)) = true ∧ 0 < (wv absentLost).farRegs / 16 ∧
    (wv (parityWave false 0)).lit = false ∧ (isLit (parityWave true 1) (wv (parityWave true 1)) = true ∧ (wv (parityWave true 1)).parity < 2) ∧
    dieOfCore (wv (parityWave true 1)).core < 4 ∧
    (isLit (parityWave true 2) (wv (parityWave true 2)) = true ∧ (wv (parityWave true 2)).parity ≥ 2 ∧ handled (parityWave true 2) 26 = true) := by
  decide +kernel

/-- An invalidation of context 1's page 0 under way; with `busy` an engine's source lock lies in it. -/
def invalidating (busy : Bool) : State :=
  { base with xlinvs := [⟨0, 1, 0, 1, none, none⟩], locks := if busy then [⟨0, 1, [0], 0, 0, false⟩] else [] }
/-- One of page 1, where the wave waits in its VIGIL. -/
def invalWaiting : State := { waiting (vigilAt false 0 false) with xlinvs := [⟨0, 1, 1, 1, none, none⟩] }
/-- Two steps on tile 0 of core 0, the second behind the first. -/
def matStep (id : Nat) (op : QOp) (rows : List MmaOp) : MStep := ⟨id, 0, [0], [], false, 0, false, op, rows⟩
def stepping (op : QOp) (rows : List MmaOp) : State :=
  (accTile base).setCore 0 { base.core 0 with steps := [matStep 4 op rows, matStep 7 op rows] }
def steppingB (op : QOp) (rows : List MmaOp) : Bool :=
  let s := stepping op rows
  decide (s.cores.find? (fun c => c.2.steps.any fun st => st.id = 4) = some (0, s.core 0)) && decide (tget s.cores 0 = some (s.core 0)) &&
  decide ((s.core 0).steps.find? (fun st => st.id = 4) = some (matStep 4 op rows)) && stepReady (s.core 0).steps (matStep 4 op rows) &&
  decide (matTile op = some 0) && ((findTile s 0 0).map fun e => decide (tget s.tiles e.1 = some e.2) && tsorted e.2.data) == some true &&
  tsorted s.tiles && decide (s.wave 0 = some (wv s))
/-- An MMA on tile 0 with both operands in registers, which hold `a` and `b`. -/
def regMma (a b : Word) : MmaOp :=
  ⟨0, 1, false, false, 0, 0, false, 3, 3, 0, 0, List.replicate 32 (List.replicate 8 a), List.replicate 32 (List.replicate 8 b), [], []⟩
/-- A patch of the instruction at 0 from 49152; a second wave is lit within its range. -/
def patchOp : QOp := .patch 5 0 49152 1
def patching (p : Tab Patch) : State :=
  let s := inBoundary patchOp (some 1) .patch
  { s with waves := [(0, wv s), (1, wv base)], patches := p }

theorem test_wit_HeldUpSteps :
    base.xlinvs.find? (fun x => x.id = 0) = none ∧
    (∀ b : Bool, ((invalidating b).xlinvs.find? (fun x => x.id = 0)).map (invalBusy (invalidating b)) = some b) ∧
    (invalidating false).vigils = [] ∧ (invalidating false).sent = [] ∧ knownFailed (invalidating false) 1 (.rewind 0) = false ∧
    (let v := vigilAt false 0 false
     (invalWaiting.xlinvs.find? (fun x => x.id = 0)).map (fun x => (invalBusy invalWaiting x, knownFailed invalWaiting x.ctx (.rewind 0),
       invalVigils invalWaiting x)) = some (false, false, [v]) ∧ invalWaiting.sent = [] ∧ invalWaiting.vigils = [(v.id, v)] ∧ v.kind = .plain ∧
       v.waiter = .wave 0 ∧ invalWaiting.wave 0 = some (wv invalWaiting) ∧ invalWaiting.residentBlock (wv invalWaiting).block = true ∧
       (wv invalWaiting).vpend = some ⟨5, 0, 2, 24, true⟩) ∧
    (∀ c ∈ base.cores, ∀ y ∈ c.2.steps, y.id ≠ 4) := by decide +kernel

theorem test_wit_HeldUpSteps_matrix :
    steppingB (.mzero 0 false) [] = true ∧
    (let s := stepping (.mzero 0 false) []
     (s.core 0).steps.find? (fun st => st.id = 7) = some (matStep 7 (.mzero 0 false) []) ∧
     stepReady (s.core 0).steps (matStep 7 (.mzero 0 false) []) = false) ∧
    (let regs := List.replicate 32 (List.replicate 8 (0x3F800000 : Word))
     steppingB (.mwr 0 0 0 0 regs false) [] = true ∧ 8 * 0 + 8 ≤ 32 ∧ (∀ r ∈ regs, 4 * r.length = 8 * fcBytes 0) ∧
       regs[3]? = some (List.replicate 8 0x3F800000)) ∧
    (let alpha := List.replicate 32 (0x40000000 : DWord)
     steppingB (.mscl 0 0 0 0 alpha false) [] = true ∧ alpha[3]? = some 0x40000000) ∧
    (steppingB (.mma (regMma 1 2) false false) [regMma 1 2] = true ∧ (regMma 1 2).aT = false ∧ (regMma 1 2).bT = false ∧ 31 < 32 * 1 ∧
      0 < fcBytes (regMma 1 2).fc) := by decide +kernel

theorem test_wit_HeldUpSteps_patch :
    (base.wave 0 = some (wv base) ∧ (wv base).residual = []) ∧
    (∀ p ∈ [[], [(0, (⟨1, scopeCores 5 0, 0, 12, []⟩ : Patch))]], waitsB (patching p) (entryOf patchOp (some 1)) { c0 with imm := 48 } 24 = true ∧
      (wv (patching p)).lit = false ∧ tget (patching p).patches 0 = (p.head?).map Prod.snd ∧ raceOn (patching p) 1 = false ∧
      okIs (xlate (patching p) .hub 1 49152 .load) (fun _ => true) = true ∧ okIs (xlate (patching p) .hub 1 0 .fetch) (fun _ => true) = true ∧
      Memory.wf (patching p).mem = true ∧ tsorted (patching p).waves = true ∧ tsorted (patching p).patches = true ∧
      ∀ b ∈ (patching p).blocks, 0 ∉ b.2.parked) ∧
    (((patching []).wave 1).map fun x => isLit (patching []) x && decide (x.ctx = 1) && decide (x.core ∈ scopeCores 5 0) &&
      decide (x.st.pc.toNat / 192 = 0)) = some true := by decide +kernel
/-! Engines, dispatcher, distributor. -/

/-- Operation 0: 48 bytes from one place of context 1 to another. -/
def copyOp (src dst : EndPt) (items : Tab EngItem) : EngOp :=
  ⟨.record src dst 48, 1, 0, 0, 0, 1, .none, items, false, 48, 0, false, false, false⟩
def copying (o : EngOp) : State := { base with engops := [(0, o)] }
def freshCopy : EngOp := copyOp (.mem 49152) (.mem 49248) []
def readCopy : EngOp := copyOp (.mem 49152) (.mem 49248) [(0, .read (List.replicate 48 7))]
/-- A copy from a tile of block 0, and one of 96 bytes of which the first 24 are read, with a barrier object at address 49632. -/
def tileCopy : State := { accTile base with engops := [(0, copyOp (.tile 0 0) (.mem 49248) [])] }
def half (total : Nat) (bar : BarRef) : EngOp :=
  { copyOp (.mem 49152) (.mem 49248) [(0, .read (List.replicate 24 7))] with total := total, bar := bar }
/-- A copy from a page that is not mapped, and a BULK whose second piece lies on one. -/
def lostCopy (bar : BarRef) : EngOp := { copyOp (.mem (100 * 49152)) (.mem 49248) [] with bar := bar }
def lostBulk : EngOp :=
  ⟨.bulk (147408 + 2 * 2 ^ 57 + 4 * 2 ^ 84) [0, 0, 0, 0] [24, 1, 1] 96 192 [] 0 0, 1, 0, 0, 0, 1, .none,
    [(0, .read (List.replicate 48 7))], false, 96, 0, false, false, false⟩

theorem test_wit_EngineSteps :
    tget base.engops 0 = none ∧ tget (copying freshCopy).engops 0 = some freshCopy ∧
    mayRead (copying freshCopy) 0 freshCopy 5 = none ∧
    (mayRead (copying freshCopy) 0 freshCopy 0 = some 48 ∧ okIs (itemRead (copying freshCopy) freshCopy 0 48) (fun _ => true) = true ∧
      okIs (xlate (copying freshCopy) (.core 0) 1 (49152 + 0) .load) (fun p => !uncorrectable (copying freshCopy) p.pa) = true) ∧
    (tget tileCopy.engops 0 = some (copyOp (.tile 0 0) (.mem 49248) []) ∧ mayRead tileCopy 0 (copyOp (.tile 0 0) (.mem 49248) []) 0 = some 48 ∧
      tileWordsBad tileCopy 0 (0 + 0) 48 = false) ∧
    readBytes (copying freshCopy) freshCopy ≠ freshCopy.total ∧
    (readCopy.suspended = false ∧ readBytes (copying readCopy) readCopy = readCopy.total ∧ readCopy.readsDone = false) ∧
    itemFails (copying freshCopy) 0 freshCopy 0 = none := by decide +kernel

theorem test_wit_EngineSteps_landed :
    (∀ x ∈ [(96, BarRef.none), (24, .none), (96, .mem 49632)],
      tget (copying (half x.1 x.2)).engops 0 = some (half x.1 x.2) ∧
      tget (half x.1 x.2).items 0 = some (.read (List.replicate 24 7)) ∧ (half x.1 x.2).suspended = false ∧
      raceOn (copying (half x.1 x.2)) 1 = false ∧ Memory.wf (copying (half x.1 x.2)).mem = true ∧ tsorted (copying (half x.1 x.2)).engops = true ∧
      okIs (xlate (copying (half x.1 x.2)) (.core 0) 1 (49248 + 0) .store) (fun p => !vigilErr (copying (half x.1 x.2)) (.mem p.pa) 24) = true ∧
      sealedBy (copying (half x.1 x.2)) 1 49248 24 = false) ∧
    ((half 96 .none).counted + 24 ≠ (half 96 .none).total ∧ (half 24 .none).counted + 24 = (half 24 .none).total) ∧
    (let o := half 96 (.mem 49632)
     let s := copying o
     s.helds = [] ∧ s.vigils = [] ∧ okIs (itemWrite s o 0 (List.replicate 24 7)) (fun s1 =>
       okIs (barPlace (s1.modOp 0 fun o => { o with items := tset o.items 0 .gone }) (.core o.core) o.ctx o.block o.bar)
         (fun r => decide (r = some (.mem 98784)) && !uncorrectable s1 98784)) = true ∧
       okIs (xlate s (.core 0) 1 (49248 + 0) .store) (fun p => decide (p.pa + 24 ≤ 98784)) = true) := by decide +kernel

theorem test_wit_EngineSteps_fault :
    (∀ bar ∈ [BarRef.none, .mem 49632], tget (copying (lostCopy bar)).engops 0 = some (lostCopy bar) ∧
      (itemFails (copying (lostCopy bar)) 0 (lostCopy bar) 0).isSome = true ∧ isBulk (lostCopy bar) = false ∧
      (lostCopy bar).counted < (lostCopy bar).total ∧ raceOn (copying (lostCopy bar)) 1 = false ∧
      tsorted (copying (lostCopy bar)).engops = true ∧ (copying (lostCopy bar)).helds = [] ∧ (copying (lostCopy bar)).vigils = [] ∧
      okIs (xlate (copying (lostCopy bar)) (.core 0) 1 49632 .atomic) (fun p => !uncorrectable (copying (lostCopy bar)) p.pa) = true ∧
      sealedBy (copying (lostCopy bar)) 1 49632 16 = false ∧ Memory.wf (copying (lostCopy bar)).mem = true ∧
      tget ((copying (lostCopy bar)).core 0).efaults 1 = none) ∧
    (let y : EFault := ⟨true, false, 1, 0, 2, 0⟩
     let s := (copying (lostCopy .none)).setCore 0 { base.core 0 with efaults := [(1, y)] }
     (itemFails s 0 (lostCopy .none) 0).isSome = true ∧ tget (s.core 0).efaults 1 = some y) ∧
    (tget (copying lostBulk).engops 0 = some lostBulk ∧ (itemFails (copying lostBulk) 0 lostBulk 48).isSome = true ∧ isBulk lostBulk = true ∧
      lostBulk.bar = .none ∧ lostBulk.counted + (lostBulk.total - readBytes (copying lostBulk) lostBulk) ≠ lostBulk.total) := by decide +kernel

/-- A BULK of one row of 12 words, its only piece read. -/
def bulkOp : EngOp :=
  ⟨.bulk (2 * 2 ^ 57 + 4 * 2 ^ 84) [0, 0, 0, 0] [12, 1, 1] 96 192 [] 0 0, 1, 0, 0, 0, 1, .none, [(0, .read (List.replicate 48 7))],
    false, 48, 0, false, false, false⟩
def bulky (bins : Tab Bin) : State := (copying bulkOp).setCore 0 { (copying bulkOp).core 0 with bins := bins }
def fullBins : Tab Bin := (List.range 8).map fun i => (i, ⟨5, i, [], 0, 64, false, some 0⟩)
def oneThread : BinThread := ⟨List.replicate 12 7, ⟨true, true, 9, 0, 0, 0, 48, 0, [], 32, 0, [], 0⟩⟩
def entryBin (refused : Option Nat) (threads : Nat) : Bin := ⟨0, 96, List.replicate threads oneThread, 0, 64, false, refused⟩
def placedB (s : State) (p : Option State → Bool) : Bool :=
  ((pieceThread bulkOp 0 0 (List.replicate 48 7)).map fun x => decide (x.1 = 96) && p (placeThread s bulkOp.core bulkOp.block x.1 x.2)).getD false
/-- A closing taper in the return buffer, its operation at an end. -/
def closing : State := base.setCore 0 { base.core 0 with retbuf := [⟨0, 96, oneThread⟩] }

theorem test_wit_BinSteps :
    (∀ b ∈ [[], fullBins, [(0, entryBin (some 0) 3)], [(0, entryBin none 30)]],
      tget (bulky b).engops 0 = some bulkOp ∧ tget bulkOp.items 0 = some (.read (List.replicate 48 7)) ∧ bulkOp.suspended = false) ∧
    (placedB (bulky fullBins) (fun r => r.isNone) = true ∧ (fullBins.find? fun e => e.2.block = 0 && e.2.entry = 96) = none ∧
      ∀ n, n < 8 → (tget ((bulky fullBins).core 0).bins n).isSome = true) ∧
    (((bulky [(0, entryBin (some 0) 3)]).core 0).bins.find? (fun e => e.2.block = 0 && e.2.entry = 96) = some (0, entryBin (some 0) 3)) ∧
    (placedB (bulky []) Option.isSome = true) ∧
    (((bulky [(0, entryBin none 30)]).core 0).bins.find? (fun e => e.2.block = 0 && e.2.entry = 96) = some (0, entryBin none 30) ∧
      (entryBin none 30).threads.length < 31) ∧
    (tget base.engops 0 = none ∧ ∀ c ∈ base.cores, ∀ p ∈ c.2.retbuf, p.thread.born.op ≠ 0) ∧
    (tget closing.engops 9 = none ∧ closing.cores.find? (fun c => c.2.retbuf.any fun p => p.thread.born.op = 9) = some (0, closing.core 0) ∧
      (closing.core 0).retbuf.find? (fun p => p.thread.born.op = 9) = some ⟨0, 96, oneThread⟩ ∧
      (placeThread (closing.setCore 0 { closing.core 0 with retbuf := (closing.core 0).retbuf.erase ⟨0, 96, oneThread⟩ }) 0 0 96 oneThread).isSome =
        true) := by decide +kernel

def binState (b : Bin) : State := base.setCore 0 { base.core 0 with bins := [(0, b)], cycles := 64 }

theorem test_wit_BinSteps_timer :
    tget (base.core 0).bins 0 = none ∧
    (let b := entryBin none 3
     tget ((binState b).core 0).bins 0 = some b ∧ b.refused = none ∧ b.expired = false ∧ ((binState b).core 0).cycles ≥ b.started + b.limit ∧
       b.threads ≠ []) ∧
    (let b := { entryBin none 3 with limit := 65 }
     tget ((binState b).core 0).bins 0 = some b ∧ b.refused = none ∧ ((binState b).core 0).cycles < b.started + b.limit) ∧
    (tget ((binState (entryBin (some 0) 3)).core 0).bins 0 = some (entryBin (some 0) 3) ∧ (entryBin (some 0) 3).refused.isSome = true) := by
  decide +kernel

/-! Dispatcher, distributor, lighting. -/

/-- Queue 0 of context 1, enabled, its ring of one record at page 1. -/
def queueWord (prio quant : Nat) : Nat := 49152 + 2 ^ 224 + 2 ^ 225 + prio * 2 ^ 237 + quant * 2 ^ 240 + 2 ^ 264 + 2 ^ 272
def queueOf (desc taken : Nat) (running : Option Nat) : Queue := ⟨desc, taken, 0, running, false⟩
/-- A kernel descriptor at page 1 behind the ring's record: 240 far registers, 8, 0 and 24 units. -/
def kernelDesc : Nat := 240 * 2 ^ 688 + 8 * 2 ^ 683 + 24 * 2 ^ 673
def ring (good : Bool) : Tab Byte :=
  memWrite (memWrite base.mem 98304 (leBytes 192 (if good then placeLaunch.record + 49344 * 2 ^ 384 else 0))) 98496 (leBytes 192 kernelDesc)
def ringed (good : Bool) (q : Queue) : State := { base with queues := [(0, q)], mem := ring good }
/-- A launch whose one block has retired, its completion word at an address; queue 0 runs it. -/
def overAt (va : Nat) : Launch := { placeLaunch with record := placeLaunch.record + va * 2 ^ 640 + 7 * 2 ^ 576 }
def allRetired (va : Nat) : State :=
  { base with
    launches := [(0, overAt va)], blocks := [(0, { placeBlock with status := .retired })]
    queues := [(0, queueOf (queueWord 0 0) 1 (some 0))] }

theorem test_wit_LaunchSteps :
    tget base.queues 0 = none ∧
    (∀ q ∈ [(queueWord 0 0 - 2 ^ 224, 1), (queueWord 0 0 + 2 ^ 223, 1)], qdEn q.1 = false ∨ qdStop q.1 = true) ∧
    (qdEn (queueWord 0 0) = true ∧ qdStop (queueWord 0 0) = false ∧ (queueOf (queueWord 0 0) 2 none).backlog > 2 ^ qdLsize (queueWord 0 0)) ∧
    ((queueOf (queueWord 0 0) 1 none).backlog ≤ 2 ^ qdLsize (queueWord 0 0) ∧ (queueOf (queueWord 0 0) 1 (some 0)).running.isSome = true ∧
      (queueOf (queueWord 0 0) 0 none).backlog = 0 ∧ (queueOf (queueWord 0 0) 1 none).backlog ≠ 0 ∧ ctxRuns base 1 = true) ∧
    errIs (readLaunch (ringed false (queueOf (queueWord 0 0) 1 none)) 0 (queueOf (queueWord 0 0) 1 none)) (fun e => e = 1) = true ∧
    okIs (readLaunch (ringed true (queueOf (queueWord 0 0) 1 none)) 0 (queueOf (queueWord 0 0) 1 none)) (fun la => la.bdim = 1) = true ∧
    tget base.launches 3 = none ∧
    (tget base.launches 0 = some placeLaunch ∧ placeLaunch.over base 0 = false ∧ (tget base.queues placeLaunch.queue).bind Queue.running ≠ some 0) := by
  decide +kernel

theorem test_wit_LaunchSteps_completion :
    (∀ va ∈ [49152, 0], tget (allRetired va).launches 0 = some (overAt va) ∧ (overAt va).over (allRetired va) 0 = true ∧
      (tget (allRetired va).queues (overAt va).queue).bind Queue.running = some 0 ∧ tsorted (allRetired va).launches = true ∧
      (overAt va).det = false ∧ (overAt va).deferred = [] ∧
      (∀ c ∈ (allRetired va).cores, (engineRecord (allRetired va) c.1 (overAt va).ctx).v = false) ∧
      tget (allRetired va).queues (overAt va).queue = some (queueOf (queueWord 0 0) 1 (some 0)) ∧ qdEn (queueWord 0 0) = true ∧
      Memory.wf (allRetired va).mem = true ∧ (overAt va).cwaddr = va) ∧
    (let s := allRetired 49152
     okIs (xlate s .hub 1 49152 .store) (fun p => !uncorrectable s p.pa && !vigilErr s (.mem p.pa) 8 &&
       decide (p.pa + 8 ≤ s.qtBase + 48 * 0 + 40 ∨ s.qtBase + 48 * 0 + 40 + 4 ≤ p.pa)) = true ∧ sealedBy s 1 49152 8 = false) ∧
    errIs (completionStore (allRetired 0) (overAt 0)) (fun _ => true) = true := by decide +kernel

/-- Queue 0 runs the launch of the wave; queue 1 of the same context has a record. Priorities and quantum; the quad's holder. -/
def contend (p0 p1 quant : Nat) (holder : Option Nat) : State :=
  { base.setQuad 0 { base.quad 0 with grant := holder } with
    queues := [(0, queueOf (queueWord p0 quant) 1 (some 0)), (1, queueOf (queueWord p1 quant) 1 none)], hubUs := 10 }
/-- The candidates of quad 0, and the one that comes first among them. -/
def candB (s : State) (e : Nat × Queue) : Bool :=
  (qdEn e.2.desc || e.2.running.isSome) && !qdStop e.2.desc && ctxRuns s (qdCtx e.2.desc) && runnable s e.2 &&
  decide (qdPmask e.2.desc / 2 ^ 0 % 2 = 1)

theorem candB_iff {s : State} {b : Nat} {x : Queue} : Candidate s 0 b x ↔ tget s.queues b = some x ∧ candB s (b, x) = true := by
  simp only [candB, Bool.and_eq_true, Bool.or_eq_true, Bool.not_eq_true', decide_eq_true_eq]
  exact ⟨fun h => ⟨h.listed, ⟨⟨⟨⟨h.enabled, h.going⟩, h.context⟩, h.work⟩, h.quad⟩⟩, fun ⟨l, ⟨⟨⟨⟨e, g⟩, c⟩, w⟩, q⟩⟩ => ⟨l, e, g, c, w, q⟩⟩

def bestB (s : State) (b : Nat) : Bool :=
  match tget s.queues b with
  | none => false
  | some x => candB s (b, x) && s.queues.all fun e => !candB s e || decide (e.1 = b) ||
      decide (qdPrio e.2.desc < qdPrio x.desc ∨ qdPrio x.desc = qdPrio e.2.desc ∧ (x.vt < e.2.vt ∨ x.vt = e.2.vt ∧ b < e.1))

theorem best_of {s : State} {b : Nat} (h : bestB s b = true) :
    ∃ x, Candidate s 0 b x ∧ ∀ c y, Candidate s 0 c y → c ≠ b → Precedes b x c y := by
  unfold bestB at h
  cases hx : tget s.queues b with
  | none => simp [hx] at h
  | some x =>
    simp only [hx, Bool.and_eq_true, List.all_eq_true, Bool.or_eq_true, Bool.not_eq_true', decide_eq_true_eq] at h
    refine ⟨x, candB_iff.2 ⟨hx, h.1⟩, fun c y hc hne => ?_⟩
    obtain ⟨l, k⟩ := candB_iff.1 hc
    obtain (h1 | h2) | h3 := h.2 (c, y) (tget_mem _ _ _ l)
    · simp [h1] at k
    · exact absurd h2 hne
    · exact h3

theorem test_wit_GrantSteps :
    tsorted (contend 0 0 5 none).queues = true ∧ (∀ e ∈ base.queues, candB base e = false) ∧
    (bestB (contend 0 0 5 none) 0 = true ∧ ((contend 0 0 5 none).quad 0).grant = none) ∧
    (bestB (contend 0 0 5 (some 0)) 0 = true ∧ ((contend 0 0 5 (some 0)).quad 0).grant = some 0) ∧
    (bestB (contend 0 0 5 (some 9)) 0 = true ∧ tget (contend 0 0 5 (some 9)).queues 9 = none ∧ ((contend 0 0 5 (some 9)).quad 0).grant = some 9) ∧
    (∀ x ∈ [(3, 1, 5), (2, 2, 5), (2, 2, 11)], bestB (contend x.1 x.2.1 x.2.2 (some 1)) 0 = true ∧
      ((contend x.1 x.2.1 x.2.2 (some 1)).quad 0).grant = some 1 ∧ ((tget (contend x.1 x.2.1 x.2.2 (some 1)).queues 1).map fun y =>
        (qdPrio y.desc, qdQuant y.desc, candB (contend x.1 x.2.1 x.2.2 (some 1)) (1, y))) = some (x.2.1, x.2.2, true)) ∧
    (base.quad 0).grantUs = 0 ∧ (contend 0 0 5 none).hubUs = 10 := by decide +kernel

/-- A launch of two clusters, one admitted; its queue runs it and holds quads 0 and 1; one block slot. -/
def two : Launch := { placeLaunch with record := placeLaunch.record + 2 ^ 448, desc := kernelDesc }
def admitting : State :=
  let s := ((contend 0 0 5 none).setQuad 0 { Quad.reset with grant := some 0, cls := two.cls }).setQuad 1
    { Quad.reset with grant := some 0, cls := two.cls + 1 }
  { s.setCore 4 { s.core 4 with splitF := 16, splitL := 16 } with
    launches := [(0, two)], ctxs := tset s.ctxs 1 { Ctx.fresh 0 0 1 with regs := [(0x41, 0x2001)] } }

theorem mem_quadCores (s : State) (c : Nat) (h : c ∈ quadCores s 0) : c ∈ List.range 4 := by
  simp only [quadCores, List.mem_map, List.mem_range] at h ⊢
  omega

theorem test_wit_AdmissionSteps :
    tget admitting.launches 0 = some two ∧ (two.mayAdmit 0 = false ∧ two.mayAdmit 1 = true) ∧
    ((tget admitting.queues two.queue).bind Queue.running = some 0 ∧ ctxRuns admitting two.ctx = true ∧ two.det = false) ∧
    (0 < 48 ∧ quadMovable admitting 1 two = true) ∧ (quadMovable admitting 2 two = false ∧ quadTakes admitting 2 two = false) ∧
    (quadMovable admitting 0 two = false ∧ quadTakes admitting 0 two = true ∧ (two.clusterBlocks 1).length = 1 ∧
      two.needsFrames admitting = false) ∧
    (two.clusters ≠ 0 ∧ (admitting.quad (4 / 4)).grant = some two.queue ∧ splitOf (admitting.core 4) ≠ two.split ∧ coreWaves admitting 4 = [] ∧
      tileCount admitting 4 = 0 ∧ strandedOn admitting 4 = false) ∧ splitOf (admitting.core 5) = two.split := by decide +kernel

theorem test_wit_AdmissionSteps_cores : 1 ≤ ((quadCores admitting 0).filter fun x => coreTakes admitting x two two.bdim).length := by
  have h : ∀ c ∈ List.range 4, coreTakes admitting c two two.bdim = true := by decide +kernel
  rw [List.filter_eq_self.2 fun c hc => h c (mem_quadCores _ c hc)]
  simp [quadCores]

theorem test_wit_AdmissionSteps_slots : freeSlots admitting two.ctx 1 = some [0] := by
  have h : tget admitting.ctxs two.ctx = some { Ctx.fresh 0 0 1 with regs := [(0x41, 0x2001)] } := by decide +kernel
  simp [freeSlots, h, Ctx.fresh, List.range_succ, Nat.mod_one]

/-- The wave has ended; with `fin` in a deterministic launch of two clusters, of which the other has finished or not even been admitted. -/
def detOf (fin : List Nat) : Launch :=
  { placeLaunch with desc := placeLaunch.desc + 2 ^ 669, record := placeLaunch.record + 2 ^ 448, finished := fin, admitted := [0, 1] }
def ended : State := withWave fun w => { w with lit := false, wait := .ended }
def detEnded (cluster : Nat) : State :=
  { ended with launches := [(0, detOf [])], blocks := [(0, { placeBlock with cluster := cluster })] }
/-- Two blocks of one cluster of a deterministic launch, one of them not done. -/
def detHalf : State :=
  { ended with launches := [(0, detOf [])], blocks := [(0, placeBlock), (1, { placeBlock with inCluster := 1, slot := 1, status := .swapped })] }
/-- The block's wave has waited long enough, and a bin on its core has been refused. -/
def swapDue : State :=
  let s := waiting (vigilAt false 0 false)
  { s.setCore 0 { s.core 0 with bins := [(0, ⟨5, 0, [], 0, 64, false, some 0⟩)] } with blocks := [(0, { placeBlock with waited := 2 ^ 32 })] }

theorem test_wit_BlockSteps :
    tget base.blocks 9 = none ∧ (tget base.blocks 0 = some placeBlock ∧ tget base.launches placeBlock.launch = some placeLaunch ∧
      blockDone base 0 placeBlock = false ∧ overThreshold base 0 placeBlock = false ∧ placeBlock.status ≠ .swapped) ∧
    (tget ended.blocks 0 = some placeBlock ∧ blockDone ended 0 placeBlock = true ∧ placeLaunch.det = false) ∧
    (let x := { placeBlock with waited := 2 ^ 32 }
     tget swapDue.blocks 0 = some x ∧ overThreshold swapDue 0 x = true ∧ coreDemand swapDue x.core = true ∧ (tget swapDue.ctxs x.ctx).isSome = true ∧
       (∀ e ∈ swapDue.blocks, e.1 ≠ 0 → e.2.core = x.core → e.2.ctx = x.ctx → e.2.waited ≤ x.waited)) := by decide +kernel

theorem test_wit_BlockSteps_deterministic :
    (detOf []).det = true ∧ (∀ c, c < 2 → (detOf []).curveOf c = c) ∧ (∀ c ∈ (detOf []).finished, (detOf []).curveOf c ≠ (detOf []).retired.length) ∧
    (∀ n, n < 2 →
      let x := { placeBlock with cluster := n }
      tget (detEnded n).blocks 0 = some x ∧ tget (detEnded n).launches x.launch = some (detOf []) ∧ blockDone (detEnded n) 0 x = true ∧
        tsorted (detEnded n).blocks = true ∧
        ∀ e ∈ (detEnded n).blocks, e.2.launch = x.launch → e.2.cluster = x.cluster → blockDone (detEnded n) e.1 e.2 = true) ∧
    (tget detHalf.blocks 0 = some placeBlock ∧ blockDone detHalf 0 placeBlock = true ∧
      ∃ e ∈ detHalf.blocks, e.2.launch = placeBlock.launch ∧ e.2.cluster = placeBlock.cluster ∧ blockDone detHalf e.1 e.2 = false) := by
  decide +kernel

/-- A swapped-out block and a quad that its queue holds. What the device wrote of its own parts is as the list says; where it wrote none the
block has a wave, whose records at page 1 read as zeros. -/
def swappedBlock (image : List (Nat × List Byte)) : Block := { placeBlock with status := .swapped, image := image }
def swapped (image : List (Nat × List Byte)) : State :=
  { admitting with
    ctxs := tset base.ctxs 1 { Ctx.fresh 0 49152 0 with regs := [(0x41, 0x2001)] }
    launches := [(0, { two with admitted := [0, 1] })], blocks := [(0, swappedBlock image)]
    waves := if image = [] then [(0, { wv base with lit := false, wait := .parked })] else [] }
def readAs (r : SlotRead) : Nat :=
  match r with
  | .ok l => l.length
  | .failed _ => 7
  | .malformed _ => 8

theorem test_wit_BlockSteps_restore :
    (∀ i ∈ [[], [(100 * 49152, [(1 : Byte)])], [(49152, [1])]],
      let s := swapped i
      let x := swappedBlock i
      let la := { two with admitted := [0, 1] }
      tget s.blocks 0 = some x ∧ tget s.launches x.launch = some la ∧ x.status = .swapped ∧ ctxRuns s x.ctx = true ∧
       la.det = false ∧ blockActive s 0 x = true ∧ x.parked = [] ∧ tsorted s.blocks = true ∧ tsorted s.waves = true ∧
       (∀ e ∈ s.blocks, e.1 ≠ 0 → ¬(e.2.launch = x.launch ∧ e.2.cluster = x.cluster)) ∧
       (∀ e ∈ s.wavesOf 0, inRelease s e.1 = false ∧ e.2.vresult = none ∧ e.2.qdue = 0) ∧ releaseBefore s [(0, x)] = false ∧
       quadMovable s (0 / 4) la = false ∧ quadTakes s (0 / 4) la = true ∧
       blockFits s 0 0 x la ((tvals s.tiles).filter fun t => t.owner = .cluster x.launch x.cluster) = true ∧
       tileEntries (assignTiles s x true [((0, x), 0)]) 0 ≤ 64) ∧
    readAs (readSlot (swapped []) 0 (swappedBlock [])) = 1 ∧
    readAs (readSlot (swapped [(100 * 49152, [1])]) 0 (swappedBlock [(100 * 49152, [1])])) = 7 ∧
    readAs (readSlot (swapped [(49152, [1])]) 0 (swappedBlock [(49152, [1])])) = 8 := by decide +kernel

/-- Waves 0 to 3 on side 0, lit or not as `lit` says, and wave 4 in its lighting queue. -/
def crowd (lit victim : Bool) (cycles : Nat) : State :=
  let w (k : Nat) (p : Bool) : Nat × Wave := (k, { wv base with lit := p, victim := victim && k == 2, wait := if p then .none else .parked })
  let s := { base with waves := [w 0 lit, w 1 lit, w 2 lit, w 3 lit, w 4 false] }
  (s.setCore 0 { s.core 0 with cycles := cycles }).setSide 0 { s.side 0 with lighting := [4] }
def releasing (r : Release) : State := { base with releases := [(0, r)], hubUs := 5 }

theorem test_wit_LightingSteps :
    (base.side 0).lighting.filter (canLight base 0) = [] ∧
    (∀ b : Bool, ((crowd b false 2000).side 0).lighting.filter (canLight (crowd b false 2000) 0) = [4] ∧ ((crowd b false 2000).wave 4).isSome = true) ∧
    (litOf (crowd false false 2000) 0).length < 4 ∧
    ((litOf (crowd true true 2000) 0).length ≥ 4 ∧ (∃ e ∈ litOf (crowd true true 2000) 0, e.2.victim = true)) ∧
    ((litOf (crowd true false 1023) 0).length ≥ 4 ∧
      ∀ e ∈ litOf (crowd true false 1023) 0, ((crowd true false 1023).core (0 / 4)).cycles < e.2.litAt + 1024) ∧
    ((litOf (crowd true false 1024) 0).length ≥ 4 ∧ (∀ e ∈ litOf (crowd true false 1024) 0, e.2.victim = false) ∧
      (∃ e ∈ litOf (crowd true false 1024) 0, ((crowd true false 1024).core (0 / 4)).cycles ≥ e.2.litAt + 1024) ∧
      tsorted (crowd true false 1024).waves = true) ∧
    (((crowd true true 16384).wave 2).map fun w => w.lit && w.victim && decide (((crowd true true 16384).core w.core).cycles ≥ w.litAt + 16384)) =
      some true ∧
    (((crowd true true 16383).wave 2).map fun w => decide (((crowd true true 16383).core w.core).cycles < w.litAt + 16384)) = some true ∧
    tget base.releases 0 = none ∧
    (let r : Release := ⟨[(1, 0, 0, 0)], [0], 1, 0⟩
     tget (releasing r).releases 0 = some r ∧ r.batch ≠ [] ∧ ∀ k ∈ r.batch, beenLit (releasing r) k = true) ∧
    (let r : Release := ⟨[], [0], 1, 0⟩
     let s := { releasing r with waves := (crowd false false 0).waves }
     tget s.releases 0 = some r ∧ r.batch ≠ [] ∧ ∃ k ∈ r.batch, beenLit s k = false) ∧
    (let r : Release := ⟨[(0, 0, 0, 0)], [], 1, 5⟩
     tget (releasing r).releases 0 = some r ∧ r.batch = [] ∧ r.waves ≠ [] ∧ r.nextUs ≤ (releasing r).hubUs ∧ 0 < r.slew) ∧
    (let r : Release := ⟨[(0, 0, 0, 0)], [], 1, 6⟩
     tget (releasing r).releases 0 = some r ∧ (releasing r).hubUs < r.nextUs) := by decide +kernel
/-! More clauses. -/

/-- The pairs of R207: -0 against +0, a NaN against a number, a tie of values and one of NaNs. -/
theorem test_wit_VectorResults_pairs :
    (PairBeats true 0 0x80000000 5 0 9 ∧ ¬PairBeats false 0 0x80000000 5 0 9 ∧ PairBeats true 0 0x7FC00000 0 0xFF800000 9 ∧
      PairBeats false 2 0x3C00 5 0x3C00 4 ∧ PairBeats true 0 0x7FC00000 5 0x7F800001 4) ∧
    isSNaNOf 0 0x7F800001 ∧ [0, 1, 2, 3].map (elemBits false) = [32, 64, 16, 8] := by
  simp [PairBeats, isSNaNOf, isNaNOf, orderKey, negOf, fracBits, expBits, fwidth, elemBits]

/-- Equal zeros, an order, and no order. -/
theorem test_wit_PredicateResults_values :
    (finValue 0 0x80000000 = some 0 ∧ finValue 0 0 = some 0 ∧ orderKey 0 0xC0000000 < orderKey 0 0x40000000 ∧
      orderKey 0 0x3F800000 = orderKey 0 0x3F800000) := by decide +kernel

/-- An acquiring load; the entry of a tile. -/
theorem test_wit_LoadResults_acquire :
    (R (.ld { m0 with a := sc 4, sub := 0x42 }) stored ∧ answers stored (.ld { m0 with a := sc 4, sub := 0x42 }) = true ∧
      (0x42 : BitVec 7).toNat / 2 % 4 = 1 ∧ (wv stored).st.act h0 ≠ 0) ∧
    (R (.tinfo e0) (tiled 0 0) ∧ (findTile (tiled 0 0) (wv (tiled 0 0)).block 0).isSome = true) := by decide +kernel

/-- A queue entry at the word of page 1, of a wave that waits. -/
def queueWaits : State := { base with vigils := [(0, vigOf .queue false false 0 0)] }
/-- The launch is deterministic, and keeps the token order. -/
def tokenOrder : State := { base with launches := [(0, detOf [])] }

theorem test_wit_StrandPerformsEntry_others :
    (base.wave 0 = some (wv base) ∧ hasSteps base 0 (wv base) = false ∧ base.sent = []) ∧
    (∀ s ∈ [base, queueWaits], (tvals s.vigils).all (fun x => x.kind = .queue) = true ∧ hasSteps s 0 (wv s) = false ∧ calmB s = true ∧
      okIs (wakePlace s 0 1 49152 4 .load) (fun p => p.pa = 98304) = true ∧
      (∀ w64 : Bool, okIs (wakePlace s 0 1 49152 (if w64 then 8 else 4) .store) (fun p => pteOrd p.pte = 0) = true ∧
        sealedBy s 1 49152 (if w64 then 8 else 4) = false) ∧ s.locks = [] ∧ s.wave 0 = some (wv s)) ∧
    ((tvals queueWaits.vigils).filter (fun v => v.kind = .queue && v.loc = .mem 98304 && v.holds queueWaits)).length = 1 ∧
    (base.launchOf (wv base)).map Launch.det = some false ∧
    ((tokenOrder.launchOf (wv tokenOrder)).map fun la => (la.det, la.dord)) = some (true, false) ∧ (∀ e ∈ tokenOrder.blocks, e.2.redd = []) ∧
    (calmB stored = true ∧ Memory.wf stored.mem = true ∧ okIs (xlate stored (.lsu 0) 1 98304 .store) (fun p => ptePriv p.pte &&
        decide (p.pa % 48 + 4 ≤ 48)) = true ∧ sealedBy stored 1 98304 4 = false ∧ stored.locks = [] ∧
      (stored.core 0).l1.length < (stored.core 0).splitL * 256) := by decide +kernel

/-- A chain's step of the wave stands queued. -/
def chained (pl : Bool) : State :=
  let s := withSt fun st => { st with pl1 := pl }
  s.setCore 0 { s.core 0 with steps := [⟨0, 0, [0], [], true, 0, false, .mzero 0 true, []⟩] }
/-- An accumulator tile of `r` rows, and latches. -/
def accRows (r : Nat) (l : List Latch) : State :=
  { base.setCore 0 { base.core 0 with latches := l } with
    tiles := [(0, ⟨.block 0, 0, 2, 2, r, 32, [0], 128 * r, 0, 0, [], true, false⟩)] }
/-- Waves 0 and 1 are the gang; wave 1 has arrived with a step on tile `tc`. -/
def pairMma : MmaOp := { regMma 1 2 with mask := 3 }
def arrived (tc : Nat) : Latch := ⟨0, 3, 0, [⟨1, false, 1, { pairMma with tc := tc }, false, false⟩], none, []⟩
def pairMine : Arrival := ⟨0, false, 0, pairMma, false, false⟩

theorem test_wit_GangAndRead_entries :
    (∀ pl : Bool, (chained pl).wave 0 = some (wv (chained pl)) ∧ (wv (chained pl)).st.pl1 = pl ∧
      ((chained pl).core 0).steps.map (fun y => (y.members, y.inChain, y.handler)) = [([0], true, [])]) ∧
    findTile base 0 0 = none ∧
    (∀ s ∈ [tiled 0 0, accTile base, accRows 64 []], ((findTile s 0 0).map fun e => (e.2.lvl, ewBytes e.2.ew, e.2.rows)) ∈
      [some (0, 4, 4), some (2, 4, 32), some (2, 4, 64)]) ∧ [0, 1].map fcBytes = [4, 8] ∧ ((accTile base).core 0).steps.length < 32 ∧
    ((threads (regMma 1 2).mask).length = 1 ∧ (threads pairMma.mask).length = 2) ∧
    (∀ v ∈ base.waves, v.2.wait ≠ .ended) ∧ (base.core 0).latches = [] ∧ (List.replicate 8 (arrived 9)).length ≥ 8 ∧
    (∀ tc ∈ [0, 1], ∀ r ∈ [32, 64], let s := accRows r [arrived tc]
      (s.core 0).latches = [arrived tc] ∧ s.wave 0 = some (wv s) ∧ (wv s).st.gseq = 0 ∧ (wv s).st.pl1 = false ∧ (wv s).wid = 0 ∧
      (arrived tc).arrivals.length + 1 = 2 ∧ (s.core 0).steps = []) := by decide +kernel

theorem test_wit_GangAndRead_agreement :
    (∀ a ∈ (arrived 0).arrivals, Agree a pairMine ∧ a.wave ≠ 0 ∧ a.pos ≠ pairMine.pos) ∧ (∃ a ∈ (arrived 1).arrivals, ¬Agree a pairMine) ∧
    ∀ i, i < 2 → ∃ a ∈ pairMine :: (arrived 0).arrivals, a.pos = i := by
  unfold Agree
  refine ⟨by decide, by decide, fun i h => ?_⟩
  obtain rfl | rfl : i = 0 ∨ i = 1 := by omega
  · exact ⟨pairMine, by simp, rfl⟩
  · exact ⟨⟨1, false, 1, { pairMma with tc := 0 }, false, false⟩, by simp [arrived], rfl⟩

/-- An accumulator tile fits a step of `rows` rows; it does not. -/
theorem role_ok {s : State} {rows bytes : Nat} (h : ((findTile s 0 0).map fun e => decide (e.2.lvl = 2 ∧ e.2.rows = rows ∧ e.2.cols = 32 ∧
    ewBytes e.2.ew = bytes)) = some true) : RoleOk s 0 0 true rows 32 bytes := by
  cases hf : findTile s 0 0 with
  | none => simp [hf] at h
  | some e =>
    simp only [hf, Option.map_some, Option.some.injEq, decide_eq_true_eq] at h
    exact ⟨e.1, e.2, hf, ⟨by simp [h.1], h.2⟩, .inl rfl⟩

theorem role_fails {s : State} {rows bytes : Nat} (h : ((findTile s 0 0).map fun e => decide (e.2.lvl = 2 ∧ e.2.rows = rows ∧ e.2.cols = 32 ∧
    ewBytes e.2.ew = bytes)) = some false) : RoleFails s 0 0 true rows 32 bytes (17, 6) := by
  cases hf : findTile s 0 0 with
  | none => simp [hf] at h
  | some e =>
    simp only [hf, Option.map_some, Option.some.injEq, decide_eq_false_iff_not] at h
    exact .inr ⟨e.1, e.2, hf, .inl ⟨fun k => h ⟨k.1.1 rfl, k.2⟩, rfl⟩⟩

/-- The accumulator fits a step of one wave and one of the pair, and does not where it is no such tile, has other rows, or is not there. -/
theorem test_wit_GangAndRead_roles :
    MmaOk (accTile base) 0 1 (regMma 1 2) ∧ MmaOk (accRows 64 []) 0 2 pairMma ∧ MmaFails base 0 1 (regMma 1 2) (7, 1) ∧
    MmaFails (tiled 0 0) 0 1 (regMma 1 2) (17, 6) ∧ MmaFails (accRows 32 []) 0 2 pairMma (17, 6) :=
  ⟨⟨role_ok (by decide +kernel), nofun, nofun⟩, ⟨role_ok (by decide +kernel), nofun, nofun⟩, .inl (.inl ⟨by decide +kernel, rfl⟩),
    .inl (role_fails (by decide +kernel)), .inl (role_fails (by decide +kernel))⟩

/-- A quad's limits; queue 0 runs the wave's launch and may use every quad. -/
def classed (lo hi : Nat) : State :=
  let s := contend 0 0 5 (some 0)
  { s.setQuad 1 { s.quad 1 with vfloor := lo, vceil := hi } with queues := [(0, queueOf (queueWord 0 5 + (2 ^ 48 - 2) * 2 ^ 272) 1 (some 0))] }

theorem test_wit_PowerSteps_opcls :
    (∀ x ∈ [(0, 7), (5, 7), (0, 2)], (classed x.1 x.2).wave 0 = some (wv (classed x.1 x.2)) ∧
      ((classed x.1 x.2).launchOf (wv (classed x.1 x.2))).map Launch.queue = some 0 ∧ (tget (classed x.1 x.2).queues 0).isSome = true ∧
      ((classed x.1 x.2).quad 1).vfloor = x.1 ∧ ((classed x.1 x.2).quad 1).vceil = x.2) ∧
    (8 : DWord).toNat ≥ 8 ∧ (0xFFFFFFFFFFFFFFFF : DWord).toNat ≥ 2 ^ 48 ∧ (2 : DWord).getLsbD 1 = true ∧
    (4 : DWord).toNat < (classed 5 7 |>.quad 1).vfloor ∧ (classed 0 2 |>.quad 1).vceil < (4 : DWord).toNat ∧
    ((tget (classed 0 7).queues 0).map fun x => qdPmask x.desc / 2 ^ 1 % 2) = some 1 ∧ ((classed 0 7).quad 1).grant = none := by decide +kernel

/-- Units of sources 5 and 6, and of one that a turn samples. -/
theorem test_wit_TickSteps_sources :
    (∀ n ∈ [0, 5, 6], (tget ((base.setDie 0 { base.die 0 with capture := [(3, { Capture.reset with en := true, src := n })] }).die 0).capture 3).map
      (fun c => (c.en, c.src)) = some (true, n)) := by decide +kernel

/-- A context with a queue that runs a launch, a stranded block whose write-out has failed, an escalated one whose header has, each with a
notify that waits. -/
def notified (st : BStatus) (redo : SaRedo) : State :=
  let s := areaAt1 [⟨0, 2, 49152, redo⟩]
  { s with blocks := [(0, { placeBlock with status := st, strandAs := .escalated, notice := some (24, 0) })] }

theorem test_wit_ContextCommands_redo :
    (commandedB (tableEnabled (some 3)) (cmd 3 1 0) 3 = true ∧ tsorted (tableEnabled (some 3)).waves = true ∧
      tsorted (tableEnabled (some 3)).vigils = true ∧ (waiting (vigilAt false 0 false)).vigils.all (fun e => e.1 = e.2.id) = true ∧
      ((tget (tableEnabled (some 3)).queues 0).map fun x => qdCtx x.desc) = some 1) ∧
    (let f : SaFailure := ⟨0, 2, 49152, .read 48⟩
     let s1 := (areaAt1 [f]).modCtx 1 fun c => { c with failed := [] }
     commandedB (areaAt1 [f]) (cmd 5 1 0) 5 = true ∧ okIs (saRead s1 1 f.va 48) (fun _ => true) = true ∧
     okIs (saWrite ((saTouch s1 1 f.va 48).modCtx 1 fun c => { c with halted := false }) 1 (49152 + 20) (leBytes 4 0)) (fun _ => true) = true) ∧
    (commandedB (notified .stranded (.swap 0)) (cmd 5 1 0) 5 = true ∧ commandedB (notified .escalated (.header 0)) (cmd 5 1 0) 5 = true ∧
     okIs (tryHeader ((notified .escalated (.header 0)).modCtx 1 fun c => { c with failed := [] }) 0) (fun _ => true) = true) := by decide +kernel


/-- A tile with one request record: 48 bytes from 49152 to 49248 at scope 2; the same with a reserved bit. -/
def rec0 : Nat := 49152 + 49248 * 2 ^ 64 + 48 * 2 ^ 192 + 2 * 2 ^ 228
def recTile (lvl cols bd r : Nat) : State :=
  { base with tiles := [(0, ⟨.block 0, 0, lvl, 2, 1, cols, [0], 48, bd, 0, (leBytes 48 r).zipIdx.map fun e => (e.2, e.1), true, false⟩)] }
def recWant : Want := ⟨[(49152, 49199)], [(49248, 49295)], [], []⟩

theorem rec_not (s : State) (w : Wave) (r m : Nat) (h : r = rec0 ∨ r = rec0 + 2 ^ 231) (hm : RecordMeets s w r m) : m = 5 ∧ r ≠ rec0 := by
  have ba : bitsOf r 227 224 = 0 ∧ bitsOf r 223 192 = 48 ∧ bitsOf r 191 128 = 0 ∧ bitsOf r 63 0 = 49152 ∧ bitsOf r 127 64 = 49248 ∧
      bitsOf r 230 228 = 2 ∧ (r = rec0 → bitsOf r 383 231 = 0) := by
    obtain rfl | rfl := h <;> decide +kernel
  obtain ⟨b1, b2, b3, b4, b5, b6, b7⟩ := ba
  have hk := hm _ _ b1.symm b2.symm
  have e1 : EndpointIs s w.block ((0 : Nat) = 2 ∨ (0 : Nat) = 3) 49152 48 (.mem 49152) := .inl ⟨by decide, by decide, rfl⟩
  have e2 : EndpointIs s w.block ((0 : Nat) = 1 ∨ (0 : Nat) = 3) 49248 48 (.mem 49248) := .inl ⟨by decide, by decide, rfl⟩
  match m with
  | 1 =>
    have e3 : BarRefIs s w.block 0 .none := ⟨by decide, .inl ⟨by decide, by decide, rfl⟩⟩
    exact absurd e3 (by simpa [b3] using hk BarRef.none)
  | 3 =>
    simp only [b4, b5] at hk
    obtain k | k | k | k | ⟨p, q, k1, k2, k3⟩ := hk
    · omega
    · omega
    · exact absurd e1 (k _)
    · exact absurd e2 (k _)
    · obtain ⟨-, -, rfl⟩ | ⟨k, -⟩ := k1
      · obtain ⟨-, -, rfl⟩ | ⟨k, -⟩ := k2
        · obtain ⟨x, y, ⟨⟩, ⟨⟩, k⟩ | ⟨n, x, y, ⟨⟩, -⟩ := k3
          omega
        · omega
      · omega
  | 5 =>
    refine ⟨rfl, fun e => ?_⟩
    simp only [b6, b7 e] at hk
    omega

theorem test_wit_EngineSteps_kick_records (w : Wave) :
    RecordIs base w rec0 ⟨.mem 49152, .mem 49248, 48, .none, 2⟩ ∧ RecordFails base w (rec0 + 2 ^ 231) ⟨13, 5, none, none⟩ := by
  refine ⟨⟨fun m h => (rec_not _ _ _ m (.inl rfl) h).2 rfl, by decide, by decide, .inl ⟨by decide, by decide, by decide⟩,
    .inl ⟨by decide, by decide, by decide⟩, ⟨by decide, .inl ⟨by decide, by decide, rfl⟩⟩, none, rfl⟩, .inl ⟨5, ?_, fun m h => ?_, rfl⟩⟩
  · intro kind len _ _
    exact .inl (by decide)
  · exact (rec_not _ _ _ m (.inr rfl) h).1.ge

theorem test_wit_EngineSteps_kick :
    findTile base 0 0 = none ∧
    (∀ x ∈ [(1, 12, 0), (0, 12, 1), (0, 11, 0), (0, 12, 0)], ((findTile (recTile x.1 x.2.1 x.2.2 rec0) 0 0).map fun e =>
      (e.2.lvl, e.2.cols * ewBytes e.2.ew, e.2.rows, e.2.bd)) = some (x.1, 4 * x.2.1, 1, x.2.2)) ∧
    (let s := { recTile 0 12 0 rec0 with errs := [.tile 0 0] }; tileWordsBad s 0 0 48 = true) ∧
    (∀ r ∈ [rec0, rec0 + 2 ^ 231], tileWordsBad (recTile 0 12 0 r) 0 0 48 = false ∧ leNat (tileRead (recTile 0 12 0 r) 0 0 48) = r ∧
      (recTile 0 12 0 r).sent = []) := by decide +kernel

theorem test_wit_EngineSteps_accept : Acceptable (recTile 0 12 0 rec0) 1 0 2 recWant ∧
    ¬Acceptable { recTile 0 12 0 rec0 with locks := [⟨9, 1, [0], 1024, 1025, true⟩] } 1 0 2 recWant :=
  ⟨⟨by decide +kernel, fun d _ => .inr (by show (List.filter _ ([] : List RLock)).length + 2 ≤ 256; simp), nofun, fun _ _ _ => ⟨nofun, nofun⟩⟩,
    fun h => nomatch (h.locks ⟨9, 1, [0], 1024, 1025, true⟩ (.head _) (49152, 49199) 0 rfl (.head _) (by unfold LockTable; decide +kernel)
      (by decide) (by decide)).1 (.head _)⟩

/-- Layouts 2 and 3 of context 1, of 4 elements of 4 bytes one and two apart; a tile of `cols` such elements; entry 0 is a handler's. -/
def copyState (lvl cols ew : Nat) : State :=
  { layouts with
    mem := memWrite layouts.mem (98304 + 96) (leBytes 96 (49152 + 2 * 2 ^ 57 + 4 * 2 ^ 84 + 2 ^ 224 +
      (49152 + 2 * 2 ^ 57 + 4 * 2 ^ 84 + 2 * 2 ^ 224) * 2 ^ 384))
    tiles := [(0, ⟨.block 0, 0, lvl, ew, 1, cols, [0], 4 * cols, 0, 0, [], true, false⟩)]
    launches := [(0, { placeLaunch with desc := placeLaunch.desc + 2 ^ 700 })] }
def usedB (s : State) (h : Nat) (p : State → Nat → Bool) : Bool := okIs (layUse s 0 1 h) fun x => p x.1 x.2
/-- Elements `i` to `i + n - 1` in the layout's first row are all there. -/
def inRow (r : Nat) (i : Int) (n : Nat) : Bool := (List.range n).all fun k => (layElem r [i + k, 0, 0, 0, 0]).isSome

theorem test_wit_EngineSteps_bcopy :
    errIs (layUse (copyState 0 4 2) 0 1 9) (fun _ => true) = true ∧
    (∀ b : Bool, usedB (copyState 0 4 2) 2 (fun s _ => (findTile s 0 (if b then 0 else 7)).isSome == b) = true) ∧
    (∀ x ∈ [(1, 4, 2), (0, 4, 4), (0, 4, 2)], usedB (copyState x.1 x.2.1 x.2.2) 2 (fun s r =>
      ((findTile s 0 0).map fun e => (e.2.lvl, decide (layEs (layFmt r) = ewBytes e.2.ew), e.2.rows, e.2.cols)) ==
        some (x.1, decide (x.2.2 = 2), 1, 4)) = true) ∧
    usedB (copyState 0 4 2) 2 (fun _ r => inRow r 0 4 && !inRow r 1 4) = true ∧
    usedB (copyState 0 4 2) 2 (fun s _ => errIs (barPlace s (.core 0) 1 0 (.mem (100 * 49152))) (fun _ => true) &&
      okIs (barPlace s (.core 0) 1 0 .none) (fun _ => true) && decide (s.sent = [])) = true := by decide +kernel

theorem test_wit_EngineSteps_references (s : State) :
    (∀ b, ¬BarRefIs s 0 (2 ^ 60) b) ∧ BarRefIs s 0 0 .none ∧ BarRefIs s 0 (2 ^ 62 + 100 * 49152) (.mem (100 * 49152)) :=
  ⟨fun _ h => absurd h.1 (by decide), ⟨by decide, .inl ⟨by decide, by decide, rfl⟩⟩, ⟨by decide, .inr (.inl ⟨by decide, by decide, by decide⟩)⟩⟩

theorem test_wit_EngineSteps_bulk :
    (copyState 0 4 2).wave 0 = some (wv (copyState 0 4 2)) ∧ (wv (copyState 0 4 2)).block = 0 ∧
    (∀ h ∈ [2, 3], usedB (copyState 0 4 2) h (fun s r => decide (layStd r 0 = (h : Int) - 1) && decide (s.sent = []) && inRow r 0 4 &&
      !inRow r 1 4 && ((tget s.blocks 0).map fun x => ((tget s.launches x.launch).map fun la =>
        ((la.handlerGranules 0).isSome, (la.handlerGranules 12).isSome)) == some (true, false)) == some true &&
      errIs (barPlace s (.core 0) 1 0 (.mem (100 * 49152))) (fun _ => true)) = true) := by decide +kernel

/-- Bins of the wave's core for entry 0, and a launch that lists it. -/
def binsAt (l : List (Nat × Bin)) : State := (copyState 0 4 2).setCore 0 { base.core 0 with bins := l }
/-- A bin of entry 0 with `n` threads; eight of another entry. -/
def binOf0 (n : Nat) (refused : Option Nat) : Bin :=
  ⟨0, 0, List.replicate n ⟨[7], ⟨false, false, 0, 0, 0, 0, 0, 0, [], 0, 0, [], 0⟩⟩, 0, 100, false, refused⟩
def otherBins (n : Nat) : List (Nat × Bin) := (List.range n).map fun i => (i, { binOf0 1 none with entry := 12 })

theorem test_wit_BinSteps_spawn :
    (∀ l ∈ [[], otherBins 8, otherBins 7, [(0, binOf0 32 none)], [(0, binOf0 5 (some 0))], [(0, binOf0 5 none)]],
      (binsAt l).wave 0 = some (wv (binsAt l)) ∧ (binsAt l).sent = [] ∧ ((binsAt l).core (wv (binsAt l)).core).bins = l ∧
      tsorted l = true ∧ ((tget (binsAt l).launches 0).map fun la => ((la.handlerGranules 0).isSome, (la.handlerGranules 12).isSome)) =
        some (true, false)) ∧
    ((otherBins 8).find? (fun x => x.2.block = 0 && x.2.entry = 0)).isNone = true ∧ (∀ n, n < 8 → (tget (otherBins 8) n).isSome = true) ∧
    ((otherBins 7).find? (fun x => x.2.block = 0 && x.2.entry = 0)).isNone = true ∧ (tget (otherBins 7) 7).isNone = true ∧
    ([(0, binOf0 5 none)].find? (fun x => x.2.block = 0 && x.2.entry = 0)) = some (0, binOf0 5 none) ∧ 5 + 1 < 32 := by decide +kernel

/-- The queue table's descriptor 0: context `ctx`, its ring of one record at page 1, `tail` records ever written; an image behind it. -/
def submit (ctx tail en : Nat) : State :=
  { base with mem := memWrite base.mem 0 (leBytes 48 (49152 + ctx * 2 ^ 225 + 2 ^ 264 + 2 ^ 240 + 2 ^ 272 + en * 2 ^ 224 + tail * 2 ^ 352)) }

theorem test_wit_LaunchSteps_launch :
    (∀ x ∈ [(2, 0, 1), (1, 0, 0), (1, 1, 1), (1, 0, 1)],
      let s := submit x.1 x.2.1 x.2.2
      s.wave 0 = some (wv s) ∧ descBad s 0 = false ∧ qdCtx (queueDesc s 0) = x.1 ∧ qdEn (queueDesc s 0) = decide (x.2.2 = 1) ∧
      qdStop (queueDesc s 0) = false ∧ qdTail (queueDesc s 0) = x.2.1 ∧ qdHead (queueDesc s 0) = 0 ∧ qdLsize (queueDesc s 0) = 0 ∧
      qdBase (queueDesc s 0) = 49152) ∧
    descBad { submit 1 0 1 with errs := [.tier 0] } 0 = true ∧
    (let s := submit 1 0 1
     calmB s = true ∧ s.early = [] ∧ hasSteps s 0 (wv s) = false ∧ Memory.wf s.mem = true ∧
     (∀ i, i < 4 → plainB s .load (49152 + 192 + 48 * i) 48 = true ∧ plainB s .store (49152 + 48 * i) 48 = true ∧
       okIs (xlate s (.lsu 0) 1 (49152 + 192 + 48 * i) .load) (fun p => p.pa = 98304 + 192 + 48 * i) = true ∧
       okIs (xlate s (.lsu 0) 1 (49152 + 48 * i) .store) (fun p => p.pa = 98304 + 48 * i) = true) ∧
     s.qtBase + 44 + 4 ≤ 98304) := by decide +kernel

/-- A step that the wave's strand, or its handler, has queued, inside a chain or outside one. -/
def stepBy (pl : Bool) (y : MStep) : State :=
  let s := accTile (withWave fun w => { w with st := { w.st with pl1 := pl }, frame := some w.st })
  s.setCore 0 { s.core 0 with steps := [y] }

theorem test_wit_HeldUpSteps_members :
    (∀ pl ch : Bool, ∀ h ∈ [[], [0]], let y : MStep := ⟨4, 0, [0], h, ch, 0, false, .mzero 0 ch, []⟩
      (stepBy pl y).cores.find? (fun c => c.2.steps.any fun st => st.id = 4) = some (0, (stepBy pl y).core 0) ∧
      tget (stepBy pl y).cores 0 = some ((stepBy pl y).core 0) ∧ ((stepBy pl y).core 0).steps.find? (fun st => st.id = 4) = some y ∧
      stepReady ((stepBy pl y).core 0).steps y = true ∧ (stepBy pl y).wave 0 = some (wv (stepBy pl y)) ∧
      (wv (stepBy pl y)).st.pl1 = pl) := by decide +kernel

/-! Worked values. The source is the rule that each name cites. -/

/-- R217: four threads, 16,777,216.0 and three times 1.0, under the tree and from left to right; inexact is flag bit 4 (R239). -/
theorem test_R217_tree_and_scan :
    (let l : List (Option DWord) := [some 0x4B800000, some 0x3F800000, some 0x3F800000, some 0x3F800000] ++ List.replicate 28 none
     (redTree 5 0 0 l).1 = 0x4B800001 ∧ (scanList 5 0 0 none l).1.take 4 = List.replicate 4 0x4B800000 ∧
       (redTree 5 0 0 l).2 = (scanList 5 0 0 none l).2) := by decide +kernel

/-- R201: a truth table of 0xAC computes C ? A : B. -/
theorem test_R201_select : lop3Op 0xAC 32 [0x12345678, 0x9ABCDEF0, 0xFFFF0000] = 0x1234DEF0 := by decide +kernel

/-- R186: `.mir(2)` reverses four threads; `.shz(-1)` gives each the thread below it and thread 0 nothing. -/
theorem test_R186_patterns :
    ((List.range 8).map (permute 4 2) = [some 3, some 2, some 1, some 0, some 7, some 6, some 5, some 4]) ∧
    permute 5 63 0 = none ∧ permute 5 63 9 = some 8 := by decide +kernel

/-- R56: `#1.0` under `.f32` is index 129, and 65536.0 under `.f16` index 201 is +infinity. -/
theorem test_R56_constants :
    replicate true 0 (fpConst 0 129) = 0x3F800000 ∧
    replicate true 2 (fpConst 2 201) = 0x7C007C00 := by decide +kernel

/-- R114: the element (5, 3) of the record of the example lies at BASE + 1,556, and (100, 3) reads the padding value −1.0. -/
theorem test_R114_layout :
    (let r := 4096 + 2 * 2 ^ 57 + 2 ^ 61 + 0xBF80 * 2 ^ 64 + 2 ^ 80 + 100 * 2 ^ 84 + 60 * 2 ^ 112 + 2 ^ 224 + 128 * 2 ^ 256
     layBad r = false ∧ layElem r [5, 3, 0, 0, 0] = some 5652 ∧ layElem r [100, 3, 0, 0, 0] = none ∧ layPad r = [0, 0, 0x80, 0xBF]) := by
  decide +kernel

/-- R378: the offsets of the sections under 64 slots, and the place of f37 of thread 9, wave 2, slot 5. -/
theorem test_R378_sections :
    ((List.range 7).map fun k => sectOffset 64 (k + 1)) =
      [960, 62915520, 222561216, 230437824, 337540032, 341484480, 341582784] ∧
    saAddr (Ctx.fresh 0 0 64) 1 5 (30720 * 2 + 2048 * 2 + 128 * 5 + 4 * 9) = 4982372 := by decide +kernel

/-- R304 with R402: 1.0 and 2.0 of block 0, then 1.0 of block 1, to a word that holds 16,777,216.0. -/
theorem test_R304_order :
    (let add (o v : Nat) : Nat := (atomOp 11 false false 0 o v 0).1
     add (add (add 0x4B800000 0x3F800000) 0x40000000) 0x3F800000 = 0x4B800002) := by decide +kernel

/-- R233: 1.5, -0.0 and 2.0 of f32, the least subnormal of f16; the infinities and NaNs have no value. -/
theorem test_wit_ElementsIndependent_values :
    finValue 0 0x3FC00000 = some (3 / 2) ∧ finValue 0 0x80000000 = some 0 ∧ finValue 0 0x40000000 = some (2 ^ (1 : ℤ)) ∧
    finValue 2 1 = some (2 ^ (-24 : ℤ)) ∧ finValue 0 (infBits 0 true) = none ∧ finValue 0 (maxBits 0 false) ≠ none ∧
    finValue 0 0x1F000000 = some (2 ^ (-65 : ℤ)) := by decide +kernel

theorem test_wit_ElementsIndependent_nans :
    isSNaNOf 0 0x7F800001 ∧ (isNaNOf 0 0x7FC00000 ∧ ¬isSNaNOf 0 0x7FC00000) ∧ ¬isNaNOf 0 0x3F800000 ∧ ¬isNaNOf 0 (infBits 0 false) := by
  unfold isSNaNOf isNaNOf
  decide

/-- Operands that meet the hypotheses on one element: a width, formats, a shift amount, a field. -/
theorem test_wit_WordArithmetic :
    (∀ n ∈ [8, 16, 32, 64], n = 8 ∨ n = 16 ∨ n = 32 ∨ n = 64) ∧ (List.range 12).map cvtWidth = [32, 64, 16, 16, 8, 16, 32, 64, 8, 16, 32, 64] ∧
    (2 : Nat) ≤ 8 ∧ (15 : Nat) < 128 / 8 ∧ isSNaNOf 0 0x7F800001 := by
  unfold isSNaNOf isNaNOf
  decide

/-- FIPS 180-4, the digest of "abc", which R436 names by the standard. -/
theorem test_R436_sha256 :
    sha256 [0x61, 0x62, 0x63] = [0xba, 0x78, 0x16, 0xbf, 0x8f, 0x01, 0xcf, 0xea, 0x41, 0x41, 0x40, 0xde, 0x5d, 0xae, 0x22, 0x23, 0xb0, 0x03, 0x61, 0xa3,
      0x96, 0x17, 0x7a, 0x9c, 0xb4, 0x10, 0xff, 0x61, 0xf2, 0x00, 0x15, 0xad] := by decide +kernel

end Sys2Proof.Tests
end

section
/-! SUPPORT. What a write of memory leaves alone, and what a halt of a context leaves alone when a save area fails (R442). -/
namespace Sys2Proof.Machine

/-! What a step of the memory system leaves alone (R86, R92 to R95, R278): waves, blocks, launches, and which contexts run. -/

/-- What admission reads of a context: the slots in use (R376), and what decides whether it runs. -/
def Ctx.standing (c : Ctx) : List Nat × Bool × Bool := (c.slots, c.halted, c.rloss)

/-- The machine's work is as it was: every wave, block and launch, and the standing of every context. -/
structure WorkKept (s t : State) : Prop where
  waves : t.waves = s.waves
  blocks : t.blocks = s.blocks
  launches : t.launches = s.launches
  admissions : t.admissions = s.admissions
  ctxs : ∀ c, (tget t.ctxs c).map Ctx.standing = (tget s.ctxs c).map Ctx.standing

theorem WorkKept.refl (s : State) : WorkKept s s := ⟨rfl, rfl, rfl, rfl, fun _ => rfl⟩

theorem WorkKept.trans {s u t : State} (h : WorkKept s u) (g : WorkKept u t) : WorkKept s t :=
  ⟨g.waves.trans h.waves, g.blocks.trans h.blocks, g.launches.trans h.launches, g.admissions.trans h.admissions,
    fun c => (g.ctxs c).trans (h.ctxs c)⟩

theorem WorkKept.foldl {β : Type} {g : State → β → State} (hg : ∀ s x, WorkKept s (g s x)) (l : List β) (s : State) :
    WorkKept s (l.foldl g s) :=
  foldl_keeps (WorkKept s) g l (fun _ _ _ h => h.trans (hg _ _)) s (.refl s)

/-- A field of the entries that an update leaves alone reads the same at every key. -/
theorem map_tget_tmod {α β : Type} (t : Tab α) (k j : Nat) (f : α → α) (p : α → β) (hp : ∀ x, p (f x) = p x) :
    (tget (tmod t k f) j).map p = (tget t j).map p := by
  by_cases hj : j = k
  · subst hj
    rw [tget_tmod_same]
    cases tget t j <;> simp [hp]
  · rw [tget_tmod_ne _ _ _ _ hj]

theorem WorkKept.modCtx (s : State) (k : Nat) (f : Ctx → Ctx) (hf : ∀ c, (f c).standing = c.standing) : WorkKept s (s.modCtx k f) :=
  ⟨rfl, rfl, rfl, rfl, fun _ => map_tget_tmod _ _ _ _ _ hf⟩

theorem dropVigil_workKept (s : State) (v : Vigil) : WorkKept s (dropVigil s v) := by
  have h : WorkKept s { s with vigils := terase s.vigils v.id, errs := s.errs.filter fun l => l ≠ .vigil v.id } :=
    ⟨rfl, rfl, rfl, rfl, fun _ => rfl⟩
  unfold dropVigil
  dsimp only
  split
  · exact h
  · exact h.trans (WorkKept.modCtx _ _ _ fun _ => rfl)

theorem wakeVigil_workKept (s : State) (v : Vigil) (f : Bool) (x : DWord) : WorkKept s (wakeVigil s v f x) :=
  (dropVigil_workKept s v).trans ⟨rfl, rfl, rfl, rfl, fun _ => rfl⟩

theorem evalVigils_workKept (s : State) (loc : WLoc) (n : Nat) : WorkKept s (evalVigils s loc n) := by
  refine WorkKept.foldl (fun s v => ?_) _ s
  split
  · exact wakeVigil_workKept _ _ _ _
  · exact .refl s

theorem setDie_workKept (s : State) (d : Nat) (x : Die) : WorkKept s (s.setDie d x) := ⟨rfl, rfl, rfl, rfl, fun _ => rfl⟩

theorem l2Drop_workKept (s : State) (x : Nat) : WorkKept s (l2Drop s x) := by
  unfold l2Drop
  cases tget s.l2 (x / 4) <;> exact ⟨rfl, rfl, rfl, rfl, fun _ => rfl⟩

theorem errs_workKept (s : State) (e) : WorkKept s { s with errs := e } := ⟨rfl, rfl, rfl, rfl, fun _ => rfl⟩

theorem evictSector_workKept {s t : State} {x : Nat} (h : evictSector s x = some t) : WorkKept s t := by
  unfold evictSector at h
  split at h
  · cases h; exact .refl s
  · have hd := fun e => (l2Drop_workKept s x).trans (errs_workKept _ e)
    dsimp only at h
    split_ifs at h <;> cases h
    · exact hd _
    · exact (hd _).trans (setDie_workKept _ _ _)
    · exact hd _
    · exact hd _
    · exact (hd _).trans (setDie_workKept _ _ _)

theorem makeChunks_workKept (keep but need fuel : Nat) (s : State) : WorkKept s (makeChunks keep but need fuel s) := by
  induction fuel generalizing s with
  | zero => exact .refl s
  | succ n ih =>
    unfold makeChunks
    dsimp only
    split_ifs
    · exact .refl s
    · exact .refl s
    · split
      · exact .refl s
      · rename_i s1 h
        obtain ⟨x, -, hx⟩ := List.mem_filterMap.mp (List.mem_of_getElem? h)
        exact (evictSector_workKept hx).trans (ih s1)

theorem evictLine_workKept {s t : State} {l : Nat} (h : evictLine s l = some t) : WorkKept s t := by
  simp only [evictLine, List.foldl_cons, List.foldl_nil, Option.bind_eq_some_iff, Option.some.injEq] at h
  obtain ⟨s3, ⟨s2, ⟨s1, ⟨s0, rfl, h0⟩, h1⟩, h2⟩, h3⟩ := h
  exact ((evictSector_workKept h0).trans (evictSector_workKept h1)).trans
    ((evictSector_workKept h2).trans (evictSector_workKept h3))

theorem makeTag_workKept (s : State) (l : Nat) : WorkKept s (makeTag s l) := by
  unfold makeTag
  dsimp only
  split_ifs
  · exact .refl s
  · exact .refl s
  · unfold Option.getD
    split
    · rename_i s1 h
      obtain ⟨x, -, hx⟩ := List.mem_filterMap.mp (List.mem_of_getElem? h)
      exact evictLine_workKept hx
    · exact .refl s

theorem l2Put_workKept (s : State) (cmp : Bool) (x : Nat) (f : Option L2Sector → L2Sector) : WorkKept s (l2Put s cmp x f) :=
  ((makeTag_workKept s _).trans (makeChunks_workKept _ _ _ _ _)).trans ⟨rfl, rfl, rfl, rfl, fun _ => rfl⟩

theorem homeFill_workKept (s : State) (cmp : Bool) (pa : Nat) : WorkKept s (homeFill s cmp pa) := by
  unfold homeFill
  dsimp only
  split_ifs
  · exact .refl s
  · exact (l2Put_workKept s cmp (pa / 48) fun _ => ⟨false, 0, 0⟩).trans (errs_workKept _ _)
  · exact l2Put_workKept _ _ _ _

theorem clearErrs_workKept (s : State) (x : Nat) : WorkKept s (clearErrs s x) := by
  unfold clearErrs
  dsimp only
  split_ifs
  · exact (setDie_workKept _ _ _).trans (errs_workKept _ _)
  · exact errs_workKept _ _

theorem dirtyParts_workKept (ctx : Nat) (cmp : Bool) (l : List (Nat × Nat)) (s : State) : WorkKept s (dirtyParts s ctx cmp l) := by
  induction l generalizing s with
  | nil => exact .refl s
  | cons e l ih =>
    have hp := l2Put_workKept s cmp (e.1 / 48) fun _ => ⟨true, ctx, 0⟩
    unfold dirtyParts
    dsimp only
    refine WorkKept.trans ?_ (ih _)
    split_ifs
    · exact hp.trans (clearErrs_workKept _ _)
    · exact hp.trans (errs_workKept _ _)
    · exact hp

/-- A write at a home slice reaches memory, the slices and the vigils, and no wave itself (R278). -/
theorem homeWrite_workKept (s : State) (ctx pa : Nat) (bs : List Byte) (cmp : Bool) : WorkKept s (homeWrite s ctx pa bs cmp) := by
  unfold homeWrite
  split_ifs
  · exact .refl s
  · have hm : WorkKept s { s with mem := memWrite s.mem pa bs } := ⟨rfl, rfl, rfl, rfl, fun _ => rfl⟩
    exact (hm.trans (dirtyParts_workKept _ _ _ _)).trans (evalVigils_workKept _ _ _)

theorem tlbAdd_workKept (s : State) (e : TEntry) : WorkKept s (tlbAdd s e) := by
  unfold tlbAdd
  split_ifs
  · exact .refl s
  · exact ⟨rfl, rfl, rfl, rfl, fun _ => rfl⟩

theorem useXlat_workKept (s : State) (a : Agent) (ctx va : Nat) (x : Xlat) : WorkKept s (useXlat s a ctx va x) := by
  unfold useXlat
  dsimp only
  refine WorkKept.trans ?_ (WorkKept.foldl (fun s c => tlbAdd_workKept s _) _ _)
  split_ifs
  · exact .refl s
  · exact WorkKept.foldl (fun s pa => homeFill_workKept s false pa) _ _

theorem atomAt_workKept (s : State) (ctx pa op : Nat) (pk w64 : Bool) (rnd : Nat) (v cmp : DWord) (pc : Bool) :
    WorkKept s (atomAt s ctx pa op pk w64 rnd v cmp pc).1 :=
  (homeWrite_workKept _ _ _ _ _).trans (.modCtx _ _ _ fun _ => rfl)

theorem performSent_workKept (s : State) (l : List Sent) : WorkKept s (performSent s l) := by
  refine WorkKept.foldl (fun s x => ?_) l s
  split
  · exact homeWrite_workKept _ _ _ _ _
  · exact atomAt_workKept _ _ _ _ _ _ _ _ _ _

theorem flushSent_workKept (s : State) (p : Sent → Bool) : WorkKept s (flushSent s p) := by
  unfold flushSent
  have h : ∀ l, WorkKept s { s with sent := l } := fun _ => ⟨rfl, rfl, rfl, rfl, fun _ => rfl⟩
  exact (h _).trans (performSent_workKept _ _)

theorem settleAccesses_workKept (s : State) (k : Nat) : WorkKept s (settleAccesses s k) :=
  (flushSent_workKept s _).trans ⟨rfl, rfl, rfl, rfl, fun _ => rfl⟩

theorem writeBackPrivate_workKept (s : State) (k : Nat) (w : Wave) : WorkKept s (writeBackPrivate s k w) := by
  have h : ∀ x, WorkKept s (s.setCore w.core x) := fun _ => ⟨rfl, rfl, rfl, rfl, fun _ => rfl⟩
  exact (h _).trans (WorkKept.foldl (fun _ _ => homeWrite_workKept _ _ _ _ _) _ _)

/-! Writes of the save area that succeed. -/

theorem saWriteParts_workKept {ctx : Nat} {ps : List (Nat × List Byte)} {s t : State} (h : saWriteParts s ctx ps = .ok t) :
    WorkKept s t := by
  induction ps generalizing s with
  | nil => cases h; exact .refl _
  | cons e ps ih =>
    unfold saWriteParts at h
    split at h
    · cases h
    · exact ((useXlat_workKept _ _ _ _ _).trans (homeWrite_workKept _ _ _ _ _)).trans (ih h)

theorem saWrites_workKept {ctx : Nat} {ps : List (Nat × List Byte)} {s t : State} (h : saWrites s ctx ps = .ok t) : WorkKept s t := by
  induction ps generalizing s with
  | nil => cases h; exact .refl _
  | cons e ps ih =>
    unfold saWrites at h
    split at h
    · cases h
    · rename_i u hu
      exact (saWriteParts_workKept hu).trans (ih h)

theorem tryHeader_workKept {s t : State} {b : Nat} (h : tryHeader s b = .ok t) : WorkKept s t := by
  unfold tryHeader at h
  split at h
  · cases h; exact .refl s
  · split at h
    · cases h; exact .refl s
    · split at h
      · rename_i hw
        cases h
        exact saWrites_workKept hw
      · cases h

/-! A context that is halted (R370, R374, R442): its blocks may leave their cores, and each keeps its place in its launch. -/

/-- What names a block and where it runs: its context, launch, queue, position, cluster, core and slot (R336, R376). -/
def Block.place (x : Block) : (Nat × Nat × Nat) × (Nat × Nat × Nat × Nat) × Nat × Nat × Nat × Nat :=
  ((x.ctx, x.launch, x.queue), (x.bx, x.byy, x.bz, x.linear), x.cluster, x.inCluster, x.core, x.slot)

/-- No block has left its place, no launch has changed, no slot has been taken or freed, and no halted context runs. -/
structure PlacesKept (s t : State) : Prop where
  launches : t.launches = s.launches
  admissions : t.admissions = s.admissions
  blocks : ∀ b, (tget t.blocks b).map Block.place = (tget s.blocks b).map Block.place
  slots : ∀ c, (tget t.ctxs c).map Ctx.slots = (tget s.ctxs c).map Ctx.slots
  runs : ∀ c, ctxRuns t c = true → ctxRuns s c = true

theorem PlacesKept.refl (s : State) : PlacesKept s s := ⟨rfl, rfl, fun _ => rfl, fun _ => rfl, fun _ h => h⟩

theorem PlacesKept.trans {s u t : State} (h : PlacesKept s u) (g : PlacesKept u t) : PlacesKept s t :=
  ⟨g.launches.trans h.launches, g.admissions.trans h.admissions, fun b => (g.blocks b).trans (h.blocks b),
    fun c => (g.slots c).trans (h.slots c), fun c r => h.runs c (g.runs c r)⟩

theorem PlacesKept.foldl {β : Type} {g : State → β → State} (hg : ∀ s x, PlacesKept s (g s x)) (l : List β) (s : State) :
    PlacesKept s (l.foldl g s) :=
  foldl_keeps (PlacesKept s) g l (fun _ _ _ h => h.trans (hg _ _)) s (.refl s)

/-- Whether a context runs is read off its standing. -/
theorem ctxRuns_standing (s : State) (c : Nat) :
    ctxRuns s c = (((tget s.ctxs c).map Ctx.standing).map fun x => !x.2.1 && !x.2.2).getD false := by
  rw [Option.map_map]; rfl

theorem WorkKept.ctxRuns {s t : State} (h : WorkKept s t) (c : Nat) : ctxRuns t c = ctxRuns s c := by
  rw [ctxRuns_standing, ctxRuns_standing, h.ctxs]

theorem WorkKept.slots {s t : State} (h : WorkKept s t) (c : Nat) : (tget t.ctxs c).map Ctx.slots = (tget s.ctxs c).map Ctx.slots := by
  have := congrArg (Option.map Prod.fst) (h.ctxs c)
  rwa [Option.map_map, Option.map_map] at this

theorem WorkKept.places {s t : State} (h : WorkKept s t) : PlacesKept s t :=
  ⟨h.launches, h.admissions, fun b => by rw [h.blocks], h.slots, fun c r => (h.ctxRuns c).symm.trans r⟩

theorem modWave_placesKept (s : State) (k : Nat) (f : Wave → Wave) : PlacesKept s (s.modWave k f) :=
  ⟨rfl, rfl, fun _ => rfl, fun _ => rfl, fun _ h => h⟩

theorem setBlock_placesKept {s : State} {b : Nat} {y : Block} (h : (tget s.blocks b).map Block.place = some y.place) :
    PlacesKept s (s.setBlock b y) := by
  refine ⟨rfl, rfl, fun j => ?_, fun _ => rfl, fun _ h => h⟩
  show (tget (tset s.blocks b y) j).map _ = _
  rw [tget_tset]
  split_ifs with hj
  · rw [hj, h]; rfl
  · rfl

theorem modCtx_placesKept (s : State) (k : Nat) (f : Ctx → Ctx) (hs : ∀ c, (f c).slots = c.slots)
    (hh : ∀ c, (f c).halted = false → c.halted = false) (hr : ∀ c, (f c).rloss = c.rloss) : PlacesKept s (s.modCtx k f) := by
  refine ⟨rfl, rfl, fun _ => rfl, fun _ => map_tget_tmod _ _ _ _ _ hs, fun c h => ?_⟩
  by_cases hc : c = k
  · subst hc
    unfold Machine.ctxRuns State.modCtx at h
    unfold Machine.ctxRuns
    rw [tget_tmod_same] at h
    cases hx : tget s.ctxs c with
    | none => simp [hx] at h
    | some x =>
      simp only [hx, Option.map_some, Option.getD_some, Bool.and_eq_true, Bool.not_eq_true', hr] at h ⊢
      exact ⟨hh x h.1, h.2⟩
  · unfold Machine.ctxRuns State.modCtx at h
    rw [tget_tmod_ne _ _ _ _ hc] at h
    exact h

/-! The steps of the matrix engine that a swap-out completes first (R262). -/

theorem modTile_workKept (s : State) (id : Nat) (f : Tile → Tile) : WorkKept s (s.modTile id f) := ⟨rfl, rfl, rfl, rfl, fun _ => rfl⟩

theorem tileWrite_workKept (s : State) (id off : Nat) (bs : List Byte) : WorkKept s (tileWrite s id off bs) :=
  ((modTile_workKept s id _).trans (errs_workKept _ _)).trans (evalVigils_workKept _ _ _)

theorem runMma_workKept (s : State) (c : Nat) (aT bT : Option Nat) (o : MmaOp) (rows : List MmaOp) :
    WorkKept s (runMma s c aT bT o rows).1 := by
  unfold runMma
  cases tget s.tiles c with
  | none => exact .refl s
  | some t => exact (modTile_workKept s c _).trans (errs_workKept _ _)

theorem runMscl_workKept (s : State) (c rc fc mode : Nat) (alpha : List DWord) : WorkKept s (runMscl s c rc fc mode alpha).1 := by
  unfold runMscl
  cases tget s.tiles c with
  | none => exact .refl s
  | some t => exact (modTile_workKept s c _).trans (errs_workKept _ _)

theorem runStep_workKept (s : State) (st : MStep) : WorkKept s (runStep s st).1 := by
  unfold runStep
  dsimp only
  split
  · exact runMma_workKept _ _ _ _ _ _
  · exact (modTile_workKept s _ _).trans (errs_workKept _ _)
  · exact WorkKept.foldl (fun _ _ => tileWrite_workKept _ _ _ _) _ _
  · exact runMscl_workKept _ _ _ _ _ _
  · exact .refl s

theorem correctError_workKept (s : State) (d : Nat) : WorkKept s (correctError s d) := by
  unfold correctError
  split_ifs
  · exact setDie_workKept _ _ _
  · exact .refl s

theorem mergeStep_placesKept (s : State) (st : MStep) (fl : FFlags) : PlacesKept s (mergeStep s st fl) :=
  PlacesKept.foldl (fun _ _ => modWave_placesKept _ _ _) _ _

theorem completeStep_placesKept (s : State) (c : Nat) (st : MStep) : PlacesKept s (completeStep s c st) := by
  have h1 : WorkKept s (if accBad s st then correctError (runStep s st).1 (dieOfCore c) else (runStep s st).1) := by
    split_ifs
    · exact (runStep_workKept s st).trans (correctError_workKept _ _)
    · exact runStep_workKept s st
  exact (h1.places.trans (mergeStep_placesKept _ st (runStep s st).2)).trans ⟨rfl, rfl, fun _ => rfl, fun _ => rfl, fun _ h => h⟩

theorem completeBlockSteps_placesKept (s : State) (c b : Nat) : PlacesKept s (completeBlockSteps s c b) :=
  PlacesKept.foldl (fun _ _ => completeStep_placesKept _ _ _) _ _

/-! The swap-out and the halt. -/

theorem suspendWaves_placesKept (s : State) (b : Nat) : PlacesKept s (suspendWaves s b) := by
  refine PlacesKept.foldl (fun s kw => ?_) _ s
  have h := (settleAccesses_workKept s kw.1).places.trans (modWave_placesKept _ kw.1 Wave.suspend)
  dsimp only
  split
  · exact h
  · exact h.trans (writeBackPrivate_workKept _ _ _).places

theorem detachBlock_placesKept {s : State} {b : Nat} {x : Block} (h : (tget s.blocks b).map Block.place = some x.place) :
    PlacesKept s (detachBlock s b x) := by
  have hc : ∀ y, PlacesKept s (s.setCore x.core y) := fun _ => ⟨rfl, rfl, fun _ => rfl, fun _ => rfl, fun _ h => h⟩
  refine ((hc _).trans (setBlock_placesKept (b := b) ?_)).trans ⟨rfl, rfl, fun _ => rfl, fun _ => rfl, fun _ h => h⟩
  exact h

theorem swapOutRaw_placesKept (s : State) (b : Nat) (status : BStatus) : PlacesKept s (swapOutRaw s b status).1 := by
  unfold swapOutRaw
  split
  · exact .refl s
  · rename_i x hb
    have hx : (tget s.blocks b).map Block.place = some x.place := by rw [hb]; rfl
    split
    · exact .refl s
    · have h1 := (completeBlockSteps_placesKept s x.core b).trans (suspendWaves_placesKept _ b)
      dsimp only
      split
      · exact h1.trans (setBlock_placesKept ((h1.blocks b).trans hx))
      · rename_i hw
        have h2 := h1.trans (saWrites_workKept hw).places
        refine (h2.trans (detachBlock_placesKept ?_)).trans (PlacesKept.foldl (fun _ _ => modWave_placesKept _ _ _) _ _)
        exact (h2.blocks b).trans hx

theorem notify_placesKept (s : State) (ctx cmd : Nat) (arg : DWord) (data : List Byte) : PlacesKept s (s.notify ctx cmd arg data) :=
  ⟨rfl, rfl, fun _ => rfl, fun _ => rfl, fun _ h => h⟩

theorem noteSaFail_placesKept (s : State) (ctx slot : Nat) (e : SaFail) (redo : SaRedo) : PlacesKept s (noteSaFail s ctx slot e redo) := by
  refine PlacesKept.trans ?_ (notify_placesKept _ _ _ _ _)
  exact modCtx_placesKept _ _ _ (fun _ => rfl) (fun _ h => h) fun _ => rfl

theorem writeCflags_placesKept (s : State) (ctx : Nat) : PlacesKept s (writeCflags s ctx) := by
  unfold writeCflags
  cases tget s.ctxs ctx with
  | none => exact .refl s
  | some c =>
    dsimp only
    split
    · exact noteSaFail_placesKept _ _ _ _ _
    · rename_i h
      exact (saWriteParts_workKept h).places

theorem halt_placesKept (s : State) (ctx : Nat) : PlacesKept s (s.modCtx ctx fun c => { c with halted := true }) :=
  modCtx_placesKept _ _ _ (fun _ => rfl) (fun _ h => Bool.noConfusion h) fun _ => rfl

theorem ctxRuns_halt (s : State) (ctx : Nat) : ctxRuns (s.modCtx ctx fun c => { c with halted := true }) ctx = false := by
  unfold ctxRuns State.modCtx
  rw [tget_tmod_same]
  cases tget s.ctxs ctx <;> rfl

/-- A halt keeps every place and leaves its context halted. -/
theorem haltCtx_placesKept (s : State) (ctx : Nat) : PlacesKept s (haltCtx s ctx) ∧ ctxRuns (haltCtx s ctx) ctx = false := by
  constructor
  · refine ((PlacesKept.foldl (fun s e => ?_) _ s).trans (halt_placesKept _ ctx)).trans (writeCflags_placesKept _ ctx)
    have h := swapOutRaw_placesKept s e.1 .swapped
    split
    · rename_i hr
      rwa [hr] at h
    · rename_i hr
      rw [hr] at h
      exact h.trans (noteSaFail_placesKept _ _ _ _ _)
  · refine Bool.eq_false_iff.2 fun h => ?_
    exact Bool.eq_false_iff.1 (ctxRuns_halt _ ctx) ((writeCflags_placesKept _ ctx).runs ctx h)

theorem saFailed_placesKept (s : State) (ctx slot : Nat) (e : SaFail) (redo : SaRedo) :
    PlacesKept s (saFailed s ctx slot e redo) ∧ ctxRuns (saFailed s ctx slot e redo) ctx = false :=
  ⟨(noteSaFail_placesKept s ctx slot e redo).trans (haltCtx_placesKept _ ctx).1, (haltCtx_placesKept _ ctx).2⟩

/-- A header that was written changes no work; one that was not halts the context of its block (R442). -/
theorem writeHeader_cases (s : State) (b : Nat) (x : Block) (hb : tget s.blocks b = some x) :
    WorkKept s (writeHeader s b) ∨ PlacesKept s (writeHeader s b) ∧ ctxRuns (writeHeader s b) x.ctx = false := by
  unfold writeHeader
  cases h : tryHeader s b with
  | ok t => exact .inl (tryHeader_workKept h)
  | error e =>
    have hctx : e.1 = x.ctx := by
      unfold tryHeader at h
      simp only [hb] at h
      split at h
      · cases h
      · split at h
        · cases h
        · cases h; rfl
    rw [← hctx]
    exact .inr (saFailed_placesKept s e.1 e.2.1 e.2.2 (.header b))

end Sys2Proof.Machine
end

section
/-! SUPPORT. Waves and blocks that are born by launch (R336, R338, R376), and how births follow one another. -/
namespace Sys2Proof.Machine

/-! The birth of one wave by launch (R336, R338, R339, R350). -/

theorem tget_map_range' {α : Type} (f : Nat → α) (a n i : Nat) :
    tget ((List.range' a n).map fun k => (k, f k)) i = if a ≤ i ∧ i < a + n then some (f i) else none := by
  induction n generalizing a with
  | zero => rw [if_neg (by omega)]; rfl
  | succ n ih =>
    rw [List.range'_succ, List.map_cons, tget, ih]
    by_cases h : a = i
    · subst h
      rw [if_pos rfl, if_pos (by omega)]
    · rw [if_neg h]
      rcases Nat.lt_or_ge i a with hi | hi
      · rw [if_pos hi, if_neg (by omega)]
      · rw [if_neg (by omega)]
        exact if_congr (by omega) rfl rfl

/-- A far register that nothing has written reads 0 (R338). -/
theorem reg_far_empty (s : State) (w : Wave) (h : w.far = []) (i n : Nat) : w.reg s 2 i n = 0 := by
  simp [Wave.reg, Wave.file, h]

/-- A launched wave, lit at some cycle or not, is as R338 has it be born. -/
theorem launchWave_born (s t : State) (la : Launch) (b core wid : Nat) (frame : Option Nat) (lit : Bool) (at' : Nat) (wt : Wait)
    (h : (lit = true ∧ wt = .none) ∨ (lit = false ∧ wt = .parked)) :
    BornByLaunch t la b core wid frame { launchWave s la b core wid frame with lit := lit, litAt := at', wait := wt } where
  place := ⟨rfl, rfl, rfl, rfl, by show (4 * core + _ % 4) / 4 = core; omega⟩
  start := ⟨rfl, rfl, rfl, rfl⟩
  scalars i := by
    show (tget ((List.range 12).map fun k => (k, la.arg k)) i).getD 0 = _
    rw [List.range_eq_range', tget_map_range']
    simp only [Nat.zero_le, true_and, Nat.zero_add]
    split_ifs <;> rfl
  preds i hi := by
    show (if i = 0 then _ else _) = _
    rw [if_neg hi]; rfl
  zeros := ⟨rfl, rfl, rfl, fun _ => rfl⟩
  seed := rfl
  live := rfl
  path := ⟨rfl, rfl, rfl, rfl⟩
  head := rfl
  far := ⟨rfl, rfl, fun i n => reg_far_empty t _ rfl i n⟩
  held := ⟨rfl, rfl, rfl, rfl, rfl, rfl, rfl⟩
  counts := ⟨rfl, rfl, rfl, rfl⟩
  frameNo := ⟨rfl, rfl⟩
  ready := h

/-- A far register of a wave reads the same in every state. -/
theorem reg_far_state (s t : State) (w : Wave) (i n : Nat) : w.reg s 2 i n = w.reg t 2 i n := rfl

/-- No part of a wave's birth speaks of the rest of the machine. -/
theorem BornByLaunch.anywhere {s : State} {la : Launch} {b core wid : Nat} {frame : Option Nat} {w : Wave}
    (h : BornByLaunch s la b core wid frame w) (t : State) : BornByLaunch t la b core wid frame w :=
  { h with far := ⟨h.far.1, h.far.2.1, fun i n => (reg_far_state t s w i n).trans (h.far.2.2 i n)⟩ }

/-- Wave `wid` of a block enters the machine under a fresh key. -/
def bornWave (la : Launch) (b core : Nat) (frames : List Nat) (s : State) (wid : Nat) : State :=
  lightOrQueue (s.setWave (tfresh s.waves) (launchWave s la b core wid (frames[wid]?))) (tfresh s.waves)

/-- Neither a block, a launch, a context nor the count of admissions differs. -/
structure BooksKept (s t : State) : Prop where
  blocks : t.blocks = s.blocks
  launches : t.launches = s.launches
  ctxs : t.ctxs = s.ctxs
  admissions : t.admissions = s.admissions

theorem BooksKept.refl (s : State) : BooksKept s s := ⟨rfl, rfl, rfl, rfl⟩

theorem BooksKept.trans {s u t : State} (h : BooksKept s u) (g : BooksKept u t) : BooksKept s t :=
  ⟨g.blocks.trans h.blocks, g.launches.trans h.launches, g.ctxs.trans h.ctxs, g.admissions.trans h.admissions⟩

/-- A birth adds one wave, which is as R338 has it, and changes no other. -/
theorem bornWave_waves (la : Launch) (b core : Nat) (frames : List Nat) (s : State) (wid : Nat) :
    BooksKept s (bornWave la b core frames s wid) ∧
      ∃ w, (∀ t, BornByLaunch t la b core wid (frames[wid]?) w) ∧
        (bornWave la b core frames s wid).waves = tset s.waves (tfresh s.waves) w := by
  unfold bornWave lightOrQueue
  rw [setWave_wave_same]
  dsimp only
  split_ifs
  · exact ⟨⟨rfl, rfl, rfl, rfl⟩, _, fun t => launchWave_born s t la b core wid _ true _ .none (.inl ⟨rfl, rfl⟩), tset_tset _ _ _ _⟩
  · unfold joinLighting
    rw [setWave_wave_same]
    dsimp only
    have hw : ∀ t, BornByLaunch t la b core wid (frames[wid]?)
        { launchWave s la b core wid (frames[wid]?) with wait := .parked } :=
      fun t => launchWave_born s t la b core wid _ false 0 .parked (.inr ⟨rfl, rfl⟩)
    split_ifs
    · exact ⟨⟨rfl, rfl, rfl, rfl⟩, _, hw, tset_tset _ _ _ _⟩
    · exact ⟨⟨rfl, rfl, rfl, rfl⟩, _, hw, tset_tset _ _ _ _⟩

/-- The waves of a block, numbers below `m`, have been born between two states, and no others. -/
structure WavesBorn (s t : State) (la : Launch) (b core : Nat) (frames : List Nat) (m : Nat) : Prop where
  books : BooksKept s t
  old : ∀ k w, s.wave k = some w → t.wave k = some w
  born : ∀ wid, wid < m → ∃ k w, s.wave k = none ∧ t.wave k = some w ∧ ∀ u, BornByLaunch u la b core wid (frames[wid]?) w
  others : ∀ k w, s.wave k = none → t.wave k = some w → w.wid < m ∧ w.block = b

theorem wavesBorn_fold (s : State) (la : Launch) (b core : Nat) (frames : List Nat) (m : Nat) :
    WavesBorn s ((List.range m).foldl (bornWave la b core frames) s) la b core frames m := by
  induction m with
  | zero => exact ⟨.refl s, fun _ _ h => h, fun _ h => absurd h (Nat.not_lt_zero _), fun _ _ h g => by cases h.symm.trans g⟩
  | succ m ih =>
    rw [List.range_succ, List.foldl_append, List.foldl_cons, List.foldl_nil]
    generalize (List.range m).foldl (bornWave la b core frames) s = u at ih ⊢
    obtain ⟨hbooks, w0, hw0, hset⟩ := bornWave_waves la b core frames u m
    have hfresh : u.wave (tfresh u.waves) = none := tget_tfresh _
    have hget : ∀ k, (bornWave la b core frames u m).wave k = if k = tfresh u.waves then some w0 else u.wave k := by
      intro k
      unfold State.wave
      rw [hset, tget_tset]
    have hold : ∀ k w, u.wave k = some w → (bornWave la b core frames u m).wave k = some w := by
      intro k w h
      rw [hget, if_neg (fun hk => by rw [hk, hfresh] at h; cases h), h]
    have hnone : ∀ k, u.wave k = none → s.wave k = none := by
      intro k h
      cases hs : s.wave k with
      | none => rfl
      | some w => rw [ih.old k w hs] at h; cases h
    refine ⟨ih.books.trans hbooks, fun k w h => hold k w (ih.old k w h), fun wid hwid => ?_, fun k w h g => ?_⟩
    · rcases Nat.lt_succ_iff_lt_or_eq.1 hwid with hlt | rfl
      · obtain ⟨k, w, hs, hu, hw⟩ := ih.born wid hlt
        exact ⟨k, w, hs, hold k w hu, hw⟩
      · exact ⟨_, w0, hnone _ hfresh, by rw [hget, if_pos rfl], hw0⟩
    · rw [hget] at g
      split_ifs at g with hk
      · cases g
        obtain ⟨-, hb, hwid, -⟩ := (hw0 s).place
        exact ⟨by omega, hb⟩
      · obtain ⟨h1, h2⟩ := ih.others k w h g
        exact ⟨by omega, h2⟩

/-! The birth of one block, and of the blocks of a cluster one after another (R336, R347, R376). -/

/-- A block's number in its cluster, its position in the grid, its core and its slot. -/
abbrev Berth := Nat × (Nat × Nat × Nat) × Nat × Nat

/-- A block at its birth. -/
def bornBlock (la : Launch) (l c curve : Nat) (i : Berth) : Block :=
  { ctx := la.ctx, launch := l, queue := la.queue, bx := i.2.1.1, byy := i.2.1.2.1, bz := i.2.1.2.2
    linear := (i.2.1.2.2 * la.gdy + i.2.1.2.1) * la.gdx + i.2.1.1, cluster := c, inCluster := i.1, curve := curve, slot := i.2.2.2,
    core := i.2.2.1, status := .resident, strandAs := .resident, pwake := false, lost := false, escWave := 0, escKey := 0, hcause := 0,
    hpc := 0, haddr := 0, binTimer := 0, waited := 0, redd := [], notice := none, image := [], parked := [], bins := [], pieces := [],
    latches := [] }

/-- The state in which a block has been entered and its slot taken. -/
def enterBlock (s : State) (la : Launch) (l c curve : Nat) (i : Berth) : State :=
  { s with blocks := tset s.blocks (tfresh s.blocks) (bornBlock la l c curve i) }.modCtx la.ctx fun y =>
    { y with slots := y.slots ++ [i.2.2.2] }

theorem birthBlock_eq (s : State) (la : Launch) (l c curve : Nat) (i : Berth) (frames : List Nat) :
    birthBlock s la l c curve i.1 i.2.1 i.2.2.1 i.2.2.2 frames =
      writeHeader (noteBusy ((List.range la.bdim).foldl (bornWave la (tfresh s.blocks) i.2.2.1 frames) (enterBlock s la l c curve i))
        (tfresh s.blocks)) (tfresh s.blocks) := rfl

/-- Blocks of a cluster of launch `l`, one for each berth of a list, have been born between two states. What is said of waves holds where the
context still runs: a header that cannot be written halts it (R442). -/
structure ClusterBorn (s t : State) (la : Launch) (l c : Nat) (frames : List Nat) (items : List Berth) : Prop where
  launch : ∀ y, tget s.launches l = some y → ∃ q, tget t.launches l = some { y with quiet := q }
  admissions : t.admissions = s.admissions
  slots : (tget t.ctxs la.ctx).map Ctx.slots = (tget s.ctxs la.ctx).map fun x => x.slots ++ items.map fun i => i.2.2.2
  runs : ctxRuns t la.ctx = true → ctxRuns s la.ctx = true
  places : ∀ b x, tget s.blocks b = some x → ∃ y, tget t.blocks b = some y ∧ y.place = x.place
  born : ∀ i ∈ items, ∃ b y, tget s.blocks b = none ∧ tget t.blocks b = some y ∧ y.place = (bornBlock la l c 0 i).place ∧
    (ctxRuns t la.ctx = true → y.status = .resident ∧ ∀ wid, wid < la.bdim →
      ∃ k w, s.wave k = none ∧ t.wave k = some w ∧ ∀ u, BornByLaunch u la b i.2.2.1 wid (frames[i.1 * la.bdim + wid]?) w)
  waves : ctxRuns t la.ctx = true → ∀ k w, s.wave k = some w → t.wave k = some w
  blocks : ctxRuns t la.ctx = true → ∀ b x, tget s.blocks b = some x → tget t.blocks b = some x
  others : ctxRuns t la.ctx = true → ∀ k w, s.wave k = none → t.wave k = some w → w.wid < la.bdim ∧ tget s.blocks w.block = none

variable {s u t : State} {la : Launch} {l c : Nat} {frames : List Nat} {items : List Berth}

theorem ClusterBorn.nil (s : State) (la : Launch) (l c : Nat) (frames : List Nat) : ClusterBorn s s la l c frames [] where
  launch y h := ⟨y.quiet, h⟩
  admissions := rfl
  slots := by simp
  runs h := h
  places b x h := ⟨x, h, rfl⟩
  born i h := absurd h List.not_mem_nil
  waves _ _ _ h := h
  blocks _ _ _ h := h
  others _ k w h g := by rw [h] at g; cases g

/-- A block unknown after some births was unknown before them. -/
theorem ClusterBorn.noBlock (h : ClusterBorn s t la l c frames items) {b : Nat} (hb : tget t.blocks b = none) : tget s.blocks b = none := by
  cases hs : tget s.blocks b with
  | none => rfl
  | some x =>
    obtain ⟨y, hy, -⟩ := h.places b x hs
    rw [hb] at hy
    cases hy

theorem ClusterBorn.noWave (h : ClusterBorn s t la l c frames items) (hr : ctxRuns t la.ctx = true) {k : Nat} (hk : t.wave k = none) :
    s.wave k = none := by
  cases hs : s.wave k with
  | none => rfl
  | some w => rw [h.waves hr k w hs] at hk; cases hk

theorem ClusterBorn.append {more : List Berth} (h : ClusterBorn s u la l c frames items) (g : ClusterBorn u t la l c frames more) :
    ClusterBorn s t la l c frames (items ++ more) where
  launch y hy := by
    obtain ⟨q, hq⟩ := h.launch y hy
    obtain ⟨q', hq'⟩ := g.launch _ hq
    exact ⟨q', hq'⟩
  admissions := g.admissions.trans h.admissions
  slots := by
    have h1 := congrArg (Option.map (· ++ more.map fun i => i.2.2.2)) h.slots
    rw [Option.map_map, Option.map_map] at h1
    refine (g.slots.trans h1).trans ?_
    simp [Function.comp_def]
  runs r := h.runs (g.runs r)
  places b x hx := by
    obtain ⟨y, hy, hp⟩ := h.places b x hx
    obtain ⟨z, hz, hq⟩ := g.places b y hy
    exact ⟨z, hz, hq.trans hp⟩
  born i hi := by
    rcases List.mem_append.1 hi with hi | hi
    · obtain ⟨b, y, hs, hu, hp, hw⟩ := h.born i hi
      obtain ⟨z, hz, hq⟩ := g.places b y hu
      refine ⟨b, z, hs, hz, hq.trans hp, fun r => ?_⟩
      obtain ⟨hres, hborn⟩ := hw (g.runs r)
      rw [g.blocks r b y hu] at hz
      cases hz
      refine ⟨hres, fun wid hwid => ?_⟩
      obtain ⟨k, w, h1, h2, h3⟩ := hborn wid hwid
      exact ⟨k, w, h1, g.waves r k w h2, h3⟩
    · obtain ⟨b, y, hu, ht, hp, hw⟩ := g.born i hi
      refine ⟨b, y, h.noBlock hu, ht, hp, fun r => ⟨(hw r).1, fun wid hwid => ?_⟩⟩
      obtain ⟨k, w, h1, h2, h3⟩ := (hw r).2 wid hwid
      exact ⟨k, w, h.noWave (g.runs r) h1, h2, h3⟩
  waves r k w hk := g.waves r k w (h.waves (g.runs r) k w hk)
  blocks r b x hb := g.blocks r b x (h.blocks (g.runs r) b x hb)
  others r k w hs ht := by
    cases hu : u.wave k with
    | none =>
      obtain ⟨h1, h2⟩ := g.others r k w hu ht
      exact ⟨h1, h.noBlock h2⟩
    | some w' =>
      rw [g.waves r k w' hu] at ht
      cases ht
      exact h.others (g.runs r) k _ hs hu

/-- Births stand after a step that changes no work. -/
theorem ClusterBorn.work (h : ClusterBorn s u la l c frames items) (g : WorkKept u t) : ClusterBorn s t la l c frames items where
  launch := by rw [g.launches]; exact h.launch
  admissions := g.admissions.trans h.admissions
  slots := (g.slots la.ctx).trans h.slots
  runs := by rw [g.ctxRuns]; exact h.runs
  places := by rw [g.blocks]; exact h.places
  born := by unfold State.wave; rw [g.blocks, g.ctxRuns, g.waves]; exact h.born
  waves := by unfold State.wave; rw [g.ctxRuns, g.waves]; exact h.waves
  blocks := by rw [g.blocks, g.ctxRuns]; exact h.blocks
  others := by unfold State.wave; rw [g.ctxRuns, g.waves]; exact h.others

/-- A block after a step that keeps every place. -/
theorem PlacesKept.block (g : PlacesKept u t) {b : Nat} {x : Block} (h : tget u.blocks b = some x) :
    ∃ y, tget t.blocks b = some y ∧ y.place = x.place := by
  have hp := g.blocks b
  rw [h, Option.map_some, Option.map_eq_some_iff] at hp
  exact hp

/-- Births stand, as far as the places of their blocks, after a step that halts their context. -/
theorem ClusterBorn.halted (h : ClusterBorn s u la l c frames items) (g : PlacesKept u t) (hr : ctxRuns t la.ctx = false) :
    ClusterBorn s t la l c frames items where
  launch := by rw [g.launches]; exact h.launch
  admissions := g.admissions.trans h.admissions
  slots := (g.slots la.ctx).trans h.slots
  runs r := h.runs (g.runs la.ctx r)
  places b x hx := by
    obtain ⟨y, hy, hp⟩ := h.places b x hx
    obtain ⟨z, hz, hq⟩ := g.block hy
    exact ⟨z, hz, hq.trans hp⟩
  born i hi := by
    obtain ⟨b, y, hs, hu, hp, -⟩ := h.born i hi
    obtain ⟨z, hz, hq⟩ := g.block hu
    exact ⟨b, z, hs, hz, hq.trans hp, fun r => by rw [hr] at r; cases r⟩
  waves r := by rw [hr] at r; cases r
  blocks r := by rw [hr] at r; cases r
  others r := by rw [hr] at r; cases r

end Sys2Proof.Machine
end

section
/-! SUPPORT. The birth of the blocks of a cluster; the slots, cores and positions that an admission gives them (R336, R347, R376). -/
namespace Sys2Proof.Machine

variable {s u t : State} {la : Launch} {l c : Nat} {frames : List Nat} {items : List Berth}

/-- A newborn block has waited for nothing: only its launch's waiting begins again (R355). -/
theorem noteBusy_newborn (c : Nat) (frames : List Nat) {b : Nat} {x : Block} (hb : tget u.blocks b = some x) (hw : x.waited = 0) :
    ClusterBorn u (noteBusy u b) la x.launch c frames [] := by
  unfold noteBusy
  simp only [hb, hw, if_true]
  split
  · exact .nil u la _ c frames
  · split_ifs
    · exact .nil u la _ c frames
    · refine { ClusterBorn.nil u la x.launch c frames with launch := fun y hy => ⟨0, ?_⟩ }
      show tget (tmod u.launches x.launch _) x.launch = _
      rw [tget_tmod_same, hy]; rfl

theorem enterBlock_blocks (s : State) (la : Launch) (l c curve : Nat) (i : Berth) (b : Nat) :
    tget (enterBlock s la l c curve i).blocks b = if b = tfresh s.blocks then some (bornBlock la l c curve i) else tget s.blocks b :=
  tget_tset _ _ _ _

theorem enterBlock_slots (s : State) (la : Launch) (l c curve : Nat) (i : Berth) :
    (tget (enterBlock s la l c curve i).ctxs la.ctx).map Ctx.slots = (tget s.ctxs la.ctx).map fun x => x.slots ++ [i.2.2.2] := by
  show (tget (tmod s.ctxs la.ctx _) la.ctx).map _ = _
  rw [tget_tmod_same, Option.map_map]; rfl

theorem enterBlock_runs (s : State) (la : Launch) (l c curve : Nat) (i : Berth) :
    ctxRuns (enterBlock s la l c curve i) la.ctx = ctxRuns s la.ctx := by
  show ((tget (tmod s.ctxs la.ctx _) la.ctx).map _).getD false = _
  rw [tget_tmod_same, Option.map_map]; rfl

/-- A block entered and its waves born, its header still to be written. -/
theorem blockEntered_clusterBorn (s : State) (la : Launch) (l c curve : Nat) (i : Berth) (frames : List Nat) :
    ClusterBorn s ((List.range la.bdim).foldl (bornWave la (tfresh s.blocks) i.2.2.1 ((frames.drop (i.1 * la.bdim)).take la.bdim))
      (enterBlock s la l c curve i)) la l c frames [i] := by
  have h := wavesBorn_fold (enterBlock s la l c curve i) la (tfresh s.blocks) i.2.2.1 ((frames.drop (i.1 * la.bdim)).take la.bdim) la.bdim
  generalize (List.range la.bdim).foldl _ _ = u at h ⊢
  have hfresh : tget s.blocks (tfresh s.blocks) = none := tget_tfresh _
  have hblock : tget u.blocks (tfresh s.blocks) = some (bornBlock la l c curve i) := by
    rw [h.books.blocks, enterBlock_blocks, if_pos rfl]
  have hold : ∀ b x, tget s.blocks b = some x → tget u.blocks b = some x := by
    intro b x hb
    rw [h.books.blocks, enterBlock_blocks, if_neg (fun e => by rw [e, hfresh] at hb; cases hb), hb]
  exact {
    launch := fun y hy => ⟨y.quiet, by rw [h.books.launches]; exact hy⟩
    admissions := h.books.admissions
    slots := by rw [h.books.ctxs, enterBlock_slots]; rfl
    runs := fun r => by
      unfold ctxRuns at r
      rw [h.books.ctxs] at r
      exact (enterBlock_runs s la l c curve i).symm.trans r
    places := fun b x hb => ⟨x, hold b x hb, rfl⟩
    born := fun j hj => by
      obtain rfl := List.mem_singleton.1 hj
      refine ⟨_, _, hfresh, hblock, rfl, fun _ => ⟨rfl, fun wid hwid => ?_⟩⟩
      have hf : ((frames.drop (j.1 * la.bdim)).take la.bdim)[wid]? = frames[j.1 * la.bdim + wid]? := by
        rw [List.getElem?_take_of_lt hwid, List.getElem?_drop]
      rw [← hf]
      exact h.born wid hwid
    waves := fun _ => h.old
    blocks := fun _ => hold
    others := fun _ k w hs hu => by
      obtain ⟨hwid, hb⟩ := h.others k w hs hu
      exact ⟨hwid, by rw [hb, hfresh]⟩ }

theorem birthBlock_clusterBorn (s : State) (la : Launch) (l c curve : Nat) (i : Berth) (frames : List Nat) :
    ClusterBorn s (birthBlock s la l c curve i.1 i.2.1 i.2.2.1 i.2.2.2 ((frames.drop (i.1 * la.bdim)).take la.bdim)) la l c frames [i] := by
  rw [birthBlock_eq]
  have h := blockEntered_clusterBorn s la l c curve i frames
  have hblock : tget ((List.range la.bdim).foldl (bornWave la (tfresh s.blocks) i.2.2.1 ((frames.drop (i.1 * la.bdim)).take la.bdim))
      (enterBlock s la l c curve i)).blocks (tfresh s.blocks) = some (bornBlock la l c curve i) := by
    rw [(wavesBorn_fold _ la _ _ _ _).books.blocks, enterBlock_blocks, if_pos rfl]
  generalize (List.range la.bdim).foldl _ _ = u at h hblock ⊢
  have hbusy : ClusterBorn s (noteBusy u (tfresh s.blocks)) la l c frames ([i] ++ []) :=
    h.append (noteBusy_newborn (x := bornBlock la l c curve i) c frames hblock rfl)
  obtain ⟨y, hy, hplace⟩ := (noteBusy_newborn (la := la) c frames hblock rfl).places _ _ hblock
  have hctx : y.ctx = la.ctx := congrArg (fun p => p.1.1) hplace
  rcases writeHeader_cases _ _ y hy with hw | ⟨hp, hr⟩
  · exact hbusy.work hw
  · exact hbusy.halted hp (hctx ▸ hr)

/-- The blocks of a cluster, born one after another. -/
theorem birthAll_clusterBorn (s : State) (la : Launch) (l c : Nat) (frames : List Nat) (items : List Berth) :
    ClusterBorn s (birthAll s la l c frames items) la l c frames items := by
  induction items generalizing s with
  | nil => exact .nil s la l c frames
  | cons i items ih => exact (birthBlock_clusterBorn s la l c (la.curveOf c) i frames).append (ih _)

/-! Free slots, the cores of a quad, and the blocks of a cluster. -/

/-- The slots that an admission takes are free, of the context, and distinct (R376). -/
theorem freeSlots_spec {s : State} {ctx n : Nat} {slots : List Nat} (h : freeSlots s ctx n = some slots) :
    slots.length = n ∧ slots.Nodup ∧ ∀ x, tget s.ctxs ctx = some x → ∀ k ∈ slots, k < x.bslots ∧ k ∉ x.slots := by
  unfold freeSlots at h
  cases hc : tget s.ctxs ctx with
  | none => simp [hc] at h
  | some x =>
    simp only [hc] at h
    generalize (s.fv (fkey 17 ctx)).toNat = start at h
    split_ifs at h with hlen
    cases h
    refine ⟨hlen, ?_, fun y hy k hk => ?_⟩
    · refine ((List.Nodup.map_on (fun i hi j hj hij => ?_) List.nodup_range).filter _).take
      rw [List.mem_range] at hi hj
      have hib : i < max x.bslots 1 := by omega
      have hjb : j < max x.bslots 1 := by omega
      have := Nat.ModEq.add_left_cancel' start hij
      rwa [Nat.ModEq, Nat.mod_eq_of_lt hib, Nat.mod_eq_of_lt hjb] at this
    · cases hy
      have hk := List.mem_of_mem_take hk
      simp only [List.mem_filter, List.mem_map, List.mem_range, Bool.not_eq_true', List.contains_eq_mem, decide_eq_false_iff_not] at hk
      obtain ⟨⟨i, hi, rfl⟩, hfree⟩ := hk
      refine ⟨?_, hfree⟩
      have hpos : 0 < x.bslots := by omega
      rw [Nat.max_eq_left hpos]
      exact Nat.mod_lt _ hpos

theorem quadCores_nodup (s : State) (q : Nat) : (quadCores s q).Nodup := by
  refine List.Nodup.map_on (fun i hi j hj h => ?_) List.nodup_range
  rw [List.mem_range] at hi hj
  omega

theorem quad_of_mem_quadCores {s : State} {q core : Nat} (h : core ∈ quadCores s q) : core / 4 = q := by
  obtain ⟨i, -, rfl⟩ := List.mem_map.1 h
  omega

theorem coreTakes_spec {s : State} {core n : Nat} {la : Launch} (h : coreTakes s core la n = true) :
    splitOf (s.core core) = la.split ∧ hasRoom s core n la.farRegs = true ∧ strandedOn s core = false := by
  simp only [coreTakes, Bool.and_eq_true, decide_eq_true_eq, Bool.not_eq_true'] at h
  exact ⟨h.1.1, h.1.2, h.2⟩

/-- An element of a table of rows of one length. -/
theorem getElem?_flatMap_range {α : Type} (f : Nat → List α) (m a k j : Nat) (hf : ∀ i, (f i).length = m) (hk : k < a) (hj : j < m) :
    ((List.range a).flatMap f)[k * m + j]? = (f k)[j]? := by
  induction a with
  | zero => omega
  | succ a ih =>
    have hlen : ((List.range a).flatMap f).length = a * m := by simp [List.length_flatMap, hf]
    rw [List.range_succ, List.flatMap_append, List.flatMap_singleton]
    rcases Nat.lt_succ_iff_lt_or_eq.1 hk with hlt | rfl
    · have : k * m + j < a * m := calc
        k * m + j < (k + 1) * m := by rw [Nat.succ_mul]; omega
        _ ≤ a * m := Nat.mul_le_mul_right m hlt
      rw [List.getElem?_append_left (by omega), ih hlt]
    · rw [List.getElem?_append_right (by omega), hlen, Nat.add_sub_cancel_left]

/-- The position of the cluster that R347 numbers (cz × Y + cy) × X + cx. -/
theorem clusterPos_of_number (la : Launch) (cx cy cz : Nat) (hx : cx < la.gdx / la.clx) (hy : cy < la.gdy / la.cly) :
    la.clusterPos ((cz * (la.gdy / la.cly) + cy) * (la.gdx / la.clx) + cx) = (cx, cy, cz) := by
  have hclx : 0 < la.clx := Nat.pos_of_ne_zero fun h => by simp [h] at hx
  have hcly : 0 < la.cly := Nat.pos_of_ne_zero fun h => by simp [h] at hy
  unfold Launch.clusterPos Launch.dims
  rw [Nat.max_eq_left hclx, Nat.max_eq_left hcly]
  generalize la.gdx / la.clx = X at hx ⊢
  generalize la.gdy / la.cly = Y at hy ⊢
  have hX : 0 < X := by omega
  have hY : 0 < Y := by omega
  have hdiv : ((cz * Y + cy) * X + cx) / X = cz * Y + cy := by
    rw [Nat.mul_comm, Nat.mul_add_div hX, Nat.div_eq_of_lt hx, Nat.add_zero]
  simp only [Nat.max_eq_left hX, Nat.max_eq_left hY, Nat.max_eq_left (Nat.mul_pos hX hY), ← Nat.div_div_eq_div_mul, hdiv]
  rw [Nat.mul_comm (cz * Y + cy) X, Nat.mul_add_mod, Nat.mod_eq_of_lt hx, Nat.mul_comm cz Y, Nat.mul_add_mod, Nat.mod_eq_of_lt hy,
    Nat.mul_add_div hY, Nat.div_eq_of_lt hy, Nat.add_zero]

/-- Block (i, j, k) of a cluster has the number (k × CLY + j) × CLX + i, and its position is an offset from the cluster's (R336). -/
theorem clusterBlocks_getElem? (la : Launch) (c cx cy cz i j k : Nat) (hp : la.clusterPos c = (cx, cy, cz)) (hi : i < la.clx)
    (hj : j < la.cly) (hk : k < la.clz) :
    (la.clusterBlocks c)[(k * la.cly + j) * la.clx + i]? = some (cx * la.clx + i, cy * la.cly + j, cz * la.clz + k) := by
  unfold Launch.clusterBlocks
  rw [hp]
  have hn : (k * la.cly + j) * la.clx + i = k * (la.cly * la.clx) + (j * la.clx + i) := by ring
  have hlt : j * la.clx + i < la.cly * la.clx := calc
    j * la.clx + i < (j + 1) * la.clx := by rw [Nat.succ_mul]; omega
    _ ≤ la.cly * la.clx := Nat.mul_le_mul_right _ hj
  rw [hn, getElem?_flatMap_range _ (la.cly * la.clx) _ _ _ (fun _ => by simp [List.length_flatMap]) hk hlt,
    getElem?_flatMap_range _ la.clx _ _ _ (fun _ => by simp) hj hi, List.getElem?_map, List.getElem?_range hi]
  rfl

end Sys2Proof.Machine
end

section
/-! SUPPORT. The branches of CLUSTER_ADMISSION and CORE_RESPLIT, and O57. -/
namespace Sys2Proof.Machine

/-! CLUSTER_ADMISSION. -/

/-- A cluster that may be admitted to a quad: its queue runs the launch, it is its turn, its context runs, and the quad lies on its die
(R331, R347, R374, R398). -/
structure Admissible (s : State) (l : Nat) (la : Launch) (c q : Nat) : Prop where
  listed : tget s.launches l = some la
  running : (tget s.queues la.queue).bind Queue.running = some l
  may : la.mayAdmit c = true
  runs : ctxRuns s la.ctx = true
  quad : q < 48
  die : la.det = false ∨ q / 12 = la.dieOf (((tget s.queues la.queue).map fun x => qdPmask x.desc).getD 0) (la.curveOf c)

theorem Admissible.dieOk {s : State} {l c q : Nat} {la : Launch} (h : Admissible s l la c q) :
    (!la.det || decide (dieOfQuad q = la.dieOf (((tget s.queues la.queue).map fun x => qdPmask x.desc).getD 0) (la.curveOf c))) = true := by
  rw [Bool.or_eq_true, Bool.not_eq_true', decide_eq_true_eq]
  exact h.die

theorem admitRun_idle {s : State} {l : Nat} {la : Launch} (hl : tget s.launches l = some la) (c q : Nat)
    (h : (tget s.queues la.queue).bind Queue.running ≠ some l ∨ la.mayAdmit c = false ∨ ctxRuns s la.ctx = false ∨ 48 ≤ q) :
    admitRun s l c q = s := by
  unfold admitRun
  simp only [hl]
  refine if_pos ?_
  simp only [Bool.or_eq_true, Bool.not_eq_true', decide_eq_true_eq]
  tauto

section
variable {s : State} {l c q : Nat} {la : Launch} (h : Admissible s l la c q)
include h

theorem Admissible.moves (hm : quadMovable s q la = true) : admitRun s l c q = moveQuad s q la.cls := by
  unfold admitRun
  simp [h.listed, h.running, h.may, h.dieOk, h.runs, Nat.not_le.2 h.quad, hm]

theorem Admissible.refused (hm : quadMovable s q la = false) (ht : quadTakes s q la = false) : admitRun s l c q = s := by
  unfold admitRun
  simp [h.listed, h.running, h.may, h.dieOk, h.runs, Nat.not_le.2 h.quad, hm, ht]

end

/-- The cores of a quad that take the blocks of a cluster, one each, in the order of the blocks' numbers. -/
def admissionCores (s : State) (la : Launch) (c q : Nat) : List Nat :=
  ((quadCores s q).filter fun x => coreTakes s x la la.bdim).take (la.clusterBlocks c).length

/-- The berths of a cluster's blocks. -/
def admissionBerths (s : State) (la : Launch) (c q : Nat) (slots : List Nat) : List Berth :=
  (List.range (la.clusterBlocks c).length).zip ((la.clusterBlocks c).zip ((admissionCores s la c q).zip slots))

/-- The state after a cluster has been admitted. -/
def afterAdmission (s : State) (l : Nat) (la : Launch) (c q : Nat) (fr slots : List Nat) : State :=
  let s1 := birthAll s la l c fr (admissionBerths s la c q slots)
  { s1 with admissions := s1.admissions + 1 }.modLaunch l fun y => { y with admitted := y.admitted ++ [c] }

theorem Admissible.admitted {s : State} {l c q : Nat} {la : Launch} (h : Admissible s l la c q) {fr slots : List Nat}
    (hm : quadMovable s q la = false) (ht : quadTakes s q la = true)
    (hn : (la.clusterBlocks c).length ≤ ((quadCores s q).filter fun x => coreTakes s x la la.bdim).length)
    (hfr : (if la.needsFrames s then freeFrames s la.ctx ((la.clusterBlocks c).length * la.bdim) else some []) = some fr)
    (hslots : freeSlots s la.ctx (la.clusterBlocks c).length = some slots) :
    admitRun s l c q = afterAdmission s l la c q fr slots := by
  unfold admitRun
  simp [h.listed, h.running, h.may, h.dieOk, h.runs, Nat.not_le.2 h.quad, hm, ht, hfr, hslots, hn]
  rfl

theorem admissionCores_length {s : State} {la : Launch} {c q : Nat}
    (hn : (la.clusterBlocks c).length ≤ ((quadCores s q).filter fun x => coreTakes s x la la.bdim).length) :
    (admissionCores s la c q).length = (la.clusterBlocks c).length := by
  simp [admissionCores, hn]

theorem admissionCores_spec (s : State) (la : Launch) (c q : Nat) : (admissionCores s la c q).Nodup ∧ ∀ core ∈ admissionCores s la c q,
    core / 4 = q ∧ splitOf (s.core core) = la.split ∧ hasRoom s core la.bdim la.farRegs = true ∧ strandedOn s core = false := by
  refine ⟨((quadCores_nodup s q).filter _).take, fun core h => ?_⟩
  obtain ⟨hq, ht⟩ := List.mem_filter.1 (List.mem_of_mem_take h)
  exact ⟨quad_of_mem_quadCores hq, coreTakes_spec ht⟩

section
variable {s : State} {la : Launch} {c q : Nat} {slots : List Nat}
  (hcores : (admissionCores s la c q).length = (la.clusterBlocks c).length) (hslots : slots.length = (la.clusterBlocks c).length)
include hcores hslots

/-- The slots of the berths, in their order, are those that were found free. -/
theorem admissionBerths_slots : ((admissionBerths s la c q slots).map fun i => i.2.2.2) = slots := by
  have h : (fun i : Berth => i.2.2.2) = Prod.snd ∘ Prod.snd ∘ Prod.snd := rfl
  rw [h, ← List.map_map, ← List.map_map, admissionBerths, List.map_snd_zip (by simp [hcores, hslots]),
    List.map_snd_zip (by simp [hcores, hslots]), List.map_snd_zip (by omega)]

/-- Every block of the cluster has a berth, with its core and its slot. -/
theorem admissionBerths_mem {n : Nat} {pos : Nat × Nat × Nat} (hpos : (la.clusterBlocks c)[n]? = some pos) :
    ∃ i ∈ admissionBerths s la c q slots, i.1 = n ∧ i.2.1 = pos ∧ (admissionCores s la c q)[n]? = some i.2.2.1 ∧ slots[n]? = some i.2.2.2 := by
  obtain ⟨hn, -⟩ := List.getElem?_eq_some_iff.1 hpos
  have hc := List.getElem?_eq_getElem (hcores ▸ hn : n < (admissionCores s la c q).length)
  have hs := List.getElem?_eq_getElem (hslots ▸ hn : n < slots.length)
  refine ⟨(n, pos, (admissionCores s la c q)[n]'(hcores ▸ hn), slots[n]'(hslots ▸ hn)), List.mem_of_getElem? (i := n) ?_, rfl, rfl, hc, hs⟩
  simp only [admissionBerths, List.getElem?_zip_eq_some]
  exact ⟨List.getElem?_range hn, hpos, hc, hs⟩

end

/-- An admission that goes through (R24, R336, R338, R347, R376). -/
theorem afterAdmission_admittedTo {s : State} {l : Nat} {la : Launch} (c q : Nat) {fr slots : List Nat}
    (hl : tget s.launches l = some la)
    (hn : (la.clusterBlocks c).length ≤ ((quadCores s q).filter fun x => coreTakes s x la la.bdim).length)
    (hslots : freeSlots s la.ctx (la.clusterBlocks c).length = some slots) :
    (∃ la', tget (afterAdmission s l la c q fr slots).launches l = some la' ∧
      la' = { la with admitted := la.admitted ++ [c], quiet := la'.quiet }) ∧
    (afterAdmission s l la c q fr slots).admissions = s.admissions + 1 ∧
    AdmittedTo s (afterAdmission s l la c q fr slots) l la c q fr slots := by
  obtain ⟨hlen, hnodup, hfree⟩ := freeSlots_spec hslots
  obtain ⟨hcnodup, hctakes⟩ := admissionCores_spec s la c q
  have hclen := admissionCores_length hn
  have hborn := birthAll_clusterBorn s la l c fr (admissionBerths s la c q slots)
  refine ⟨?_, congrArg (· + 1) hborn.admissions, hnodup, hfree, ?_, admissionCores s la c q, hcnodup, hctakes, ?_, fun r => ?_⟩
  · obtain ⟨n, hn⟩ := hborn.launch la hl
    refine ⟨{ la with admitted := la.admitted ++ [c], quiet := n }, ?_, rfl⟩
    show tget (tmod (birthAll s la l c fr (admissionBerths s la c q slots)).launches l _) l = _
    rw [tget_tmod_same, hn]; rfl
  · have h := hborn.slots
    rw [admissionBerths_slots hclen hlen] at h
    exact h
  · rintro cx cy cz i j k n hx hy rfl hi hj hk rfl
    have hpos := clusterBlocks_getElem? la _ cx cy cz i j k (clusterPos_of_number la cx cy cz hx hy) hi hj hk
    obtain ⟨berth, hmem, hnum, hat, hcore, hslot⟩ := admissionBerths_mem hclen hlen hpos
    obtain ⟨b, y, hs, ht, hplace, hwaves⟩ := hborn.born berth hmem
    simp only [Block.place, bornBlock, hnum, hat, Prod.mk.injEq] at hplace
    obtain ⟨⟨hctx, hlaunch, hqueue⟩, ⟨hbx, hby, hbz, hlin⟩, hcl, hin, hco, hsl⟩ := hplace
    refine ⟨b, y, hs, ht, hctx, hlaunch, hqueue, hcl, hin, hbx, hby, hbz, by rw [hlin, hbx, hby, hbz], by rw [hcore, hco], by rw [hslot, hsl],
      fun r => ?_⟩
    obtain ⟨hres, hw⟩ := hwaves r
    refine ⟨hres, fun wid hwid => ?_⟩
    obtain ⟨key, w, h1, h2, h3⟩ := hw wid hwid
    rw [hnum] at h3
    exact ⟨key, w, h1, h2, hco ▸ h3 _⟩
  · exact ⟨hborn.waves r, hborn.blocks r, hborn.others r⟩

/-- A quad moved to another class (R346, R417). -/
theorem moveQuad_spec {s : State} {q : Nat} {la : Launch} (h : quadMovable s q la = true) :
    ((moveQuad s q la.cls).quad q).cls = la.cls ∧ ((moveQuad s q la.cls).quad q).chg = 1 ∧
      (moveQuad s q la.cls).waves = s.waves ∧ (moveQuad s q la.cls).launches = s.launches := by
  have hne : (s.quad q).cls ≠ la.cls := by
    simp only [quadMovable, Bool.and_eq_true, decide_eq_true_eq] at h
    tauto
  unfold moveQuad
  simp only [hne, if_false, quad_setQuad, if_true]
  exact ⟨trivial, trivial, rfl, rfl⟩

/-! CORE_RESPLIT. -/

theorem resplitRun_idle {s : State} {l : Nat} {la : Launch} (hl : tget s.launches l = some la) (c : Nat)
    (h : 192 ≤ c ∨ la.clusters = 0 ∨ (s.quad (c / 4)).grant ≠ some la.queue ∨ splitOf (s.core c) = la.split ∨ coreWaves s c ≠ [] ∨
      tileCount s c ≠ 0 ∨ strandedOn s c = true) : resplitRun s c l = s := by
  unfold resplitRun quadOfCore
  simp only [hl]
  refine if_pos ?_
  simp only [Bool.or_eq_true, decide_eq_true_eq]
  tauto

theorem resplitRun_takes {s : State} {l : Nat} {la : Launch} (hl : tget s.launches l = some la) {c : Nat} (hc : c < 192)
    (hcl : la.clusters ≠ 0) (hg : (s.quad (c / 4)).grant = some la.queue) (hs : splitOf (s.core c) ≠ la.split) (hw : coreWaves s c = [])
    (ht : tileCount s c = 0) (hst : strandedOn s c = false) :
    resplitRun s c l = s.setCore c { s.core c with
      splitF := la.split.1, splitS := la.split.2.1, splitL := la.split.2.2, l1 := [] } := by
  unfold resplitRun quadOfCore
  simp only [hl]
  refine if_neg ?_
  simp [Nat.not_le.2 hc, hcl, hg, hs, hw, ht, hst]

/-! The two steps. -/

theorem exec_clusterAdmission (l c q : Nat) (s : State) : exec (.clusterAdmission l c q) s = .next (admitRun s l c q) := rfl

theorem exec_coreResplit (c l : Nat) (s : State) : exec (.coreResplit c l) s = .next (resplitRun s c l) := rfl

/-- Settles O57: an admission is the birth of one block after another (`birthAll_clusterBorn`), each the birth of its waves
(`wavesBorn_fold`) and a header, which either changes no wave or halts the context (`writeHeader_cases`). -/
theorem admissionSteps : Obligations.AdmissionSteps := by
  unfold Obligations.AdmissionSteps
  intro s l la hl
  simp only [exec_clusterAdmission, exec_coreResplit]
  refine ⟨fun c q h => congrArg _ (admitRun_idle hl c q h), ?_, fun c h => congrArg _ (resplitRun_idle hl c h), ?_⟩
  · rintro c q pmask hrun hmay hctx hq rfl hdie
    have h : Admissible s l la c q := ⟨hl, hrun, hmay, hctx, hq, hdie⟩
    refine ⟨fun hm => ?_, fun hm ht => congrArg _ (h.refused hm ht), ?_⟩
    · exact ⟨_, congrArg _ (h.moves hm), moveQuad_spec hm⟩
    · rintro n fr slots hm ht rfl hn hfr hslots
      obtain ⟨⟨la', hla, heq⟩, hadm, hto⟩ := afterAdmission_admittedTo c q (fr := fr) hl hn hslots
      exact ⟨_, la', congrArg _ (h.admitted hm ht hn hfr hslots), hla, heq, hadm, hto⟩
  · intro c hc hcl hg hs hw ht hst
    refine ⟨_, congrArg _ (resplitRun_takes hl hc hcl hg hs hw ht hst), ?_⟩
    rw [core_setCore, if_pos rfl]
    exact ⟨rfl, rfl, fun j hj => by rw [core_setCore, if_neg hj], rfl, rfl⟩

end Sys2Proof.Machine
end

section
/-! SUPPORT. What the memory system and the token order leave alone: the cores, and every wave (R86, R92 to R95, R278, R304, R402). -/
namespace Sys2Proof.Machine

/-! Accesses at the home slices change no core. -/

theorem foldl_cores {β : Type} {g : State → β → State} (hg : ∀ s x, (g s x).cores = s.cores) (l : List β) (s : State) :
    (l.foldl g s).cores = s.cores :=
  foldl_keeps (fun t => t.cores = s.cores) g l (fun _ _ _ h => (hg _ _).trans h) s rfl

@[simp] theorem dropVigil_cores (s : State) (v : Vigil) : (dropVigil s v).cores = s.cores := by
  unfold dropVigil
  dsimp only
  split <;> rfl

@[simp] theorem evalVigils_cores (s : State) (loc : WLoc) (n : Nat) : (evalVigils s loc n).cores = s.cores := by
  refine foldl_cores (fun s v => ?_) _ s
  split
  · exact dropVigil_cores s v
  · rfl

@[simp] theorem l2Drop_cores (s : State) (x : Nat) : (l2Drop s x).cores = s.cores := by
  unfold l2Drop
  split <;> rfl

theorem evictSector_cores {s t : State} {x : Nat} (h : evictSector s x = some t) : t.cores = s.cores := by
  unfold evictSector at h
  split at h
  · cases h; rfl
  · dsimp only at h
    split_ifs at h <;> cases h <;> exact l2Drop_cores s x

theorem makeChunks_cores (keep but need fuel : Nat) (s : State) : (makeChunks keep but need fuel s).cores = s.cores := by
  induction fuel generalizing s with
  | zero => rfl
  | succ n ih =>
    unfold makeChunks
    dsimp only
    split_ifs
    · rfl
    · rfl
    · split
      · rfl
      · rename_i s1 h
        obtain ⟨x, -, hx⟩ := List.mem_filterMap.mp (List.mem_of_getElem? h)
        exact (ih s1).trans (evictSector_cores hx)

theorem evictLine_cores {s t : State} {l : Nat} (h : evictLine s l = some t) : t.cores = s.cores := by
  simp only [evictLine, List.foldl_cons, List.foldl_nil, Option.bind_eq_some_iff, Option.some.injEq] at h
  obtain ⟨s3, ⟨s2, ⟨s1, ⟨s0, rfl, h0⟩, h1⟩, h2⟩, h3⟩ := h
  rw [evictSector_cores h3, evictSector_cores h2, evictSector_cores h1, evictSector_cores h0]

theorem makeTag_cores (s : State) (l : Nat) : (makeTag s l).cores = s.cores := by
  unfold makeTag
  dsimp only
  split_ifs
  · rfl
  · rfl
  · unfold Option.getD
    split
    · rename_i s1 h
      obtain ⟨x, -, hx⟩ := List.mem_filterMap.mp (List.mem_of_getElem? h)
      exact evictLine_cores hx
    · rfl

@[simp] theorem l2Put_cores (s : State) (cmp : Bool) (x : Nat) (f : Option L2Sector → L2Sector) : (l2Put s cmp x f).cores = s.cores :=
  (makeChunks_cores _ _ _ _ _).trans (makeTag_cores s _)

@[simp] theorem clearErrs_cores (s : State) (x : Nat) : (clearErrs s x).cores = s.cores := by
  unfold clearErrs
  dsimp only
  split_ifs <;> rfl

theorem dirtyParts_cores (ctx : Nat) (cmp : Bool) (l : List (Nat × Nat)) (s : State) : (dirtyParts s ctx cmp l).cores = s.cores := by
  induction l generalizing s with
  | nil => rfl
  | cons e l ih =>
    unfold dirtyParts
    dsimp only
    rw [ih]
    split_ifs <;> simp

@[simp] theorem homeWrite_cores (s : State) (ctx pa : Nat) (bs : List Byte) (cmp : Bool) : (homeWrite s ctx pa bs cmp).cores = s.cores := by
  unfold homeWrite
  split_ifs
  · rfl
  · rw [evalVigils_cores, dirtyParts_cores]

@[simp] theorem performSent_cores (s : State) (l : List Sent) : (performSent s l).cores = s.cores := by
  refine foldl_cores (fun s x => ?_) l s
  split
  · exact homeWrite_cores _ _ _ _ _
  · exact homeWrite_cores _ _ _ _ _

@[simp] theorem settleAccesses_cores (s : State) (k : Nat) : (settleAccesses s k).cores = s.cores :=
  performSent_cores _ _

/-! Contributions applied in token order change no wave. -/

theorem applyContrib_waves (s : State) (c : Contrib) : (applyContrib s c).waves = s.waves := by
  unfold applyContrib
  dsimp only
  have hx : ∀ p : Place, (useXlat s .hub c.ctx c.va p.x).waves = s.waves := fun p => (useXlat_workKept s _ _ _ _).waves
  have h1 : (match xlate s .hub c.ctx c.va .atomic with
      | .error _ => s
      | .ok p => if uncorrectable s p.pa then s
        else (atomAt (useXlat s .hub c.ctx c.va p.x) c.ctx p.pa c.op c.pk c.w64 c.rnd c.v 0 (pteCmp p.pte)).1).waves = s.waves := by
    split
    · rfl
    · split_ifs
      · rfl
      · exact (atomAt_workKept _ _ _ _ _ _ _ _ _ _).waves.trans (hx _)
  cases c.spilled <;> exact h1

theorem applyReady_waves (b : Nat) (x : Block) (l : List Contrib) (s : State) : (applyReady s b x l).1.waves = s.waves := by
  induction l generalizing s with
  | nil => rfl
  | cons c l ih =>
    unfold applyReady
    split_ifs
    · exact (ih _).trans (applyContrib_waves s c)
    · rfl

theorem tokenStep_waves (l fuel : Nat) (s : State) : (tokenStep l fuel s).waves = s.waves := by
  induction fuel generalizing s with
  | zero => rfl
  | succ n ih =>
    unfold tokenStep
    split
    · rfl
    · split
      · rfl
      · rename_i b x _
        have h := applyReady_waves b x (sortBy (fun p q => !keyLt q.key p.key) x.redd) s
        dsimp only
        split_ifs
        · exact (ih _).trans h
        · exact h

theorem tokenRun_waves (s : State) (l : Nat) : (tokenRun s l).waves = s.waves := by
  unfold tokenRun
  split
  · rfl
  · split_ifs
    · exact tokenStep_waves _ _ _
    · rfl

theorem tokenAfter_waves (s : State) (w : Wave) : (tokenAfter s w).waves = s.waves := by
  unfold tokenAfter
  split_ifs
  · rfl
  · split
    · rfl
    · exact tokenRun_waves _ _

theorem boundaryEnd_wave (w : Wave) (i : Instr) (s : State) (j : Nat) : (boundaryEnd w i s).wave j = s.wave j := by
  unfold boundaryEnd afterEnd State.wave
  split
  · rw [tokenAfter_waves]; rfl
  · rw [tokenAfter_waves]; rfl
  · rfl

/-- Of a launch whose token order holds nothing back, nothing is applied; and what a launch's order is does not change while only one wave
runs. -/
theorem tokenAfter_tokenless {k : Nat} {w : Wave} {s t : State} (ho : OnlyWave k s t) (h : Tokenless s w) : tokenAfter t w = t := by
  unfold tokenAfter
  split_ifs
  · rfl
  · split
    · rfl
    · rename_i y hy
      unfold tokenRun
      split
      · rfl
      · rename_i ly hly
        have hb := ho.blocks w.block
        have hl := ho.launches y.launch
        rw [hy] at hb
        rw [hly] at hl
        obtain ⟨x, hx, hxy⟩ := Option.map_eq_some_iff.1 hb.symm
        obtain ⟨la, hla, hll⟩ := Option.map_eq_some_iff.1 hl.symm
        have hxl : x.launch = y.launch := (congrArg Block.launch hxy :)
        have hdet : la.det = ly.det ∧ la.dord = ly.dord := ⟨(congrArg Launch.det hll :), (congrArg Launch.dord hll :)⟩
        have := h x la hx (hxl ▸ hla)
        rw [hdet.1, hdet.2] at this
        rw [if_neg]
        simp only [Bool.and_eq_true, Bool.not_eq_true', not_and_or]
        rcases this with h1 | h1 <;> simp [h1]

end Sys2Proof.Machine
end

section
/-! SUPPORT. The end of threads and waves (R224, R225, R265), and O14. -/
namespace Sys2Proof.Machine

/-- While EXEC is empty the stack is resolved as R224 says. -/
theorem resolveStack_resolves (l : List DEntry) (st : WState) (hl : st.dstack = l) (he : st.exec = 0) :
    Resolves st (resolveStack st l) := by
  induction l generalizing st with
  | nil =>
    have : ({ st with dstack := [] } : WState) = st := by rw [← hl]
    unfold resolveStack
    rw [this]
    exact .path st (.inr hl)
  | cons e rest ih =>
    unfold resolveStack
    by_cases hp : e.pmask &&& st.live = 0
    · rw [if_neg (not_not.2 hp)]
      refine .pop st _ e rest he hl hp ?_
      dsimp only
      split_ifs with hx
      · exact ih _ rfl hx
      · exact .path _ (.inl hx)
    · rw [if_pos hp]
      exact .other st e rest he hl hp

theorem resolveStack_live (l : List DEntry) (st : WState) : (resolveStack st l).live = st.live := by
  induction l generalizing st with
  | nil => rfl
  | cons e rest ih =>
    unfold resolveStack
    dsimp only
    split_ifs
    · rfl
    · exact ih _
    · rfl

/-- The state after threads retire, before its stack is resolved (R225). -/
def WState.without (st : WState) (x : Word) : WState :=
  { st with
    live := st.live &&& ~~~x, exec := st.exec &&& ~~~x
    dstack := st.dstack.map fun e => { e with saved := e.saved &&& ~~~x, pmask := e.pmask &&& ~~~x } }

theorem retireThreads_eq (st : WState) (x : Word) : retireThreads st x =
    if (st.without x).exec = 0 then resolveStack (st.without x) (st.without x).dstack else st.without x := rfl

theorem retireThreads_live (st : WState) (x : Word) : (retireThreads st x).live = st.live &&& ~~~x := by
  rw [retireThreads_eq]
  split_ifs
  · exact resolveStack_live _ _
  · rfl

theorem retireThreads_resolves (st : WState) (x : Word) : Resolves (st.without x) (retireThreads st x) := by
  rw [retireThreads_eq]
  split_ifs with h
  · exact resolveStack_resolves _ _ rfl h
  · exact .path _ (.inl h)

theorem retireThreads_path {st : WState} {x : Word} (h : (st.without x).exec ≠ 0) : retireThreads st x = st.without x := by
  rw [retireThreads_eq, if_neg h]

/-- Where the other path of the entry on top still has a live thread, that path runs. -/
theorem retireThreads_other {st : WState} {x : Word} {e : DEntry} {rest : List DEntry} (h : (st.without x).exec = 0)
    (hd : (st.without x).dstack = e :: rest) (hp : e.pmask &&& (st.without x).live ≠ 0) : retireThreads st x =
      { st.without x with
        exec := e.pmask &&& (st.without x).live, pc := e.ppc, dstack := { e with pmask := 0 } :: rest } := by
  rw [retireThreads_eq, if_pos h, hd, resolveStack, if_pos hp]

/-- Threads that are no tapers retire without a count of bytes. -/
theorem taperRetired_plain {s : State} {l : List Born} (h : ∀ b ∈ l, b.taper = false) : l.foldl taperRetired s = s := by
  refine foldl_keeps (· = s) taperRetired l (fun t b hb ht => ?_) s rfl
  rw [ht, taperRetired, h b hb]
  rfl

theorem retireActive_plain {s : State} {k : Nat} {w : Wave} {x : Word}
    (h : ∀ n b, n ∈ threads x → tget w.born n = some b → b.taper = false) (hw : s.wave k = some w) : retireActive s k w x =
      if w.st.live &&& ~~~x = 0 then endWave s k ({ w with st := retireThreads w.st x } : Wave).recordHead
      else s.setWave k ({ w with st := retireThreads w.st x } : Wave).recordHead := by
  have hb : ∀ b ∈ (threads x).filterMap fun t => tget w.born t, b.taper = false := fun b hb => by
    obtain ⟨n, hn, hnb⟩ := List.mem_filterMap.1 hb
    exact h n b hn hnb
  have ha : (((threads x).filterMap fun t => tget w.born t).any fun y => y.taper && !y.closing) = false := by
    rw [List.any_eq_false]
    intro b hm
    simp [hb b hm]
  unfold retireActive
  simp only [ha, Bool.false_eq_true, if_false, taperRetired_plain hb, hw, Wave.recordHead, retireThreads_live]

/-! The end of a wave. -/

/-- A wave with a number that has ended: dark, its frame free (R101, R225, R339). -/
def Wave.asEnded (w : Wave) : Wave := { w.darken with wait := .ended, be := none, residual := [], frameNo := none }

/-- The end of a wave, before the token order is served: a wave with a number stays, dark and without a frame, one formed from a bin goes
(R24, R101, R225). -/
def waveEnded (s : State) (k : Nat) (w : Wave) : State :=
  if w.isBin then retryBins ((settleAccesses s k).eraseWave k) w.core
  else latchesLost ((dropPrivate (settleAccesses s k) k w).setWave k w.asEnded) w

theorem endWave_waves (s : State) (k : Nat) (w : Wave) : (endWave s k w).waves = (waveEnded s k w).waves := by
  show (match tget (waveEnded s k w).blocks w.block with
    | none => waveEnded s k w
    | some b => tokenRun (waveEnded s k w) b.launch).waves = _
  split
  · rfl
  · exact tokenRun_waves _ _

/-- No other wave changes with the end of one that has a number. -/
theorem endWave_plain {s : State} {k : Nat} {w : Wave} (h : w.isBin = false) :
    (endWave s k w).wave k = some w.asEnded ∧ ∀ j, j ≠ k → (endWave s k w).wave j = s.wave j := by
  have hs := (settleAccesses_workKept s k).waves
  have he : (waveEnded s k w).waves = tset s.waves k w.asEnded := by
    unfold waveEnded
    rw [h, ← hs]
    rfl
  unfold State.wave
  rw [endWave_waves, he]
  exact ⟨tget_tset_same _ _ _, fun j hj => tget_tset_ne _ _ _ _ hj⟩

theorem retryBins_none {s : State} {c : Nat} (h : ∀ e ∈ (s.core c).bins, e.2.refused = none) : retryBins s c = s := by
  have : ((s.core c).bins.filterMap fun e => e.2.refused.map fun r => (r, e.1)) = [] :=
    List.filterMap_eq_nil_iff.2 fun e he => by rw [h e he]; rfl
  unfold retryBins
  rw [this]
  rfl

/-- A wave formed from a bin that ends is no more (R24, R225); no other wave has changed. -/
theorem endWave_bin {s : State} {k : Nat} {w : Wave} (h : w.isBin = true) (hb : ∀ e ∈ (s.core w.core).bins, e.2.refused = none)
    (hs : tsorted s.waves = true) : (endWave s k w).wave k = none ∧ ∀ j, j ≠ k → (endWave s k w).wave j = s.wave j := by
  have hw := (settleAccesses_workKept s k).waves
  have hc : ((settleAccesses s k).eraseWave k).core w.core = s.core w.core :=
    congrArg (fun l => (tget l w.core).getD Core.reset) (settleAccesses_cores s k)
  have he : (waveEnded s k w).waves = terase s.waves k := by
    unfold waveEnded
    rw [if_pos h, retryBins_none (by rwa [hc]), ← hw]
    rfl
  unfold State.wave
  rw [endWave_waves, he]
  exact ⟨tget_terase_same _ _ hs, fun j hj => tget_terase_ne _ _ _ hs hj⟩

/-- A wave that is not about to run needs nothing settled. -/
theorem settle_none {s : State} {k : Nat} (h : s.wave k = none) : settle s k = s := by
  unfold settle
  rw [h]

theorem settle_ended {s : State} {k : Nat} {w : Wave} (h : s.wave k = some w) (he : w.wait = .ended) : settle s k = s := by
  unfold settle
  simp [h, he]

/-- An instruction that is a boundary whose check fails at issue. -/
theorem traps_of_check {i : Instr} {k : Nat} {w : Wave} {s : State} (h : Ready i k w s) (f : Fail) {mask : Option Word}
    {check : State → Nat → Wave → Option Fail} (he : issueB i mask check s = exec i s)
    (hc : check (takeLumens s w.ctx w.side (priceOf i)) k w = some f) : TrapsAtIssue i s k w f.cause f.sub f.thr f.addr := by
  intro hh
  obtain ⟨t, w', h1, h2⟩ := trapAtIssue_handler s (takeLumens s w.ctx w.side (priceOf i)) k w f (by simp)
    (onlyWave_takeLumens _ _ _ _ _) hh
  refine ⟨t, w', ?_, h2⟩
  rw [← he, issueB_ready h, hc, ← h1]

/-! EXIT. -/

theorem chainEnds_some {w : Wave} {h : Hdr} (hc : w.st.chain = true) (hx : w.st.act h = w.st.live) :
    chainEnds w h = some ⟨17, 3, none, none⟩ := by
  simp [chainEnds, hc, hx]

theorem chainEnds_none {w : Wave} {h : Hdr} (hc : w.st.chain = false ∨ w.st.act h ≠ w.st.live) : chainEnds w h = none := by
  rcases hc with hc | hc <;> simp [chainEnds, hc]

/-- EXIT takes no lumens (R60). -/
theorem priceOf_exit (f : FmtC) : priceOf (.exit f) = 0 := by
  unfold priceOf
  exact ite_self 0

theorem takeLumens_zero (s : State) (c d : Nat) : takeLumens s c d 0 = s := rfl

theorem boundaryEnd_exit (w : Wave) (f : FmtC) (s : State) :
    boundaryEnd w (.exit f) s = tokenAfter (s.sampled (dieOfCore w.core) 5 w.queue.length) w := rfl

section
variable {f : FmtC} {k : Nat} {w : Wave} {s : State}

/-- The machine where EXIT's own effect is done and before what follows the end of threads (R175, R225). -/
def exitRun (s : State) (k : Nat) (w : Wave) (x : Word) : State :=
  settle (retireActive (s.setWave k (nextStrand w w.st.svm)) k (nextStrand w w.st.svm) x) k

theorem exec_exit (h : Ready (.exit f) k w s) (hq : w.queue = []) (hc : w.st.chain = false ∨ w.st.act f.h ≠ w.st.live) :
    exec (.exit f) s = .next (boundaryEnd w (.exit f) (exitRun s k w (w.st.act f.h))) := by
  show issueB (.exit f) none (fun _ _ w => chainEnds w f.h) s = _
  rw [issueB_ready h, priceOf_exit, takeLumens_zero]
  simp only [chainEnds_none hc]
  exact congrArg _ (boundary_empty s k w (.exit f) w.st.svm hq h.runs rfl)

/-- The wave after its threads have retired. -/
def waveRetired (w : Wave) (x : Word) : Wave :=
  ({ nextStrand w w.st.svm with st := retireThreads (nextStrand w w.st.svm).st x } : Wave).recordHead

/-- What the wave keeps is what the boundary leaves (R175). -/
theorem waveRetired_after (w : Wave) (x : Word) : AfterBoundary w.keptMask w (waveRetired w x) := by
  obtain ⟨⟨hb, hn, hw, hf, hq, hl, hs⟩, -, -⟩ := nextStrand_kept w
  exact ⟨hb, hn, hw, hf, hq, hl, hs⟩

/-- What neither a boundary nor the end of threads touches. -/
theorem waveRetired_rest (w : Wave) (x : Word) : (waveRetired w x).isBin = w.isBin ∧ (waveRetired w x).core = w.core ∧
    (waveRetired w x).lit = w.lit ∧ (waveRetired w x).victim = w.victim := by
  unfold waveRetired nextStrand Wave.newHead
  exact ⟨rfl, rfl, rfl, rfl⟩

theorem waveRetired_st (w : Wave) (x : Word) : (waveRetired w x).st = retireThreads (w.nextHead w.keptMask) x := by
  rw [← (nextStrand_kept w).2.1]
  rfl

variable {x : Word} (hw : w.lit = true) (hv : w.victim = false)
  (ht : ∀ n b, n ∈ threads x → tget w.born n = some b → b.taper = false)
include hw hv ht

/-- With a live thread left the wave goes on, lit, and nothing else of the machine has changed. -/
theorem exitRun_live (hl : w.st.live &&& ~~~x ≠ 0) :
    (exitRun s k w x).wave k = some (waveRetired w x) ∧ OnlyWave k s (exitRun s k w x) := by
  have hr : retireActive (s.setWave k (nextStrand w w.st.svm)) k (nextStrand w w.st.svm) x = s.setWave k (waveRetired w x) := by
    rw [retireActive_plain (w := nextStrand w w.st.svm) ht (setWave_wave_same _ _ _)]
    exact (if_neg hl).trans (setWave_setWave _ _ _ _)
  unfold exitRun
  rw [hr]
  obtain ⟨-, -, hlit, hvic⟩ := waveRetired_rest w x
  exact settle_lit s _ k _ (setWave_wave_same _ _ _) (hlit.trans hw) (hvic.trans hv) (OnlyWave.set _ _ _ _ (onlyWave_refl _ _))

omit hw hv

/-- Without one it has ended. -/
theorem exitRun_eq_endWave (hl : w.st.live &&& ~~~x = 0) :
    exitRun s k w x = settle (endWave (s.setWave k (nextStrand w w.st.svm)) k (waveRetired w x)) k := by
  unfold exitRun
  rw [retireActive_plain (w := nextStrand w w.st.svm) ht (setWave_wave_same _ _ _)]
  exact congrArg (settle · k) (if_pos hl)

theorem exitRun_plain (hl : w.st.live &&& ~~~x = 0) (hb : w.isBin = false) :
    (exitRun s k w x).wave k = some (waveRetired w x).asEnded ∧ ∀ j, j ≠ k → (exitRun s k w x).wave j = s.wave j := by
  obtain ⟨hbin, -⟩ := waveRetired_rest w x
  obtain ⟨hk, ho⟩ := endWave_plain (s := s.setWave k (nextStrand w w.st.svm)) (k := k) (hbin.trans hb)
  rw [exitRun_eq_endWave ht hl, settle_ended hk rfl]
  exact ⟨hk, fun j hj => (ho j hj).trans (setWave_wave_ne _ _ _ _ hj)⟩

theorem exitRun_bin (hl : w.st.live &&& ~~~x = 0) (hb : w.isBin = true) (hbins : ∀ e ∈ (s.core w.core).bins, e.2.refused = none)
    (hs : tsorted s.waves = true) : (exitRun s k w x).wave k = none ∧ ∀ j, j ≠ k → (exitRun s k w x).wave j = s.wave j := by
  obtain ⟨hbin, hcore, -⟩ := waveRetired_rest w x
  obtain ⟨hk, ho⟩ := endWave_bin (s := s.setWave k (nextStrand w w.st.svm)) (k := k) (hbin.trans hb)
    (by rwa [hcore]) (tsorted_tset _ _ _ hs)
  rw [exitRun_eq_endWave ht hl, settle_none hk]
  exact ⟨hk, fun j hj => (ho j hj).trans (setWave_wave_ne _ _ _ _ hj)⟩

end

/-- Settles O14: the boundary, then the threads retired (`retireActive_plain`), then the stack resolved (`retireThreads_resolves`) or the wave
ended (`endWave_plain`, `endWave_bin`). -/
theorem exitRetires : Obligations.ExitRetires := by
  unfold Obligations.ExitRetires
  rintro f k w s x live st h rfl
  refine ⟨fun hc hx => traps_of_check h ⟨17, 3, none, none⟩ rfl (chainEnds_some hc hx), ?_⟩
  rintro hq hv ht hc rfl rfl
  have he := exec_exit h hq hc
  have hst := waveRetired_st w (w.st.act f.h)
  have hend : ∀ j, (boundaryEnd w (.exit f) (exitRun s k w (w.st.act f.h))).wave j = (exitRun s k w (w.st.act f.h)).wave j :=
    boundaryEnd_wave _ _ _
  refine ⟨fun hl => ?_, fun hl hb => ?_, fun hl hb hbins hsort => ?_⟩
  · obtain ⟨hk, ho⟩ := exitRun_live (s := s) (k := k) h.lit hv ht hl
    refine ⟨_, waveRetired w (w.st.act f.h), _, he, (hend k).trans hk, ?_, fun j hj => (hend j).trans (ho.waves j hj),
      waveRetired_after _ _, rfl, retireThreads_resolves _ _, hst, fun hx => hst.trans (retireThreads_path hx),
      fun e rest hx hd hp => hst.trans (retireThreads_other hx hd hp)⟩
    have ho' := ho.sampled _ _ _ (dieOfCore w.core) 5 w.queue.length
    rintro (hb | htok)
    · rwa [boundaryEnd_plain _ _ _ (.inr hb)]
    · rwa [boundaryEnd_exit, tokenAfter_tokenless ho' htok]
  · obtain ⟨hk, ho⟩ := exitRun_plain (s := s) (k := k) ht hl hb
    refine ⟨_, (waveRetired w (w.st.act f.h)).asEnded, he, (hend k).trans hk, rfl, rfl, ?_, rfl, (waveRetired_after w (w.st.act f.h)).far,
      fun j hj => (hend j).trans (ho j hj)⟩
    exact (congrArg WState.live hst).trans ((retireThreads_live _ _).trans hl)
  · obtain ⟨hk, ho⟩ := exitRun_bin (s := s) (k := k) ht hl hb hbins hsort
    exact ⟨_, he, (hend k).trans hk, fun j hj => (hend j).trans (ho j hj)⟩

end Sys2Proof.Machine
end

section
/-! SUPPORT. Status words: what they are written to, and what the end of an instruction leaves (R67, R120, R142, R168, R178). -/
namespace Sys2Proof.Machine

/-! What an instruction that took its lumens reads as before. -/

theorem takeLumens_findTile (s : State) (c d p blk h : Nat) : findTile (takeLumens s c d p) blk h = findTile s blk h := by
  obtain ⟨_, _, _, hr⟩ := takeLumens_rest s c d p
  rw [hr]
  rfl

theorem takeLumens_read32w (s : State) (c d p : Nat) (w : Wave) (f : Src) : read32w (takeLumens s c d p) w f = read32w s w f := by
  obtain ⟨_, _, _, hr⟩ := takeLumens_rest s c d p
  rw [hr]
  rfl

theorem takeLumens_tileInfo (s : State) (c d p : Nat) (w : Wave) (h : Nat) : tileInfo (takeLumens s c d p) w h = tileInfo s w h := by
  unfold tileInfo
  rw [takeLumens_findTile]

/-- Lumens are no part of the engine fault records of a core. -/
theorem takeLumens_efaults (s : State) (c d p j : Nat) : ((takeLumens s c d p).core j).efaults = (s.core j).efaults := by
  unfold takeLumens
  split_ifs
  · rfl
  · show (State.core (s.setCore (coreOfSide d) _) j).efaults = _
    rw [core_setCore]
    split_ifs with hj
    · rw [hj]
    · rfl

theorem takeLumens_engineRecord (s : State) (c d p core ctx : Nat) :
    engineRecord (takeLumens s c d p) core ctx = engineRecord s core ctx := by
  unfold engineRecord
  rw [takeLumens_efaults]

theorem takeLumens_engineStatus (s : State) (c d p core ctx : Nat) :
    engineStatus (takeLumens s c d p) core ctx = engineStatus s core ctx := by
  unfold engineStatus
  rw [takeLumens_engineRecord, takeLumens_engops]

/-! The end of an issued instruction. -/

/-- It reaches waves and marks of errors alone. -/
theorem issued_rest (s : State) (k : Nat) (i : Instr) (a : Bool) : ∃ ws es, issued s k i a = { s with waves := ws, errs := es } := by
  unfold issued
  split
  · exact ⟨_, _, rfl⟩
  · dsimp only
    split_ifs <;> exact ⟨_, _, rfl⟩

/-- Its wave: the PC moves on, far registers that were read are marked (R178). -/
def Wave.issuedBy (w : Wave) (i : Instr) : Wave :=
  { w with
    farRead := w.farRead ++ (farRefs (readsOf i)).filter (fun r => !w.farRead.contains r)
    st := { w.st with pc := w.st.pc + 12 } }

theorem or_noFlags (x : FFlags) : x ||| (0 : FFlags) = x := BitVec.or_zero

theorem later_zero (q : QEntry) : QEntry.later 0 q = q := by
  unfold QEntry.later
  split
  · rename_i n a b h
    split_ifs
    · cases q
      simp_all
    · rfl
  · rfl

theorem map_later_zero (l : List QEntry) : l.map (QEntry.later 0) = l := by
  rw [show QEntry.later 0 = id from funext later_zero, List.map_id]

/-- Registers of a block written in the threads of a mask, and nothing else. -/
theorem Wrote.effect {dsts : List RegRef} {act : Word} {w w1 : Wave} (h : Wrote dsts act w w1) (i : Instr) :
    Effect dsts act 0 w (w1.issuedBy i) := by
  obtain ⟨hr, ho, hl⟩ := h
  refine ⟨?_, ⟨ho, fun _ _ => ?_, fun _ _ => ?_⟩, ⟨hl, fun _ => ?_⟩⟩
  · rw [hr, map_later_zero, or_noFlags]
    rfl
  all_goals rw [hr]; rfl

/-- One scalar written, and nothing else (R187). -/
theorem setS_effect (w : Wave) (n : Nat) (v : DWord) (i : Instr) :
    Effect [(3, n)] 0 0 w (({ w with st := w.st.setS n v } : Wave).issuedBy i) ∧
      (({ w with st := w.st.setS n v } : Wave).issuedBy i).st.s n = v := by
  have hs : ∀ j, (w.st.setS n v).s j = if j = n then v else w.st.s j := fun j => by
    unfold WState.s WState.setS
    rw [tget_tset]
    split_ifs <;> rfl
  refine ⟨⟨?_, ⟨fun _ _ _ _ _ => rfl, fun j hj => ?_, fun _ _ => rfl⟩, ⟨fun _ _ _ _ _ _ => rfl, fun _ => rfl⟩⟩, ?_⟩
  · rw [map_later_zero, or_noFlags]
    rfl
  · exact (hs j).trans (if_neg fun e => hj (by rw [e]; exact List.mem_singleton_self _))
  · exact (hs n).trans (if_pos rfl)

/-! A word written to a run of a block's registers. -/

/-- No offset stands twice in a block. -/
theorem blockOffs_nodup (d : Dst) : (blockOffs d).Nodup := by
  refine (unitOffs_pair 0 d).imp fun {a b} h e => ?_
  exact h (d.lvl.toNat, d.idx.toNat + a) (by simp [unitRefs]) (by simp [unitRefs, e])

theorem statusPart_eq (v : DWord) (j : Nat) : (match j with
    | 0 => v.truncate 32
    | 1 => (v >>> 32).truncate 32
    | _ => 0 : Word) = statusPart v j := by
  unfold statusPart
  split
  · rfl
  · rfl
  · rename_i h0 h1
    rw [if_neg h0, if_neg h1]

/-- A status word in a block, part by part (R142, R168). -/
theorem writeStatus_block (w : Wave) (d : Dst) (act : Word) (v : DWord) : w.writeStatus false d act v =
    (blockOffs d).zipIdx.foldl (fun acc oj => acc.setReg d.lvl.toNat (d.idx.toNat + oj.1) act fun _ => statusPart v oj.2) w := by
  simp only [← statusPart_eq]
  rfl

section
variable {d : Dst} {act : Word} {val : Nat → Word} (hl : d.lvl.toNat < 3)
include hl

/-- What the writes of a list of offsets, each with its number, reach. -/
theorem regRun_wrote (l : List (Nat × Nat)) (w : Wave) : Wrote (l.map fun x => (d.lvl.toNat, d.idx.toNat + x.1)) act w
    (l.foldl (fun acc oj => acc.setReg d.lvl.toNat (d.idx.toNat + oj.1) act fun _ => val oj.2) w) :=
  foldl_wrote l _ (fun w _ hx => Wrote.setReg w _ _ _ hl (List.mem_map_of_mem (f := fun x => (d.lvl.toNat, d.idx.toNat + x.1)) hx)) w

/-- Each register holds the word of its own number. -/
theorem regRun_lane (l : List (Nat × Nat)) (hn : (l.map Prod.fst).Nodup) (w : Wave) {off j t : Nat} (hm : (off, j) ∈ l) (ht : t < 32)
    (hb : bit act t = true) :
    (l.foldl (fun acc oj => acc.setReg d.lvl.toNat (d.idx.toNat + oj.1) act fun _ => val oj.2) w).lane d.lvl.toNat
      (d.idx.toNat + off) t = some (val j) := by
  induction l generalizing w with
  | nil => cases hm
  | cons x l ih =>
    rw [List.map_cons, List.nodup_cons] at hn
    rw [List.foldl_cons]
    rcases List.mem_cons.1 hm with rfl | hm
    · have hno : (d.lvl.toNat, d.idx.toNat + off) ∉ l.map fun x => (d.lvl.toNat, d.idx.toNat + x.1) := fun hx => by
        obtain ⟨y, hy, e⟩ := List.mem_map.1 hx
        exact hn.1 (List.mem_map.2 ⟨y, hy, by simpa using e⟩)
      rw [(regRun_wrote hl l _).other _ _ _ hl hno, setReg_lane_same _ _ _ _ _ _ ht, if_pos hb]
    · exact ih hn.2 _ hm

theorem writeStatus_wrote (w : Wave) (v : DWord) :
    Wrote ((blockOffs d).map fun o => (d.lvl.toNat, d.idx.toNat + o)) act w (w.writeStatus false d act v) := by
  rw [writeStatus_block]
  refine (regRun_wrote hl (blockOffs d).zipIdx w).mono fun x hx => ?_
  rw [← List.zipIdx_map_fst 0 (blockOffs d), List.map_map]
  exact hx

theorem writeStatus_lane (w : Wave) (v : DWord) {off j t : Nat} (hm : (blockOffs d)[j]? = some off) (ht : t < 32) (hb : bit act t = true) :
    (w.writeStatus false d act v).lane d.lvl.toNat (d.idx.toNat + off) t = some (statusPart v j) := by
  rw [writeStatus_block]
  refine regRun_lane hl (blockOffs d).zipIdx ?_ w (List.mk_mem_zipIdx_iff_getElem?.2 hm) ht hb
  rw [List.zipIdx_map_fst]
  exact blockOffs_nodup d

end

end Sys2Proof.Machine
end

section
/-! SUPPORT. The tile-table entry (R106, R107), what TALC answers (R140), the marks of the engine fault record, and O29. -/
namespace Sys2Proof.Machine

/-! The tile-table entry. -/

/-- The cores of a list, each as one bit of four (R106). -/
def coreBits (l : List Nat) : Nat := l.foldl (fun m c => m ||| 2 ^ (c % 4)) 0

theorem coreBits_testBit (l : List Nat) (i : Nat) : (coreBits l).testBit i = true ↔ ∃ c ∈ l, c % 4 = i := by
  have h : ∀ m, (l.foldl (fun m c => m ||| 2 ^ (c % 4)) m).testBit i = true ↔ m.testBit i = true ∨ ∃ c ∈ l, c % 4 = i := by
    induction l with
    | nil => simp
    | cons c l ih =>
      intro m
      rw [List.foldl_cons, ih, Nat.testBit_or, Bool.or_eq_true, Nat.testBit_two_pow, decide_eq_true_eq, or_assoc]
      simp only [List.exists_mem_cons_iff]
  refine (h 0).trans ?_
  simp

theorem coreBits_lt (l : List Nat) : coreBits l < 16 :=
  foldl_keeps (· < 16) _ l (fun _ c _ h => Nat.or_lt_two_pow (n := 4) h
    (Nat.pow_lt_pow_right (by decide) (Nat.mod_lt c (by decide)))) 0 (by decide)

/-- The fields of a sum of shifted fields, each within its width. -/
theorem entry_fields {l e r c m d b y v : Nat} (hl : l < 4) (he : e < 8) (hr : r < 1024) (hc : c < 1024) (hm : m < 16) (hd : d < 2)
    (hb : b < 2) (hy : y < 2 ^ 32) (hv : v = 2 ^ 63 + l * 2 ^ 61 + e * 2 ^ 58 + r * 2 ^ 48 + c * 2 ^ 38 + m * 2 ^ 34 + d * 2 ^ 33 + b * 2 ^ 32 + y) :
    v < 2 ^ 64 ∧ v / 2 ^ 63 % 2 = 1 ∧ v / 2 ^ 61 % 4 = l ∧ v / 2 ^ 58 % 8 = e ∧ v / 2 ^ 48 % 1024 = r ∧ v / 2 ^ 38 % 1024 = c ∧
      v / 2 ^ 34 % 16 = m ∧ v / 2 ^ 33 % 2 = d ∧ v / 2 ^ 32 % 2 = b ∧ v % 2 ^ 32 = y := by
  omega

theorem tileWord_entryIs (x : Tile) : TileEntryIs x (BitVec.ofNat 64 (tileWord x)).toNat := by
  have hbit : ∀ n : Nat, (if n ≠ 0 then 1 else 0) < 2 := fun n => by split_ifs <;> decide
  have hpow : ∀ n k : Nat, (if n ≠ 0 then 2 ^ k else 0) = (if n ≠ 0 then 1 else 0) * 2 ^ k := fun n k => by split_ifs <;> simp
  have hone : ∀ n : Nat, (if n ≠ 0 then 1 else 0) = 1 ↔ n ≠ 0 := fun n => by split_ifs <;> simp_all
  have hv : tileWord x = 2 ^ 63 + x.lvl % 4 * 2 ^ 61 + x.ew % 8 * 2 ^ 58 + (x.rows - 1) % 1024 * 2 ^ 48 + (x.cols - 1) % 1024 * 2 ^ 38 +
      coreBits (x.cores.take x.rows) * 2 ^ 34 + (if x.bd ≠ 0 then 1 else 0) * 2 ^ 33 + (if x.bs ≠ 0 then 1 else 0) * 2 ^ 32 +
      x.bytes % 2 ^ 32 := by
    rw [← hpow, ← hpow]
    rfl
  obtain ⟨h0, h1, h2, h3, h4, h5, h6, h7, h8, h9⟩ := entry_fields (Nat.mod_lt _ (by decide)) (Nat.mod_lt _ (by decide))
    (Nat.mod_lt _ (by decide)) (Nat.mod_lt _ (by decide)) (coreBits_lt _) (hbit x.bd) (hbit x.bs) (Nat.mod_lt _ (by decide)) hv
  rw [BitVec.toNat_ofNat, Nat.mod_eq_of_lt h0]
  have hcore : ∀ i, i < 4 → (bitsOf (tileWord x) (34 + i) (34 + i) = 1 ↔ ∃ c ∈ x.cores.take x.rows, c % 4 = i) := fun i hi => by
    rw [← coreBits_testBit, ← h6, Nat.testBit_eq_decide_div_mod_eq, decide_eq_true_eq]
    unfold bitsOf
    rw [Nat.shiftRight_eq_div_pow, Nat.add_sub_cancel_left, pow_add, ← Nat.div_div_eq_div_mul]
    generalize tileWord x / 2 ^ 34 = q
    interval_cases i <;> omega
  refine ⟨?_, ?_, ?_, ?_, ?_, hcore, ?_, ?_, ?_⟩ <;> unfold bitsOf <;> rw [Nat.shiftRight_eq_div_pow]
  · exact h1
  · exact h2
  · exact h3
  · exact h4
  · exact h5
  · exact (iff_of_eq (congrArg (· = 1) h7)).trans (hone _)
  · exact (iff_of_eq (congrArg (· = 1) h8)).trans (hone _)
  · simpa using h9

/-! TALC. -/

/-- The first entry of a table that satisfies a test, after one more entry that does or does not. -/
theorem find_tset_new {α : Type} {t : Tab α} {p : Nat × α → Bool} {k : Nat} {v : α} (h : t.find? p = none) (hp : p (k, v) = true) :
    (tset t k v).find? p = some (k, v) := by
  induction t with
  | nil => simp [tset, hp]
  | cons e t ih =>
    have hx : ¬p e = true := List.find?_eq_none.1 h e List.mem_cons_self
    have ht : t.find? p = none := List.find?_eq_none.2 fun y hy => List.find?_eq_none.1 h y (List.mem_cons_of_mem _ hy)
    unfold tset
    split_ifs
    · exact List.find?_cons_of_pos hp
    · exact List.find?_cons_of_pos hp
    · exact (List.find?_cons_of_neg hx).trans (ih ht)

theorem find_tset_none {α : Type} {t : Tab α} {p : Nat × α → Bool} {k : Nat} {v : α} (h : t.find? p = none) (hp : p (k, v) = false) :
    (tset t k v).find? p = none := by
  rw [List.find?_eq_none] at h ⊢
  intro e he
  rcases mem_tset _ _ _ _ he with rfl | he
  · simp [hp]
  · exact h e he

/-- A handle that names no tile names a new one of the block, or of its cluster (R106). -/
theorem findTile_tset {s : State} {blk h n : Nat} {b : Block} {x : Tile} (hb : tget s.blocks blk = some b) (hn : findTile s blk h = none)
    (hh : x.handle = h) (ho : x.owner = .block blk ∨ x.owner = .cluster b.launch b.cluster) :
    findTile { s with tiles := tset s.tiles n x } blk h = some (n, x) := by
  unfold findTile at hn ⊢
  split at hn
  · cases hn
  · rename_i h1
    rw [hb] at hn
    simp only [hb, Option.bind_some] at hn ⊢
    rcases ho with ho | ho
    · rw [find_tset_new h1 (by simp [hh, ho])]
    · rw [find_tset_none h1 (by simp [ho])]
      exact find_tset_new hn (by simp [hh, ho])

/-- A tile of the shape that a TALC asks for (R140). -/
structure ShapeIs (x : Tile) (lvl : Nat) (shape : Word) : Prop where
  lvl : x.lvl = lvl
  rows : x.rows = bitsOf shape.toNat 9 0 + 1
  cols : x.cols = bitsOf shape.toNat 19 10 + 1
  ew : x.ew = bitsOf shape.toNat 22 20

/-- What TALC can do (R140): it answers a status that is not 0 and changes nothing, or 0 with a tile of the shape there, and then at most the
tile table has changed. -/
theorem talcRun_cases (s : State) (w : Wave) (h lvl : Nat) (shape : Word) :
    (∃ n, n ≠ 0 ∧ n ≤ 4 ∧ talcRun s w h lvl shape = (s, n)) ∨
    ∃ ts id x, talcRun s w h lvl shape = ({ s with tiles := ts }, 0) ∧ findTile { s with tiles := ts } w.block h = some (id, x) ∧
      ShapeIs x lvl shape := by
  unfold talcRun
  dsimp only
  split
  · exact .inl ⟨4, by decide, by decide, rfl⟩
  · rename_i b hb
    split
    · rename_i id x hx
      split_ifs with hs
      · simp only [Bool.and_eq_true, decide_eq_true_eq] at hs
        obtain ⟨⟨⟨⟨h1, h2⟩, h3⟩, h4⟩, -⟩ := hs
        exact .inr ⟨s.tiles, id, x, rfl, hx, h1, h3, h4, h2⟩
      · exact .inl ⟨1, by decide, by decide, rfl⟩
    · rename_i hn
      have ho : (if lvl = 1 then TOwner.cluster b.launch b.cluster else .block w.block) = .block w.block ∨
          (if lvl = 1 then TOwner.cluster b.launch b.cluster else .block w.block) = .cluster b.launch b.cluster := by
        split_ifs
        · exact .inr rfl
        · exact .inl rfl
      generalize (if lvl = 1 then TOwner.cluster b.launch b.cluster else .block w.block) = o at ho
      generalize (if lvl = 1 then clusterCores s b else [b.core]) = cs
      generalize (if lvl = 1 then _ else _ : Nat) = per
      split
      · exact .inl ⟨2, by decide, by decide, rfl⟩
      · split
        · exact .inl ⟨3, by decide, by decide, rfl⟩
        · split
          · exact .inl ⟨4, by decide, by decide, rfl⟩
          · exact .inr ⟨_, _, _, rfl, findTile_tset hb hn rfl ho, ⟨rfl, rfl, rfl, rfl⟩⟩

end Sys2Proof.Machine
end

section
/-! SUPPORT. TINFO, ECHK and TALC as instructions that deliver one status word (R120, R140, R142, R168, R187), and O29. -/
namespace Sys2Proof.Machine

/-- The wave after a status word was delivered, where the instruction acts. -/
def statusWave (w : Wave) (f : FmtE) (acts : Bool) (v : DWord) : Wave :=
  if acts then w.writeStatus f.h.u f.d (w.st.act f.h) v else w

/-- The machine then: that of the instruction's own effect `s2` with the wave, or where it does not act the one before it. -/
def statusState (s1 s2 : State) (k : Nat) (w : Wave) (f : FmtE) (acts : Bool) (v : DWord) : State :=
  if acts then s2.setWave k (w.writeStatus f.h.u f.d (w.st.act f.h) v) else s1

section
variable {s s1 s2 : State} {k : Nat} {w : Wave} {f : FmtE} {acts : Bool} {v : DWord}

theorem statusState_wave (h : s1.wave k = some w) : (statusState s1 s2 k w f acts v).wave k = some (statusWave w f acts v) := by
  cases acts
  · exact h
  · exact setWave_wave_same _ _ _

/-- What the states before and with the effect leave of the rest, the delivery leaves. -/
theorem statusState_onlyWave (h1 : OnlyWave k s s1) (h2 : OnlyWave k s s2) : OnlyWave k s (statusState s1 s2 k w f acts v) := by
  cases acts
  · exact h1
  · exact OnlyWave.set _ _ _ _ h2

theorem statusState_kept (hm : s2.mem = s1.mem) (hw : s2.waves = s1.waves) : (statusState s1 s2 k w f acts v).mem = s1.mem ∧
    ∀ j, j ≠ k → (statusState s1 s2 k w f acts v).wave j = s1.wave j := by
  cases acts
  · exact ⟨rfl, fun _ _ => rfl⟩
  · exact ⟨hm, fun j hj => (setWave_wave_ne _ _ _ _ hj).trans (congrArg (tget · j) hw)⟩

theorem statusState_core (c : Nat) :
    (statusState s1 s2 k w f acts v).core c = if acts then s2.core c else s1.core c := by
  cases acts <;> rfl

end

/-- The three instructions that read a status word. -/
inductive StatusInstr (f : FmtE) : Instr → Prop
  | tinfo : StatusInstr f (.tinfo f)
  | echk : StatusInstr f (.echk f)
  | talc : StatusInstr f (.talc f)

theorem dstU_block {far : Nat} {d : Dst} (h : ∀ c ∈ dstU far false d, c.2 = false) : d.lvl.toNat < 3 := by
  have h4 := h (4, d.lvl = 3 || d.idx.toNat ≥ levelSize far d.lvl) (by simp [dstU, dstVec, cks])
  have hne : d.lvl ≠ 3 := by
    simp only [Bool.or_eq_false_iff, decide_eq_false_iff_not] at h4
    exact h4.1
  have := d.lvl.isLt
  have : d.lvl.toNat ≠ 3 := fun e => hne (BitVec.eq_of_toNat_eq e)
  omega

namespace StatusInstr
variable {f : FmtE} {i : Instr} {k : Nat} {w : Wave} {s : State}

theorem writes (hi : StatusInstr f i) : writesOf i = dstRefs f.d := by
  cases hi <;> rfl

/-- The checks of its destination are among those of the instruction (R65). -/
theorem dst_checks (hi : StatusInstr f i) (far : Nat) (p : Bool) : ∀ c ∈ dstU far f.h.u f.d, c ∈ checksOf far p i := by
  intro c hc
  cases hi <;> simp only [checksOf, List.mem_append] <;> tauto

/-- Under U = 0 the destination is a block of registers. -/
theorem block (hi : StatusInstr f i) (h : issueFail w i = none) (hu : f.h.u = false) : f.d.lvl.toNat < 3 := by
  have hc := (lowestSub_none _).1 (illegalSub_of_checks h)
  refine dstU_block (far := w.farRegs) fun c hm => hc c (hi.dst_checks _ _ c ?_)
  rwa [hu]

theorem block_writes (hi : StatusInstr f i) (hl : f.d.lvl.toNat < 3) :
    writesOf i = (blockOffs f.d).map fun o => (f.d.lvl.toNat, f.d.idx.toNat + o) := by
  have hne : f.d.lvl ≠ 3 := fun e => by
    rw [e] at hl
    exact absurd hl (by decide)
  rw [hi.writes, dstRefs, if_neg hne]

theorem statusWave_lit (hi : StatusInstr f i) (h : Ready i k w s) (acts : Bool) (v : DWord) : (statusWave w f acts v).lit = true := by
  cases acts
  · exact h.lit
  · unfold statusWave
    rw [if_pos rfl]
    cases hu : f.h.u
    · rw [(writeStatus_wrote (hi.block h.checks hu) w v).rest]
      exact h.lit
    · exact h.lit

theorem idle_effect (v : DWord) : Effect [] 0 0 w ((statusWave w f false v).issuedBy i) := (Wrote.refl [] 0 w).effect i

theorem scalar_effect (hu : f.h.u = true) (v : DWord) : Effect [(3, f.d.idx.toNat)] 0 0 w ((statusWave w f true v).issuedBy i) ∧
    ((statusWave w f true v).issuedBy i).st.s f.d.idx.toNat = v := by
  unfold statusWave Wave.writeStatus
  simp only [hu, if_true]
  exact setS_effect w _ v i

theorem block_effect (hi : StatusInstr f i) (h : Ready i k w s) (hu : f.h.u = false) {acts : Bool} (v : DWord)
    (ha : acts = true ↔ w.st.act f.h ≠ 0) : Effect (writesOf i) (w.st.act f.h) 0 w ((statusWave w f acts v).issuedBy i) ∧
      ∀ j off n, (blockOffs f.d)[j]? = some off → n < 32 → bit (w.st.act f.h) n = true →
        ((statusWave w f acts v).issuedBy i).lane f.d.lvl.toNat (f.d.idx.toNat + off) n = some (statusPart v j) := by
  have hl := hi.block h.checks hu
  cases acts
  · have h0 : w.st.act f.h = 0 := of_not_not fun hn => Bool.noConfusion (ha.2 hn)
    refine ⟨(Wrote.refl _ _ w).effect i, fun j off n _ _ hb => ?_⟩
    rw [h0] at hb
    simp [bit] at hb
  · unfold statusWave
    rw [hi.block_writes hl, hu, if_pos rfl]
    exact ⟨(writeStatus_wrote hl w v).effect i, fun j off n hm hn hb => writeStatus_lane hl w v hm hn hb⟩

/-- What becomes of the instruction's wave: nothing but its PC and marks where it does not act, else its destination. -/
theorem effects (hi : StatusInstr f i) (h : Ready i k w s) {acts : Bool} (v : DWord)
    (ha : acts = true ↔ w.st.act f.h ≠ 0 ∨ (f.h.u = true ∧ i ≠ .echk f)) :
    (w.st.act f.h = 0 → f.h.u = false ∨ i = .echk f → acts = false ∧ Effect [] 0 0 w ((statusWave w f acts v).issuedBy i)) ∧
    (w.st.act f.h ≠ 0 ∨ i ≠ .echk f → f.h.u = true → Effect [(3, f.d.idx.toNat)] 0 0 w ((statusWave w f acts v).issuedBy i) ∧
      ((statusWave w f acts v).issuedBy i).st.s f.d.idx.toNat = v) ∧
    (f.h.u = false → Effect (writesOf i) (w.st.act f.h) 0 w ((statusWave w f acts v).issuedBy i) ∧
      ∀ j off n, (blockOffs f.d)[j]? = some off → n < 32 → bit (w.st.act f.h) n = true →
        ((statusWave w f acts v).issuedBy i).lane f.d.lvl.toNat (f.d.idx.toNat + off) n = some (statusPart v j)) := by
  refine ⟨fun h0 hu => ?_, fun hn hu => ?_, fun hu => hi.block_effect h hu v (ha.trans ?_)⟩
  · have : acts = false := by
      rw [Bool.eq_false_iff, Ne, ha]
      rintro (hn | ⟨hu', hi'⟩)
      · exact hn h0
      · rcases hu with hu | hu
        · simp [hu] at hu'
        · exact hi' hu
    subst this
    exact ⟨rfl, idle_effect v⟩
  · have : acts = true := ha.2 (hn.imp_right fun hi' => ⟨hu, hi'⟩)
    subst this
    exact scalar_effect hu v
  · simp [hu]

/-- What the three leave alike once their effect is there: memory and every other wave; and their own wave. -/
theorem issued_kept (hi : StatusInstr f i) (h : Ready i k w s) {s2 : State} (acts : Bool) (v : DWord) (hm : s2.mem = s.mem)
    (hw : s2.waves = s.waves) {t : State}
    (ht : t = issued (statusState (takeLumens s w.ctx w.side (priceOf i)) s2 k w f acts v) k i true) :
    t.wave k = some ((statusWave w f acts v).issuedBy i) ∧ t.mem = s.mem ∧ ∀ j, j ≠ k → t.wave j = s.wave j := by
  obtain ⟨g1, g2⟩ := statusState_kept (k := k) (w := w) (f := f) (acts := acts) (v := v)
    (hm.trans (takeLumens_mem s w.ctx w.side (priceOf i)).symm) (hw.trans (takeLumens_waves s w.ctx w.side (priceOf i)).symm)
  have ho := OnlyWave.afterIssue _ _ k i true
    (onlyWave_refl (statusState (takeLumens s w.ctx w.side (priceOf i)) s2 k w f acts v) k)
  have hk : (statusState (takeLumens s w.ctx w.side (priceOf i)) s2 k w f acts v).wave k = some (statusWave w f acts v) :=
    statusState_wave (by rw [takeLumens_wave, h.wave])
  rw [takeLumens_mem] at g1
  subst ht
  exact ⟨issued_wave _ k i true _ hk (hi.statusWave_lit h acts v), ho.mem.trans g1,
    fun j hj => (ho.waves j hj).trans ((g2 j hj).trans (takeLumens_wave _ _ _ _ _))⟩

/-- Where its own effect leaves the rest of the machine, so does the instruction. -/
theorem issued_onlyWave {s2 : State} (acts : Bool) (v : DWord) (h2 : OnlyWave k s s2) :
    OnlyWave k s (issued (statusState (takeLumens s w.ctx w.side (priceOf i)) s2 k w f acts v) k i true) :=
  OnlyWave.afterIssue _ _ _ _ _ (statusState_onlyWave (onlyWave_takeLumens _ _ _ _ _) h2)

end StatusInstr

/-! The own part of each. -/

theorem waveActs_iff (w : Wave) (h : Hdr) : waveActs w h = true ↔ w.st.act h ≠ 0 ∨ h.u = true := by
  simp [waveActs]

section
variable (f : FmtE) (k : Nat) (w : Wave) (s : State)

theorem tinfo_body : (if waveActs w f.h then s.setWave k (w.writeStatus f.h.u f.d (w.st.act f.h) (tileInfo s w f.t.toNat)) else s) =
    statusState s s k w f (waveActs w f.h) (tileInfo s w f.t.toNat) := rfl

/-- The word that ECHK reads (R168). -/
def echkWord : DWord :=
  if f.sub.getLsbD 0 then BitVec.ofNat 64 (engineRecord s w.core w.ctx).addr else engineStatus s w.core w.ctx

/-- The machine with the record of the wave's context cleared, where ECHK has its clearing bit (R168). -/
def echkState : State :=
  if f.sub.getLsbD 1 then s.setCore w.core { s.core w.core with efaults := terase (s.core w.core).efaults w.ctx } else s

theorem echk_body : echkEff s k w f = statusState s (echkState f w s) k w f (decide (w.st.act f.h ≠ 0)) (echkWord f w s) := by
  unfold echkEff statusState
  by_cases h : w.st.act f.h = 0
  · exact (if_pos h).trans (if_neg (by simp [h])).symm
  · exact (if_neg h).trans (if_pos (decide_eq_true h)).symm

theorem takeLumens_echkWord (c d p : Nat) : echkWord f w (takeLumens s c d p) = echkWord f w s := by
  unfold echkWord
  rw [takeLumens_engineRecord, takeLumens_engineStatus]

theorem echkState_kept : (echkState f w s).mem = s.mem ∧ (echkState f w s).waves = s.waves := by
  unfold echkState
  split_ifs <;> exact ⟨rfl, rfl⟩

theorem OnlyWave.setCore {k : Nat} {s0 s : State} (h : OnlyWave k s0 s) (c : Nat) (x : Core) : OnlyWave k s0 (s.setCore c x) := by
  cases h
  constructor <;> assumption

theorem echkState_onlyWave {s0 : State} (h : OnlyWave k s0 s) : OnlyWave k s0 (echkState f w s) := by
  unfold echkState
  split_ifs
  · exact h.setCore _ _
  · exact h

theorem echkState_efaults (hc : f.sub.getLsbD 1 = false) : echkState f w s = s := by
  unfold echkState
  rw [hc]
  rfl

theorem echkState_cleared (hc : f.sub.getLsbD 1 = true) (hs : tsorted (s.core w.core).efaults = true) :
    tget ((echkState f w s).core w.core).efaults w.ctx = none := by
  unfold echkState
  rw [if_pos hc, core_setCore, if_pos rfl]
  exact tget_terase_same _ _ hs

theorem talc_body : talcEff s k w f = statusState s (talcRun s w f.t.toNat f.lvl.toNat (read32w s w f.a)).1 k w f (waveActs w f.h)
    (BitVec.ofNat 64 (talcRun s w f.t.toNat f.lvl.toNat (read32w s w f.a)).2) := by
  unfold talcEff statusState
  cases waveActs w f.h <;> rfl

variable {f k w s}

/-- The frame of class P where the instruction's own part goes on. -/
theorem issueP_next {i : Instr} (h : Ready i k w s) (g : State → Nat → Wave → State) :
    issueP i (fun s k w => .next (g s k w)) s = .next (issued (g (takeLumens s w.ctx w.side (priceOf i)) k w) k i true) :=
  issueP_ready h _

theorem exec_tinfo (h : Ready (.tinfo f) k w s) : exec (.tinfo f) s = .next (issued
    (statusState (takeLumens s w.ctx w.side (priceOf (.tinfo f))) (takeLumens s w.ctx w.side (priceOf (.tinfo f))) k w f (waveActs w f.h)
      (tileInfo s w f.t.toNat)) k (.tinfo f) true) := by
  rw [← takeLumens_tileInfo s w.ctx w.side (priceOf (.tinfo f)), ← tinfo_body]
  exact issueP_next h fun s k w =>
    if waveActs w f.h then s.setWave k (w.writeStatus f.h.u f.d (w.st.act f.h) (tileInfo s w f.t.toNat)) else s

theorem exec_echk (h : Ready (.echk f) k w s) : exec (.echk f) s = .next (issued
    (statusState (takeLumens s w.ctx w.side (priceOf (.echk f))) (echkState f w (takeLumens s w.ctx w.side (priceOf (.echk f)))) k w f
      (decide (w.st.act f.h ≠ 0)) (echkWord f w s)) k (.echk f) true) := by
  rw [← takeLumens_echkWord f w s w.ctx w.side (priceOf (.echk f)), ← echk_body]
  exact issueP_next h fun s k w => echkEff s k w f

theorem exec_talc (h : Ready (.talc f) k w s) {s2 : State} {n : Nat}
    (hr : talcRun (takeLumens s w.ctx w.side (priceOf (.talc f))) w f.t.toNat f.lvl.toNat (read32w s w f.a) = (s2, n)) :
    exec (.talc f) s = .next (issued (statusState (takeLumens s w.ctx w.side (priceOf (.talc f))) s2 k w f (waveActs w f.h)
      (BitVec.ofNat 64 n)) k (.talc f) true) := by
  rw [← takeLumens_read32w s w.ctx w.side (priceOf (.talc f))] at hr
  have hb := talc_body f k w (takeLumens s w.ctx w.side (priceOf (.talc f)))
  rw [hr] at hb
  rw [← hb]
  exact issueP_next h fun s k w => talcEff s k w f

/-- A status that is not 0 is not the word 0. -/
theorem status_ofNat {n : Nat} (hn : n ≤ 4) : (BitVec.ofNat 64 n).toNat = n ∧ (BitVec.ofNat 64 n = 0 ↔ n = 0) := by
  have h1 : (BitVec.ofNat 64 n).toNat = n := by
    rw [BitVec.toNat_ofNat]
    exact Nat.mod_eq_of_lt (by omega)
  refine ⟨h1, fun h => ?_, fun h => by subst h; rfl⟩
  rw [h] at h1
  exact h1.symm

/-- A tile that is there before the instruction ends is there afterwards. -/
theorem issued_findTile (k : Nat) (i : Instr) (acts : Bool) (v : DWord) (s1 s2 : State) (blk h : Nat) (ha : acts = true) :
    findTile (issued (statusState s1 s2 k w f acts v) k i true) blk h = findTile s2 blk h := by
  obtain ⟨_, _, hr⟩ := issued_rest (statusState s1 s2 k w f acts v) k i true
  rw [hr, ha]
  rfl

theorem issued_core (k : Nat) (i : Instr) (s : State) (c : Nat) : (issued s k i true).core c = s.core c := by
  obtain ⟨_, _, hr⟩ := issued_rest s k i true
  rw [hr]
  rfl

end

/-- Settles O29: of each instruction its own part (`exec_tinfo`, `exec_echk`, `exec_talc`), the effects of the delivered word
(`StatusInstr.effects`), and what is known of the word. -/
theorem statusReads : Obligations.StatusReads := by
  unfold Obligations.StatusReads
  rintro f k w s i act hi rfl h
  have ho := onlyWave_takeLumens s k w.ctx w.side (priceOf i)
  rcases hi with rfl | rfl | rfl
  · have hi := StatusInstr.tinfo (f := f)
    obtain ⟨hk, hm, hw⟩ := hi.issued_kept h (waveActs w f.h) (tileInfo s w f.t.toNat) ho.mem (takeLumens_waves _ _ _ _) rfl
    have hot := StatusInstr.issued_onlyWave (w := w) (f := f) (i := .tinfo f) (waveActs w f.h) (tileInfo s w f.t.toNat) ho
    obtain ⟨c1, c2, c3⟩ := hi.effects h (tileInfo s w f.t.toNat) (acts := waveActs w f.h) (by simp [waveActs_iff])
    refine ⟨_, _, tileInfo s w f.t.toNat, exec_tinfo h, hk, hm, hw, fun h0 hu => ⟨hot, (c1 h0 hu).2⟩, c2, c3,
      fun _ => ⟨rfl, hot, fun hn => ?_, fun id x hx => ?_⟩, nofun, nofun⟩
    · unfold tileInfo
      rw [hn]
    · unfold tileInfo
      rw [hx]
      exact tileWord_entryIs x
  · have hi := StatusInstr.echk (f := f)
    obtain ⟨em, ew⟩ := echkState_kept f w (takeLumens s w.ctx w.side (priceOf (.echk f)))
    obtain ⟨hk, hm, hw⟩ := hi.issued_kept h (decide (w.st.act f.h ≠ 0)) (echkWord f w s) (em.trans ho.mem)
      (ew.trans (takeLumens_waves _ _ _ _)) rfl
    have hot := StatusInstr.issued_onlyWave (w := w) (f := f) (i := .echk f) (decide (w.st.act f.h ≠ 0)) (echkWord f w s)
      (echkState_onlyWave f k w _ ho)
    obtain ⟨c1, c2, c3⟩ := hi.effects h (echkWord f w s) (acts := decide (w.st.act f.h ≠ 0)) (by simp)
    refine ⟨_, _, echkWord f w s, exec_echk h, hk, hm, hw, fun h0 hu => ⟨hot, (c1 h0 hu).2⟩, c2, c3, nofun,
      fun _ => ⟨rfl, hot, fun hc c => ?_, fun hc ha hs => ?_⟩, nofun⟩
    · rw [issued_core, statusState_core, echkState_efaults f w _ hc, ite_self, takeLumens_efaults]
    · rw [issued_core, statusState_core, if_pos (decide_eq_true ha)]
      exact echkState_cleared f w _ hc (by rwa [takeLumens_efaults])
  · have hi := StatusInstr.talc (f := f)
    rcases talcRun_cases (takeLumens s w.ctx w.side (priceOf (.talc f))) w f.t.toNat f.lvl.toNat (read32w s w f.a) with
      ⟨n, hn, hn4, hr⟩ | ⟨ts, id, x, hr, hx, hs⟩
    · obtain ⟨hk, hm, hw⟩ := hi.issued_kept h (waveActs w f.h) (BitVec.ofNat 64 n) ho.mem (takeLumens_waves _ _ _ _) rfl
      have hot := StatusInstr.issued_onlyWave (w := w) (f := f) (i := .talc f) (waveActs w f.h) (BitVec.ofNat 64 n) ho
      obtain ⟨c1, c2, c3⟩ := hi.effects h (BitVec.ofNat 64 n) (acts := waveActs w f.h) (by simp [waveActs_iff])
      obtain ⟨hv, hv0⟩ := status_ofNat hn4
      exact ⟨_, _, _, exec_talc h hr, hk, hm, hw, fun h0 hu => ⟨hot, (c1 h0 hu).2⟩, c2, c3, nofun, nofun,
        fun _ _ => ⟨hv.le.trans hn4, fun _ => hot, fun h0 => absurd (hv0.1 h0) hn⟩⟩
    · obtain ⟨hk, hm, hw⟩ := hi.issued_kept h (waveActs w f.h) (BitVec.ofNat 64 0)
        (s2 := { takeLumens s _ _ _ with tiles := ts }) ho.mem (takeLumens_waves _ _ _ _) rfl
      obtain ⟨c1, c2, c3⟩ := hi.effects h (BitVec.ofNat 64 0) (acts := waveActs w f.h) (by simp [waveActs_iff])
      refine ⟨_, _, _, exec_talc h hr, hk, hm, hw, fun h0 hu => ?_, c2, c3, nofun, nofun,
        fun _ ha => ⟨by decide, fun h0 => absurd rfl h0, fun _ => ⟨id, x, ?_, hs.lvl, hs.rows, hs.cols, hs.ew⟩⟩⟩
      · obtain ⟨ha, he⟩ := c1 h0 hu
        rw [ha] at he ⊢
        exact ⟨OnlyWave.afterIssue _ _ _ _ _ ho, he⟩
      · rw [issued_findTile _ _ _ _ _ _ _ _ ((waveActs_iff w f.h).2 ha)]
        exact hx

end Sys2Proof.Machine
end

section
/-! SUPPORT. Why O53 fails: `BarRefIs` names a memory object at a multiple of 16 wherever it lies (R149), while a reference to an address
that is not canonical is malformed (R158, sub-cause 1). At VLIM (R76) the two part. -/
namespace Sys2Proof.Machine

/-- Layout record 0 of the state below: rank 0, FMT 2 with elements of 4 bytes, 4 of them side by side from address 49152 (R112). -/
def vlimRecord : Nat := 49152 + 2 * 2 ^ 57 + 4 * 2 ^ 84 + 2 ^ 224

/-- A core that holds record 0 of context 1, and tile 0 of block 0: one row of 4 elements of 4 bytes. -/
def vlimState : State :=
  { State.reset with
    ctxs := [(1, { Ctx.fresh 0 0 0 with regs := [(0x47, 1)] })]
    cores := [(0, { Core.reset with layouts := [⟨1, 0, vlimRecord⟩] })]
    tiles := [(0, ⟨.block 0, 0, 0, 2, 1, 4, [0], 192, 0, 0, [], true, false⟩)] }

/-- A wave of block 0 in context 1 on core 0. -/
def vlimWave : Wave := newWave State.reset 1 0 0 0 false 1 0 0 0

/-- A barrier reference to memory at VLIM (R149, R76). -/
def vlimRef : DWord := BitVec.ofNat 64 (2 ^ 62 + vlim)

theorem vlim_barRefIs (s : State) (blk : Nat) : BarRefIs s blk vlimRef.toNat (.mem vlim) :=
  ⟨by decide, .inr (.inl ⟨by decide, by decide, by decide⟩)⟩

theorem vlim_parseBar (s : State) (blk : Nat) : parseBar s blk vlimRef = none := by
  unfold parseBar
  have h : bitsOf vlimRef.toNat 61 57 = 0 ∧ bitsOf vlimRef.toNat 63 62 = 1 ∧ bitsOf vlimRef.toNat 56 0 = vlim := by decide
  obtain ⟨h1, h2, h3⟩ := h
  simp [h1, h2, h3, canonical]

theorem vlim_barPlace (s : State) (a : Agent) (ctx blk : Nat) :
    barPlace s a ctx blk (.mem vlim) = .error ⟨3, 1, none, some (BitVec.ofNat 64 vlim)⟩ := by
  simp [barPlace, xlate, canonical, pageFail]

theorem vlim_layUse : layUse vlimState vlimWave.core vlimWave.ctx 0 = .ok (vlimState, vlimRecord) := by rfl

/-- The model's BCOPY with that reference: the barrier is malformed (R158). -/
theorem vlim_performBcopy :
    performBcopy vlimState 0 vlimWave 0 0 0 2 false vlimRef [0, 0, 0] = .fault ⟨13, 1, none, none⟩ := by
  unfold performBcopy
  rw [vlim_layUse]
  have ht : findTile vlimState vlimWave.block 0 = some (0, ⟨.block 0, 0, 0, 2, 1, 4, [0], 192, 0, 0, [], true, false⟩) := by rfl
  simp only [ht, vlim_parseBar]
  rfl

/-- Refutes O53: a BCOPY into a tile whose barrier reference is a memory address at VLIM. By the statement the reference names an object,
so that the page fault of its address is what the BCOPY raises; the model, as R158 has it, raises request fault 1. -/
theorem not_engineSteps : ¬ Obligations.EngineSteps := by
  unfold Obligations.EngineSteps
  rintro ⟨-, hkick⟩
  obtain ⟨-, -, -, hbcopy, -⟩ := hkick vlimState 0 vlimWave 0 0 0 0 (fun _ => 0) _ rfl
  obtain ⟨-, hu⟩ := hbcopy vlimState 0 vlimWave 0 0 0 2 false vlimRef [0, 0, 0] _ rfl
  obtain ⟨-, ht⟩ := hu vlimState vlimRecord vlim_layUse
  obtain ⟨-, -, hr⟩ := ht 0 _ _ _ _ rfl rfl rfl fun _ _ => rfl
  obtain ⟨-, hb⟩ := hr rfl rfl (by decide) (by decide)
  obtain ⟨-, hp⟩ := hb _ (vlim_barRefIs _ _)
  have hk := (hp (.inl rfl)).1 _ (vlim_barPlace _ _ _ _)
  rw [vlim_performBcopy] at hk
  cases hk

end Sys2Proof.Machine
end

section
/-! SUPPORT. Why O32 and O36 fail: a small machine with one page that may be read and not written, and in it a dirty L2 sector that its line has no
place for, and a queued store that page-faults. -/
namespace Sys2Proof.Machine

/-- One lit wave about to issue in context 1, which has a handler; page 0 may be read and executed, not written (R81). -/
def readOnly : State := { (placeInstr State.reset 0).setCtxReg 1 0x40 (2 ^ 63 + 192) with cur := some 0 }

/-- Its wave. -/
def readOnlyWave : Wave := (readOnly.wave 0).getD (newWave State.reset 0 0 0 0 false 0 0 0 0)

/-! WBL2: a line's sectors are numbered 0 to 3 (R92), but `CacheControl` asks only that their numbers rise. -/

/-- The wave writes back one line from address 0: s5 holds 1, s4 holds 0. -/
def strayWave : Wave := { readOnlyWave with st := readOnlyWave.st.setS 5 1 }

/-- Line 255 of the L2 holds a dirty sector of number 5. Counted by lines of four it is sector 1025, the second of the page's first line, which
no line holds. -/
def strayState : State := { readOnly.setWave 0 strayWave with l2 := [(255, ⟨false, [(5, ⟨true, 1, 0⟩)]⟩)] }

def strayWbl2 : FmtM := ⟨⟨false, false, 0⟩, ⟨0, 0, 0, 0⟩, ⟨3, 4, 0, 0⟩, ⟨3, 5, 0, 0⟩, 0, 0, false, 0⟩

theorem stray_ready : Ready (.wbl2 strayWbl2) 0 strayWave strayState := by
  constructor <;> decide +kernel

theorem stray_dirtyIn : 1025 ∈ dirtyIn strayState strayWave 0 192 := by decide +kernel

/-- The write-back leaves sector 1025 absent. -/
theorem stray_l2At {t : State} (h : exec (.wbl2 strayWbl2) strayState = .next t) : l2At t 1025 = none := by
  have hr : (match exec (.wbl2 strayWbl2) strayState with
    | .next t => (l2At t 1025).isNone
    | _ => false) = true := by decide +kernel
  rw [h] at hr
  exact Option.isNone_iff_eq_none.1 hr

/-- Refutes O32: WBL2 where line 255 of the L2 lists a dirty sector of number 5. The statement counts it among the dirty sectors of the range, as
number 5 of line 255 is sector 1025, and wants sector 1025 present and clean; the slice has no such sector, before or after. The statement
lacks the bound on a line's sector numbers. -/
theorem not_cacheControl : ¬ Obligations.CacheControl := by
  unfold Obligations.CacheControl
  intro h
  obtain ⟨-, -, -, hw⟩ := h strayWbl2 0 strayWave strayState
  obtain ⟨-, -, -, hc⟩ := hw 0 192 stray_ready (by decide +kernel) (by decide +kernel)
  obtain ⟨t, he, -, -, hl⟩ := hc (by decide +kernel) rfl (by decide) (by decide +kernel) rfl rfl (by decide)
  have hd := hl 1025
  rw [if_pos stray_dirtyIn, stray_l2At he] at hd
  cases hd

/-! STRAND: a queued store to the page, whose leaf the core's translation cache holds. -/

/-- A store of four bytes to address 0. -/
def faultEntry : QEntry := ⟨24, .store .st false 0 [⟨0, 0, [1, 2, 3, 4]⟩], 1, [], [], none⟩

def faultWave : Wave := { readOnlyWave with queue := [faultEntry] }

def faultState : State := { readOnly.setWave 0 faultWave with tlb := [⟨.core 0, 1, 0, ⟨0x10117, 1⟩⟩] }

def faultStrand : FmtC := ⟨⟨false, false, 0⟩, 0, ⟨0, 0, 0, 0⟩, 0, 0⟩

/-- The wave as steps 1 and 2 of its boundary leave it (R175). -/
def faultHead : Wave :=
  { faultWave.newHead 0 (faultWave.st.pc + 12) with
    residual := [faultEntry], queue := [], be := some (.strand faultStrand, faultWave.st.pc), parity := 0 }

theorem fault_ready : Ready (.strand faultStrand) 0 faultWave faultState := by
  constructor <;> decide +kernel

/-- The store fails as the page is not writable: page fault 5 (R84). -/
theorem fault_performOp : performOp { faultState.setWave 0 faultHead with free := faultState.free + 1 } 0 faultHead faultEntry =
    .fault ⟨3, 5, some 0, some 0⟩ := by rfl

/-- The trap takes the page's leaf out of the translation cache (R86). -/
theorem fault_tlb {t : State} (h : exec (.strand faultStrand) faultState = .next t) : t.tlb = [] := by
  have hr : (match exec (.strand faultStrand) faultState with
    | .next t => decide (t.tlb = [])
    | _ => false) = true := by decide +kernel
  rw [h] at hr
  exact of_decide_eq_true hr

/-- Refutes O36: a queued store that page-faults, where the core's translation cache holds the page's leaf. The statement wants the caches as they
were (`OnlyWave`), but a page fault takes the page's leaves out of them (R86), as `TrapsAtIssue` says of the traps at issue. -/
theorem not_strandEntryFails : ¬ Obligations.StrandEntryFails := by
  unfold Obligations.StrandEntryFails
  intro h
  obtain ⟨t, w', he, -, ho, -⟩ := h faultStrand 0 faultWave faultHead faultState _ faultEntry [] _ fault_ready rfl (by decide +kernel)
    (by decide +kernel) (by decide +kernel) rfl rfl fault_performOp (by decide +kernel)
  have ht := ho.tlb
  rw [fault_tlb he] at ht
  cases ht

end Sys2Proof.Machine
end

section
/-! SUPPORT. What reads and writes at the home slices reach: reads the caches alone, writes memory and the vigils too (R86, R92 to R95, R278); and
that no error appears where none stands (R440). -/
namespace Sys2Proof.Machine

/-- No uncorrectable error stands, and no poison list holds a sector (R440). -/
def Sound (s : State) : Prop := s.errs = [] ∧ ∀ d, (s.die d).poison = []

/-- What reads leave: of the machine only slices, error marks, translation caches, dies and early reads differ, and no error and no early read is new. -/
structure Touched (s t : State) : Prop where
  rest : t = { s with l2 := t.l2, errs := t.errs, tlb := t.tlb, dies := t.dies, early := t.early }
  sound : Sound s → Sound t
  early : ∀ x ∈ t.early, x ∈ s.early

/-- What writes at home slices leave: beside these, memory, the vigils and their wakes, grid releases, and what contexts hold of spilled entries
and atomic flags. -/
structure Written (s t : State) : Prop where
  rest : t = { s with
    mem := t.mem, l2 := t.l2, errs := t.errs, tlb := t.tlb, dies := t.dies, early := t.early, vigils := t.vigils, wakes := t.wakes
    ctxs := t.ctxs, releases := t.releases }
  sound : Sound s → Sound t
  early : ∀ x ∈ t.early, x ∈ s.early

section
variable {s t u : State}

theorem Touched.refl (s : State) : Touched s s := ⟨rfl, id, fun _ h => h⟩

theorem Touched.trans (h : Touched s t) (g : Touched t u) : Touched s u := by
  refine ⟨?_, g.sound ∘ h.sound, fun x hx => h.early x (g.early x hx)⟩
  rw [g.rest, h.rest]

/-- A change of these parts on top of others. -/
theorem Touched.trans' (h : Touched s t)
    (g : u = { t with l2 := u.l2, errs := u.errs, tlb := u.tlb, dies := u.dies, early := t.early }) (hs : Sound s → Sound u) : Touched s u := by
  refine ⟨?_, hs, fun x hx => h.early x ?_⟩
  · rw [g, h.rest]
  · rwa [g] at hx

theorem Touched.foldl {β : Type} {g : State → β → State} (hg : ∀ s x, Touched s (g s x)) (l : List β) (s : State) : Touched s (l.foldl g s) :=
  foldl_keeps (Touched s) g l (fun _ _ _ h => h.trans (hg _ _)) s (.refl s)

theorem Touched.written (h : Touched s t) : Written s t := by
  refine ⟨?_, h.sound, h.early⟩
  conv => lhs; rw [h.rest]
  rw [h.rest]

theorem Written.refl (s : State) : Written s s := ⟨rfl, id, fun _ h => h⟩

theorem Written.trans (h : Written s t) (g : Written t u) : Written s u := by
  refine ⟨?_, g.sound ∘ h.sound, fun x hx => h.early x (g.early x hx)⟩
  rw [g.rest, h.rest]

theorem Written.foldl {β : Type} {g : State → β → State} (hg : ∀ s x, Written s (g s x)) (l : List β) (s : State) : Written s (l.foldl g s) :=
  foldl_keeps (Written s) g l (fun _ _ _ h => h.trans (hg _ _)) s (.refl s)

end

/-! Reads. -/

theorem Touched.setDie {s t : State} (h : Touched s t) (d : Nat) (x : Die) (hx : Sound s → x.poison = []) : Touched s (t.setDie d x) := by
  refine h.trans' ?_ fun hs => ⟨(h.sound hs).1, fun c => ?_⟩
  · rfl
  · rw [die_setDie]
    split_ifs
    · exact hx hs
    · exact (h.sound hs).2 c

theorem Touched.errs {s t : State} (h : Touched s t) (e : List ErrLoc) (he : Sound s → e = []) : Touched s { t with errs := e } :=
  h.trans' rfl fun hs => ⟨he hs, (h.sound hs).2⟩

theorem l2_touched (s : State) (l : Tab L2Line) : Touched s { s with l2 := l } := ⟨rfl, id, fun _ h => h⟩

theorem l2Drop_touched (s : State) (x : Nat) : Touched s (l2Drop s x) := by
  unfold l2Drop
  split
  · exact .refl s
  · exact l2_touched _ _

/-- A sector that leaves its slice: where no error stands, its die's poison list takes none. -/
theorem evictSector_touched {s t : State} {x : Nat} (h : evictSector s x = some t) : Touched s t := by
  have hd := l2Drop_touched s x
  unfold evictSector at h
  split at h
  · cases h; exact .refl s
  · have hf : ∀ p : ErrLoc → Bool, Sound s → (l2Drop s x).errs.filter p = [] := fun p hs => by rw [(hd.sound hs).1]; rfl
    dsimp only at h
    split_ifs at h with h1 h2 h3 h4 h5 <;> cases h
    · exact hd.errs _ (hf _)
    · exact (hd.errs _ (hf _)).setDie _ _ fun hs => by rw [hs.2]; rfl
    · exact hd.errs _ (hf _)
    · exact hd.errs _ (hf _)
    · exact (hd.errs _ (hf _)).setDie _ _ fun hs => by simp [hs.1] at h2

theorem makeChunks_touched (keep but need fuel : Nat) (s : State) : Touched s (makeChunks keep but need fuel s) := by
  induction fuel generalizing s with
  | zero => exact .refl s
  | succ n ih =>
    unfold makeChunks
    dsimp only
    split_ifs
    · exact .refl s
    · exact .refl s
    · split
      · exact .refl s
      · rename_i s1 h
        obtain ⟨x, -, hx⟩ := List.mem_filterMap.mp (List.mem_of_getElem? h)
        exact (evictSector_touched hx).trans (ih s1)

theorem evictLine_touched {s t : State} {l : Nat} (h : evictLine s l = some t) : Touched s t := by
  simp only [evictLine, List.foldl_cons, List.foldl_nil, Option.bind_eq_some_iff, Option.some.injEq] at h
  obtain ⟨s3, ⟨s2, ⟨s1, ⟨s0, rfl, h0⟩, h1⟩, h2⟩, h3⟩ := h
  exact ((evictSector_touched h0).trans (evictSector_touched h1)).trans ((evictSector_touched h2).trans (evictSector_touched h3))

theorem makeTag_touched (s : State) (l : Nat) : Touched s (makeTag s l) := by
  unfold makeTag
  dsimp only
  split_ifs
  · exact .refl s
  · exact .refl s
  · unfold Option.getD
    split
    · rename_i s1 h
      obtain ⟨x, -, hx⟩ := List.mem_filterMap.mp (List.mem_of_getElem? h)
      exact evictLine_touched hx
    · exact .refl s

theorem l2Put_touched (s : State) (cmp : Bool) (x : Nat) (f : Option L2Sector → L2Sector) : Touched s (l2Put s cmp x f) :=
  ((makeTag_touched s _).trans (makeChunks_touched _ _ _ _ _)).trans (l2_touched _ _)

theorem Sound.uncorrectable {s : State} (h : Sound s) (pa : Nat) : uncorrectable s pa = false := by
  unfold Machine.uncorrectable
  split <;> simp [h.1, h.2]

theorem homeFill_touched (s : State) (cmp : Bool) (pa : Nat) : Touched s (homeFill s cmp pa) := by
  have hp := l2Put_touched s cmp (pa / 48) fun _ => ⟨false, 0, 0⟩
  unfold homeFill
  dsimp only
  split_ifs with _ hu
  · exact .refl s
  · exact hp.errs _ fun hs => by simp [hs.uncorrectable] at hu
  · exact hp

theorem tlbAdd_touched (s : State) (e : TEntry) : Touched s (tlbAdd s e) := by
  unfold tlbAdd
  split_ifs
  · exact .refl s
  · exact ⟨rfl, id, fun _ h => h⟩

theorem useXlat_touched (s : State) (a : Agent) (ctx va : Nat) (x : Xlat) : Touched s (useXlat s a ctx va x) := by
  unfold useXlat
  dsimp only
  refine Touched.trans ?_ (Touched.foldl (fun s c => tlbAdd_touched s _) _ _)
  split_ifs
  · exact .refl s
  · exact Touched.foldl (fun s pa => homeFill_touched s false pa) _ _

theorem useRead_touched (s : State) (a : Agent) (ctx va : Nat) (p : Place) : Touched s (useRead s a ctx va p) :=
  (useXlat_touched s a ctx va p.x).trans (homeFill_touched _ _ _)

theorem forgetEarly_touched (s : State) (p : Early → Bool) : Touched s (forgetEarly s p) :=
  ⟨rfl, id, fun _ h => (List.mem_filter.1 h).1⟩

/-! Writes. -/

theorem clearErrs_touched (s : State) (x : Nat) : Touched s (clearErrs s x) := by
  have hf : ∀ p : ErrLoc → Bool, Sound s → s.errs.filter p = [] := fun p hs => by rw [hs.1]; rfl
  unfold clearErrs
  dsimp only
  split_ifs
  · exact ((Touched.refl s).setDie _ _ fun hs => by rw [hs.2]; rfl).errs _ (hf _)
  · exact (Touched.refl s).errs _ (hf _)

theorem dirtyParts_touched (ctx : Nat) (cmp : Bool) (l : List (Nat × Nat)) (s : State) : Touched s (dirtyParts s ctx cmp l) := by
  induction l generalizing s with
  | nil => exact .refl s
  | cons e l ih =>
    have hp := l2Put_touched s cmp (e.1 / 48) fun _ => ⟨true, ctx, 0⟩
    unfold dirtyParts
    dsimp only
    refine Touched.trans ?_ (ih _)
    split_ifs with _ hb
    · exact hp.trans (clearErrs_touched _ _)
    · exact hp.errs _ fun hs => by simp [hs.uncorrectable] at hb
    · exact hp

theorem dropVigil_written (s : State) (v : Vigil) : Written s (dropVigil s v) := by
  have h : Written s { s with vigils := terase s.vigils v.id, errs := s.errs.filter fun l => l ≠ .vigil v.id } :=
    ⟨rfl, fun hs => ⟨by show s.errs.filter _ = []; rw [hs.1]; rfl, hs.2⟩, fun _ h => h⟩
  unfold dropVigil
  dsimp only
  split
  · exact h
  · exact h.trans ⟨rfl, id, fun _ h => h⟩

theorem wakeVigil_written (s : State) (v : Vigil) (f : Bool) (x : DWord) : Written s (wakeVigil s v f x) :=
  (dropVigil_written s v).trans ⟨rfl, id, fun _ h => h⟩

theorem evalVigils_written (s : State) (loc : WLoc) (n : Nat) : Written s (evalVigils s loc n) := by
  refine Written.foldl (fun s v => ?_) _ s
  split
  · exact wakeVigil_written _ _ _ _
  · exact .refl s

theorem homeWrite_written (s : State) (ctx pa : Nat) (bs : List Byte) (cmp : Bool) : Written s (homeWrite s ctx pa bs cmp) := by
  unfold homeWrite
  split_ifs
  · exact .refl s
  · have hm : Written s { s with mem := memWrite s.mem pa bs } := ⟨rfl, id, fun _ h => h⟩
    exact (hm.trans (dirtyParts_touched _ _ _ _).written).trans (evalVigils_written _ _ _)

theorem atomAt_written (s : State) (ctx pa op : Nat) (pk w64 : Bool) (rnd : Nat) (v cmp : DWord) (pc : Bool) :
    Written s (atomAt s ctx pa op pk w64 rnd v cmp pc).1 :=
  (homeWrite_written _ _ _ _ _).trans ⟨rfl, id, fun _ h => h⟩

theorem performSent_written (s : State) (l : List Sent) : Written s (performSent s l) := by
  refine Written.foldl (fun s x => ?_) l s
  split
  · exact homeWrite_written _ _ _ _ _
  · exact atomAt_written _ _ _ _ _ _ _ _ _ _

/-! What these relations keep. -/

section
variable {s t : State}

theorem Touched.mem (h : Touched s t) : t.mem = s.mem := by rw [h.rest]
theorem Touched.ctxs (h : Touched s t) : t.ctxs = s.ctxs := by rw [h.rest]
theorem Touched.vigils (h : Touched s t) : t.vigils = s.vigils := by rw [h.rest]
theorem Touched.wakes (h : Touched s t) : t.wakes = s.wakes := by rw [h.rest]

theorem Touched.raceOn (h : Touched s t) (c : Nat) : raceOn t c = raceOn s c := by
  unfold Machine.raceOn State.ctxReg
  rw [h.ctxs]

theorem Written.waves (h : Written s t) : t.waves = s.waves := by rw [h.rest]
theorem Written.sent (h : Written s t) : t.sent = s.sent := by rw [h.rest]
theorem Written.cores (h : Written s t) : t.cores = s.cores := by rw [h.rest]
theorem Written.blocks (h : Written s t) : t.blocks = s.blocks := by rw [h.rest]
theorem Written.launches (h : Written s t) : t.launches = s.launches := by rw [h.rest]

theorem Written.wave (h : Written s t) (k : Nat) : t.wave k = s.wave k := congrArg (tget · k) h.waves

theorem Written.isDet (h : Written s t) (w : Wave) : t.isDet w = s.isDet w := by
  unfold State.isDet State.launchOf
  rw [h.blocks, h.launches]

end

end Sys2Proof.Machine
end

section
/-! SUPPORT. What entries of tiles, layout records and seals do when they are performed (R139, R141, R143, R145). -/
namespace Sys2Proof.Machine

/-! Nothing that has only been sent, and a race detector that is off (R314, R317, R325). -/

section
variable {s : State}

theorem flushSent_nil (h : s.sent = []) (p : Sent → Bool) : flushSent s p = s := by
  obtain ⟨⟩ := s
  simp only at h
  subst h
  rfl

theorem flushOwn_nil (h : s.sent = []) (k pa n : Nat) : flushOwn s k pa n = s := flushSent_nil h _

theorem raceRelease_off {ctx : Nat} (h : raceOn s ctx = false) : raceRelease s ctx = s := by
  simp [raceRelease, h]

theorem releaseSent_nil (h : s.sent = []) (k scope : Nat) : releaseSent s k scope = s := by
  obtain ⟨⟩ := s
  simp only at h
  subst h
  rfl

theorem releaseAt_quiet {w : Wave} (h : s.sent = []) (hr : raceOn s w.ctx = false) (k scope : Nat) : releaseAt s k w scope = s := by
  rw [releaseAt, releaseSent_nil h, raceRelease_off hr]

end

/-- What was written is stored, and nothing else of memory differs. -/
theorem stored_of_mem {s t : State} {pa : Nat} {bs : List Byte} (hm : Memory.wf s.mem = true) (h : t.mem = memWrite s.mem pa bs) :
    Stored s t pa bs := by
  refine ⟨fun i hi => ?_, fun a ha => ?_⟩
  · rw [h, memByte_memWrite _ _ _ _ hm, if_pos (by omega), Nat.add_sub_cancel_left, List.getElem?_eq_getElem hi]
    rfl
  · rw [h, memByte_memWrite_out _ _ _ _ hm ha]

/-- An access within one sector has one part (R71, R127). -/
theorem partsOf_sector {va n : Nat} (hn : 0 < n) (h : va % 48 + n ≤ 48) : partsOf va n = [(va, n)] := by
  have hl : min n (48 - va % 48) = n := by omega
  unfold partsOf sectorParts
  simp only [hl, Nat.sub_self, Nat.ne_of_gt hn, if_false]
  unfold sectorParts
  cases n / 48 <;> simp

/-! Accesses of one thread that nothing stands in the way of. -/

theorem Calm.sound {s : State} {w : Wave} (h : Calm s w) : Sound s := ⟨h.errs, h.poison⟩

theorem Sound.writeBad {s : State} (h : Sound s) (c : Nat) (x : Part) : writeBad s c x = false := by
  simp [Machine.writeBad, fillBad, vigilErr, h.uncorrectable, h.1]

theorem lockFail_nil {s : State} (h : s.locks = []) (ctx die va n : Nat) (write : Bool) : lockFail s ctx die va n write = none := by
  simp [lockFail, h]

/-- A store within one sector that passes every check (R83, R105, R118, R440). -/
theorem accessParts_store {s : State} {w : Wave} {va n : Nat} {p : Place} (hs : Sound s) (hn : 0 < n) (hv : va % 48 + n ≤ 48)
    (hx : xlate s (.lsu w.core) w.ctx va .store = .ok p) (hu : sealedBy s w.ctx va n = false) (hl : s.locks = []) (t : Nat) :
    accessParts s s w .store true ⟨t, va, n⟩ = .ok [⟨va, n, p⟩] := by
  simp [accessParts, partsOf_sector hn hv, placeParts, hx, hu, lockFail_nil hl, hs.writeBad]

/-- A part of a store to a shared SO page is written at once (R96, R312). -/
theorem storePart_shared {s : State} {x : Part} (hs : s.sent = []) (ho : pteOrd x.p.pte = 0) (hp : ptePriv x.p.pte = false) (k : Nat)
    (w : Wave) (bs : List Byte) :
    ∃ u, Touched s u ∧ storePart s k w x bs = homeWrite u w.ctx x.p.pa bs (pteCmp x.p.pte) := by
  have hu := (useXlat_touched s (.lsu w.core) w.ctx x.va x.p.x).trans (forgetEarly_touched _ fun y => y.wave = k && y.sector = x.p.pa / 48)
  refine ⟨_, hu, ?_⟩
  have hn := flushOwn_nil (hu.written.sent.trans hs) k x.p.pa bs.length
  simp only [storePart, hp, ho, Bool.false_eq_true, if_false, ne_eq, not_true_eq_false, decide_false, Bool.false_and]
  rw [hn]

/-! TST (R139). -/

theorem tget_tabWrite (m : Tab Byte) (off : Nat) (bs : List Byte) (j : Nat) :
    tget (tabWrite m off bs) j = if off ≤ j ∧ j < off + bs.length then bs[j - off]? else tget m j := by
  induction bs generalizing m off with
  | nil =>
    rw [if_neg (by simp only [List.length_nil]; omega)]
    rfl
  | cons b bs ih =>
    rw [tabWrite, ih, tget_tset, List.length_cons]
    by_cases h1 : j = off
    · subst h1
      rw [if_neg (by omega), if_pos rfl, if_pos (by omega), Nat.sub_self]
      rfl
    · by_cases h2 : off + 1 ≤ j ∧ j < off + 1 + bs.length
      · rw [if_pos h2, if_pos (by omega), show j - off = (j - (off + 1)) + 1 by omega, List.getElem?_cons_succ]
      · rw [if_neg h2, if_neg h1, if_neg (by omega)]

/-- A write to a tile sets its bytes, and of the tiles nothing else. -/
theorem tileWrite_tiles (s : State) (id off : Nat) (bs : List Byte) :
    (tileWrite s id off bs).tiles = tmod s.tiles id fun x => { x with data := tabWrite x.data off bs } := by
  unfold tileWrite
  rw [(evalVigils_written _ _ _).rest]
  rfl

theorem performTst_refused {s : State} {w : Wave} {h lvl row col x : Nat} {bs : List Byte}
    (hx : tilePlace s w h lvl row col bs.length true = .error x) (n : Nat) :
    performTst s w h lvl [(n, row, col, bs)] = .fault ⟨7, x, some n, none⟩ := by
  simp [performTst, tstWrites, hx]

theorem performTst_writes {s : State} {w : Wave} {h lvl row col id off : Nat} {bs : List Byte}
    (hx : tilePlace s w h lvl row col bs.length true = .ok (id, off)) (n : Nat) :
    performTst s w h lvl [(n, row, col, bs)] = .done (tileWrite s id off bs) := by
  simp [performTst, tstWrites, hx]

theorem tst_performs (s : State) (w : Wave) (h lvl n row col : Nat) (bs : List Byte) :
    (∀ x, tilePlace s w h lvl row col bs.length true = .error x →
      performTst s w h lvl [(n, row, col, bs)] = .fault ⟨7, x, some n, none⟩) ∧
    (∀ id off x, tilePlace s w h lvl row col bs.length true = .ok (id, off) → tget s.tiles id = some x → tsorted s.tiles = true →
      tsorted x.data = true →
      ∃ t y, performTst s w h lvl [(n, row, col, bs)] = .done t ∧ tget t.tiles id = some y ∧ y = { x with data := y.data } ∧
        (∀ i, i < bs.length → tget y.data (off + i) = bs[i]?) ∧
        (∀ a, a < off ∨ off + bs.length ≤ a → tget y.data a = tget x.data a) ∧
        (∀ j, j ≠ id → tget t.tiles j = tget s.tiles j) ∧ t.mem = s.mem ∧ t.waves = s.waves) := by
  refine ⟨fun x hx => performTst_refused hx n, fun id off x hp hx _ _ =>
    ⟨_, { x with data := tabWrite x.data off bs }, performTst_writes hp n, ?_, rfl, fun i hi => ?_, fun a ha => ?_, fun j hj => ?_,
      tileWrite_mem _ _ _ _, (tileWrite_workKept _ _ _ _).waves⟩⟩
  · rw [tileWrite_tiles, tget_tmod_same, hx]
    rfl
  · rw [tget_tabWrite, if_pos (by omega), Nat.add_sub_cancel_left]
  · rw [tget_tabWrite, if_neg (by omega)]
  · rw [tileWrite_tiles, tget_tmod_ne _ _ _ _ hj]

/-! TFREE (R141). -/

theorem tfree_performs (s : State) (w : Wave) (h lvl : Nat) :
    (findTile s w.block h = none → performTfree s w h lvl = .done s) ∧
    (∀ id x, findTile s w.block h = some (id, x) →
      (x.lvl ≠ lvl → performTfree s w h lvl = .fault ⟨7, 3, none, none⟩) ∧
      (x.lvl = lvl → x.bd ≠ 0 ∨ x.bs ≠ 0 → performTfree s w h lvl = .wait s none .boundary) ∧
      (x.lvl = lvl → x.bd = 0 → x.bs = 0 → lvl ≠ 2 ∨ (s.core w.core).steps = [] → tsorted s.tiles = true →
        ∃ t, performTfree s w h lvl = .done t ∧ (∀ j, tget t.tiles j = if j = id then none else tget s.tiles j) ∧ t.mem = s.mem ∧
          t.waves = s.waves)) := by
  refine ⟨fun hn => by simp [performTfree, hn], fun id x hx => ⟨fun hl => ?_, fun hl hb => ?_, fun hl hd hs hm ht =>
    ⟨s.eraseTile id, ?_, fun j => ?_, rfl, rfl⟩⟩⟩
  · simp [performTfree, hx, hl]
  · simp [performTfree, hx, hl, hb]
  · have hu : (lvl = 2 && (s.core w.core).steps.any fun st => st.block = w.block && matTile st.op = some h) = false := by
      rcases hm with hm | hm <;> simp [hm]
    simp only [performTfree, hx, hl, hd, hs, hu]
    simp
  · show tget (terase s.tiles id) j = _
    split_ifs with hj
    · rw [hj, tget_terase_same _ _ ht]
    · exact tget_terase_ne _ _ _ ht hj

/-! LAYSET (R143). -/

theorem layInvalAll_layouts (s : State) (ctx h c : Nat) (e : LayEntry) (he : e ∈ ((layInvalAll s ctx h).core c).layouts) :
    ¬(e.ctx = ctx ∧ e.handle = h) := by
  unfold State.core layInvalAll at he
  simp only [tget_tmap] at he
  cases hc : tget s.cores c <;> simp [hc, Core.reset] at he
  tauto

theorem layset_performs (s : State) (k : Nat) (w : Wave) (h : Nat) (record : List Byte) :
    (∀ f, layAddr s w.ctx h = .error f → performLayset s k w h record = .fault f) ∧
    (∀ va p, layAddr s w.ctx h = .ok va → record.length = 48 → PlainAt s w .store va 48 p → Calm s w → Memory.wf s.mem = true →
      ∃ t, performLayset s k w h record = .done t ∧ Stored s t p.pa record ∧ t.waves = s.waves ∧
        ∀ c e, e ∈ (t.core c).layouts → ¬(e.ctx = w.ctx ∧ e.handle = h)) := by
  refine ⟨fun f hf => by simp [performLayset, hf], fun va p hva hr hp hc hm => ?_⟩
  obtain ⟨hn, hv⟩ := hp.sector
  have ha := accessParts_store hc.sound hn hv hp.place hp.unsealed hp.locks 0
  obtain ⟨u, hu, hw⟩ := storePart_shared (x := ⟨va, 48, p⟩) hc.sent hp.ordered hp.shared k w record
  have hk := homeWrite_written u w.ctx p.pa record (pteCmp p.pte)
  have hnow : writeNow s k w ⟨0, va, record⟩ [⟨va, 48, p⟩] = homeWrite u w.ctx p.pa record (pteCmp p.pte) := by
    simp only [writeNow, storeOne, List.foldl_cons, List.foldl_nil, Nat.sub_self, List.drop_zero, List.take_of_length_le hr.le, hw]
    exact flushOwn_nil ((hk.sent.trans hu.written.sent).trans hc.sent) _ _ _
  refine ⟨layInvalAll (homeWrite u w.ctx p.pa record (pteCmp p.pte)) w.ctx h, ?_, stored_of_mem hm ?_, hk.waves.trans hu.written.waves,
    layInvalAll_layouts _ _ _⟩
  · simp only [performLayset, hva, ha, hnow]
  · show (homeWrite u w.ctx p.pa record (pteCmp p.pte)).mem = _
    rw [homeWrite_mem, hu.mem]

/-! SEAL and UNSEAL (R145). -/

theorem modWave_eq_setWave {s : State} {k : Nat} {w : Wave} (h : s.wave k = some w) (f : Wave → Wave) : s.modWave k f = s.setWave k (f w) := by
  unfold State.modWave State.setWave tmod
  rw [show tget s.waves k = some w from h]

/-- The range of a SEAL or UNSEAL is well formed (R145). -/
def sealRange (base lines : Nat) : Prop := base % 192 = 0 ∧ 0 < lines ∧ lines ≤ 2 ^ 24 ∧ base + 192 * lines ≤ vlim

theorem not_sealRange_iff {base lines : Nat} :
    ¬ sealRange base lines ↔ (base % 192 ≠ 0 || lines = 0 || lines > 16777216 || base + 192 * lines > vlim) = true := by
  simp only [sealRange, Bool.or_eq_true, decide_eq_true_eq]
  omega

theorem sealRange.test {base lines : Nat} (h : sealRange base lines) :
    (base % 192 ≠ 0 || lines = 0 || lines > 16777216 || base + 192 * lines > vlim) = false :=
  Bool.eq_false_iff.2 fun hn => not_sealRange_iff.2 hn h

theorem sealStatus_malformed {base lines : Nat} (h : ¬ sealRange base lines) (s : State) (ctx : Nat) : sealStatus s ctx base lines = 3 := by
  rw [sealStatus, not_sealRange_iff.1 h, if_pos rfl]

/-- The status of a SEAL of a well-formed range (R145). -/
theorem sealStatus_of_range {base lines : Nat} (h : sealRange base lines) (s : State) (ctx : Nat) :
    sealStatus s ctx base lines = if s.seals.contains ⟨ctx, base, lines⟩ then 0 else if s.seals.length ≥ 64 then 1
      else if (s.seals.filter fun e => e.ctx = ctx).length ≥ 16 then 2 else 0 := by
  rw [sealStatus, h.test, if_neg Bool.false_ne_true]

section
variable {s : State} {k : Nat} {w : Wave} {e : QEntry} {base lines : Nat} {dst : Dst} {uni : Bool}

/-- A SEAL that is refused changes its status alone (R145). -/
theorem performSeal_refused {n : Nat} (he : e.stage = none) (hw : s.wave k = some w) (h : sealStatus s w.ctx base lines = n) (hn : n ≠ 0) :
    performSeal s k w e base lines dst uni = .done (s.setWave k (w.statusBoth uni dst e.act (BitVec.ofNat 64 n))) := by
  simp [performSeal, he, h, hn, modWave_eq_setWave hw]

theorem performUnseal_malformed (h : ¬ sealRange base lines) (hw : s.wave k = some w) :
    performUnseal s k w e base lines dst uni = .done (s.setWave k (w.statusBoth uni dst e.act 3)) := by
  simp only [performUnseal, not_sealRange_iff.1 h, if_true, OfNat.ofNat_ne_zero, if_false, modWave_eq_setWave hw]
  rfl

theorem performUnseal_absent (h : sealRange base lines) (hs : s.seals.contains ⟨w.ctx, base, lines⟩ = false) (hw : s.wave k = some w) :
    performUnseal s k w e base lines dst uni = .done (s.setWave k (w.statusBoth uni dst e.act 1)) := by
  simp only [performUnseal, h.test, hs, Bool.false_eq_true, if_false, one_ne_zero, modWave_eq_setWave hw]
  rfl

/-- A SEAL that is granted enters its range and drops the copies of its lines; nothing waits, as no lock stands (R103, R145). -/
theorem performSeal_enters (he : e.stage = none) (hw : s.wave k = some w) (h : sealStatus s w.ctx base lines = 0) (hl : s.locks = [])
    (hs : s.sent = []) :
    ∃ t, performSeal s k w e base lines dst uni = .done t ∧ t.mem = s.mem ∧
      (∀ x, x ∈ t.seals ↔ x ∈ s.seals ∨ x = ⟨w.ctx, base, lines⟩) ∧ t.wave k = some (w.statusBoth uni dst e.act 0) ∧
      ∀ j, j ≠ k → t.wave j = s.wave j := by
  let s1 := if s.seals.contains ⟨w.ctx, base, lines⟩ then s else { s with seals := s.seals ++ [⟨w.ctx, base, lines⟩] }
  have h1 : s1.locks = [] ∧ s1.mem = s.mem ∧ s1.waves = s.waves ∧ ∀ x, x ∈ s1.seals ↔ x ∈ s.seals ∨ x = ⟨w.ctx, base, lines⟩ := by
    by_cases hc : s.seals.contains ⟨w.ctx, base, lines⟩ = true
    · have hm : (⟨w.ctx, base, lines⟩ : Seal) ∈ s.seals := List.contains_iff_mem.1 hc
      have h' : s1 = s := if_pos hc
      rw [h']
      exact ⟨hl, rfl, rfl, fun x => ⟨Or.inl, fun h => h.elim id fun h => h ▸ hm⟩⟩
    · have h' : s1 = { s with seals := s.seals ++ [⟨w.ctx, base, lines⟩] } := if_neg hc
      rw [h']
      exact ⟨hl, rfl, rfl, fun x => by rw [List.mem_append, List.mem_singleton]⟩
  obtain ⟨hl1, hm1, hv1, hx⟩ := h1
  have hv : (sealInval s1 w.ctx base lines).wave k = some w := (congrArg (tget · k) hv1).trans hw
  refine ⟨(sealInval s1 w.ctx base lines).setWave k (w.statusBoth uni dst e.act 0), ?_, hm1, hx, setWave_wave_same _ _ _,
    fun j hj => (setWave_wave_ne _ _ _ _ hj).trans (congrArg (tget · j) hv1)⟩
  have hn : (sealInval s1 w.ctx base lines).locks = [] := hl1
  have hq : (if (sealStatus s w.ctx base lines = 0 && e.stage.isNone) = true then
      sealInval (let s' := flushSent s fun x => x.ctx = w.ctx
        if s'.seals.contains ⟨w.ctx, base, lines⟩ then s' else { s' with seals := s'.seals ++ [⟨w.ctx, base, lines⟩] }) w.ctx base lines
      else s) = sealInval s1 w.ctx base lines := by
    simp only [flushSent_nil hs, h, he]
    rfl
  simp only [performSeal] at hq ⊢
  rw [hq, hn]
  simp [he, h, modWave_eq_setWave hv]

/-- An UNSEAL of a sealed range removes it (R104, R145). -/
theorem performUnseal_removes (h : sealRange base lines) (hs : s.seals.contains ⟨w.ctx, base, lines⟩ = true) (hw : s.wave k = some w) :
    ∃ t, performUnseal s k w e base lines dst uni = .done t ∧ t.mem = s.mem ∧
      (∀ x, x ∈ t.seals ↔ x ∈ s.seals ∧ x ≠ ⟨w.ctx, base, lines⟩) ∧ t.wave k = some (w.statusBoth uni dst e.act 0) ∧
      ∀ j, j ≠ k → t.wave j = s.wave j := by
  let s1 : State := { s with seals := s.seals.filter fun x => x ≠ ⟨w.ctx, base, lines⟩ }
  refine ⟨s1.setWave k (w.statusBoth uni dst e.act 0), ?_, rfl, fun x => ?_, setWave_wave_same _ _ _, fun j hj => setWave_wave_ne _ _ _ _ hj⟩
  · have hw1 : s1.wave k = some w := hw
    simp only [performUnseal, h.test, hs, Bool.false_eq_true, if_false, if_true]
    exact congrArg Done.done (modWave_eq_setWave hw1 _)
  · show x ∈ s.seals.filter _ ↔ _
    simp [List.mem_filter]

end

theorem seal_performs (s : State) (k : Nat) (w : Wave) (e : QEntry) (base lines : Nat) (dst : Dst) (uni good : Bool) (he : e.stage = none)
    (hw : s.wave k = some w) (hg : good = true ↔ base % 192 = 0 ∧ 0 < lines ∧ lines ≤ 2 ^ 24 ∧ base + 192 * lines ≤ vlim) :
    (good = false → performSeal s k w e base lines dst uni = .done (s.setWave k (w.statusBoth uni dst e.act 3)) ∧
      performUnseal s k w e base lines dst uni = .done (s.setWave k (w.statusBoth uni dst e.act 3))) ∧
    (good = true →
      (s.seals.contains ⟨w.ctx, base, lines⟩ = false →
        performUnseal s k w e base lines dst uni = .done (s.setWave k (w.statusBoth uni dst e.act 1)) ∧
        (s.seals.length ≥ 64 → performSeal s k w e base lines dst uni = .done (s.setWave k (w.statusBoth uni dst e.act 1))) ∧
        (s.seals.length < 64 → (s.seals.filter fun x => x.ctx = w.ctx).length ≥ 16 →
          performSeal s k w e base lines dst uni = .done (s.setWave k (w.statusBoth uni dst e.act 2)))) ∧
      (s.seals.contains ⟨w.ctx, base, lines⟩ = true ∨
          (s.seals.length < 64 ∧ (s.seals.filter fun x => x.ctx = w.ctx).length < 16) → s.locks = [] → s.sent = [] →
        ∃ t, performSeal s k w e base lines dst uni = .done t ∧ t.mem = s.mem ∧
          (∀ x, x ∈ t.seals ↔ x ∈ s.seals ∨ x = ⟨w.ctx, base, lines⟩) ∧ t.wave k = some (w.statusBoth uni dst e.act 0) ∧
          ∀ j, j ≠ k → t.wave j = s.wave j) ∧
      (s.seals.contains ⟨w.ctx, base, lines⟩ = true →
        ∃ t, performUnseal s k w e base lines dst uni = .done t ∧ t.mem = s.mem ∧
          (∀ x, x ∈ t.seals ↔ x ∈ s.seals ∧ x ≠ ⟨w.ctx, base, lines⟩) ∧ t.wave k = some (w.statusBoth uni dst e.act 0) ∧
          ∀ j, j ≠ k → t.wave j = s.wave j)) := by
  refine ⟨fun h => ?_, fun h => ?_⟩
  · have hr : ¬ sealRange base lines := fun hr => by simp [hg.2 hr] at h
    have hst := sealStatus_malformed hr s w.ctx
    exact ⟨performSeal_refused he hw hst (by decide), performUnseal_malformed hr hw⟩
  · have hr : sealRange base lines := hg.1 h
    have hst := sealStatus_of_range hr s w.ctx
    refine ⟨fun hc => ⟨performUnseal_absent hr hc hw, fun hn => ?_, fun hn hn' => ?_⟩, fun hc => performSeal_enters he hw ?_,
      fun hc => performUnseal_removes hr hc hw⟩
    · rw [hc, if_neg Bool.false_ne_true, if_pos hn] at hst
      exact performSeal_refused he hw hst (by decide)
    · rw [hc, if_neg Bool.false_ne_true, if_neg (by omega), if_pos hn'] at hst
      exact performSeal_refused he hw hst (by decide)
    · rcases hc with hc | ⟨hn, hn'⟩
      · rw [hst, hc, if_pos rfl]
      · rw [hst, if_neg (by omega : ¬ _ ≥ 64), if_neg (by omega : ¬ _ ≥ 16), ite_self]

end Sys2Proof.Machine
end

section
/-! SUPPORT. What entries of barriers do when they are performed (R292 to R295). -/
namespace Sys2Proof.Machine

/-- A number that `n` bytes hold is read back from them (R6). -/
theorem leNat_leBytes (n x : Nat) (h : x < 256 ^ n) : leNat (leBytes n x) = x := by
  induction n generalizing x with
  | zero => rw [pow_zero] at h; obtain rfl : x = 0 := by omega
            rfl
  | succ n ih =>
    have hx : x / 256 < 256 ^ n := by rw [pow_succ] at h; omega
    rw [leBytes, leNat, ih _ hx, BitVec.toNat_ofNat]
    omega

theorem length_leBytes (n x : Nat) : (leBytes n x).length = n := by
  induction n generalizing x with
  | zero => rfl
  | succ n ih => rw [leBytes, List.length_cons, ih]

/-- A barrier object whose fields fit their bits (R292). -/
structure Bar.Fits (b : Bar) : Prop where
  phase : b.phase < 2 ^ 16
  arrive : b.arrive < 2 ^ 16
  reload : b.reload < 2 ^ 16
  wreg : b.wreg < 2 ^ 16
  bytes : b.bytes < 2 ^ 32
  wobs : b.wobs < 2 ^ 16
  rest : b.rest < 2 ^ 14

theorem Bar.ofNat_fits (n : Nat) : (Bar.ofNat n).Fits :=
  have h (m : Nat) : n >>> m % 2 ^ 16 < 2 ^ 16 := Nat.mod_lt _ (by decide)
  ⟨h 0, h 16, h 32, h 48, Nat.mod_lt _ (by decide), h 96, Nat.mod_lt _ (by decide)⟩

theorem Bar.Fits.toNat_lt {b : Bar} (h : b.Fits) : b.toNat < 256 ^ 16 := by
  obtain ⟨h1, h2, h3, h4, h5, h6, h7⟩ := h
  unfold Bar.toNat
  split_ifs <;> omega

theorem Bar.Fits.ofNat_toNat {b : Bar} (h : b.Fits) : Bar.ofNat b.toNat = b := by
  obtain ⟨p, a, r, w, y, o, e, d, x⟩ := b
  obtain ⟨h1, h2, h3, h4, h5, h6, h7⟩ := h
  simp only at h1 h2 h3 h4 h5 h6 h7
  simp only [Bar.ofNat, Bar.toNat, bitsOf, Nat.shiftRight_eq_div_pow, Bar.mk.injEq]
  cases e <;> cases d <;>
    simp only [Bool.false_eq_true, if_false, if_true, decide_eq_true_eq, decide_eq_false_iff_not] <;>
    refine ⟨?_, ?_, ?_, ?_, ?_, ?_, ?_, ?_, ?_⟩ <;> omega

theorem barAt_fits (s : State) (loc : WLoc) : (barAt s loc).Fits := Bar.ofNat_fits _

theorem barAt_mem {s t : State} (h : t.mem = s.mem) (pa : Nat) : barAt t (.mem pa) = barAt s (.mem pa) := by
  unfold barAt readLoc
  rw [h]

/-- A barrier in memory written: what its 16 bytes then hold, and that no other byte differs. -/
structure BarPut (s t : State) (pa : Nat) (b : Bar) : Prop where
  reads : barAt t (.mem pa) = b
  others : ∀ a, a < pa ∨ pa + 16 ≤ a → memByte t.mem a = memByte s.mem a

theorem BarPut.of_mem {s t u : State} {pa : Nat} {b : Bar} (h : BarPut s t pa b) (hm : u.mem = t.mem) : BarPut s u pa b :=
  ⟨(barAt_mem hm pa).trans h.reads, fun a ha => by rw [hm, h.others a ha]⟩

theorem BarPut.on {s s' t : State} {pa : Nat} {b : Bar} (h : BarPut s' t pa b) (hm : s'.mem = s.mem) : BarPut s t pa b :=
  ⟨h.reads, fun a ha => by rw [h.others a ha, hm]⟩

theorem setBar_written (s : State) (ctx pa : Nat) (b : Bar) : Written s (setBar s ctx (.mem pa) b) :=
  homeWrite_written s ctx pa (leBytes 16 b.toNat) (knownCmp s ctx pa)

theorem setBar_put {s : State} (hm : Memory.wf s.mem = true) (ctx pa : Nat) {b : Bar} (hb : b.Fits) : BarPut s (setBar s ctx (.mem pa) b) pa b := by
  have h : (setBar s ctx (.mem pa) b).mem = memWrite s.mem pa (leBytes 16 b.toNat) := homeWrite_mem _ _ _ _ _
  refine ⟨?_, fun a ha => ?_⟩
  · have hr := memRead_memWrite s.mem pa (leBytes 16 b.toNat) hm
    rw [length_leBytes] at hr
    unfold barAt readLoc
    simp only [h, hr]
    rw [leNat_leBytes _ _ hb.toNat_lt, hb.ofNat_toNat]
  · rw [h, memByte_memWrite_out _ _ _ _ hm (by rwa [length_leBytes])]

theorem noteRelease_rest (s : State) (l : List Nat) : noteRelease s l = { s with releases := (noteRelease s l).releases } := by
  unfold noteRelease
  dsimp only
  split <;> rfl

theorem noteRelease_written (s : State) (l : List Nat) : Written s (noteRelease s l) := by
  refine ⟨?_, fun h => ?_, fun x hx => ?_⟩
  · rw [noteRelease_rest]
  · rw [noteRelease_rest]
    exact h
  · rw [noteRelease_rest] at hx
    exact hx

/-- A phase that completes writes the next one's barrier (R293). -/
theorem barComplete_written (s : State) (ctx pa : Nat) (b : Bar) : Written s (barComplete s ctx (.mem pa) b) :=
  (setBar_written _ _ _ _).trans (noteRelease_written _ _)

/-- A barrier with the bits of a count that has come down in place: the completed phase's where nothing is left (R293). -/
theorem barComplete_put {s : State} (hm : Memory.wf s.mem = true) (ctx pa : Nat) {b : Bar} (hb : b.Fits) (ha : b.arrive = 0) (hy : b.bytes = 0) :
    BarPut s (barComplete s ctx (.mem pa) b) pa (b.landed 0) := by
  have hl : b.landed 0 =
      { b with phase := (b.phase + 1) % 2 ^ 16, arrive := b.reload, bytes := 0, wobs := 0, drn := b.drn || decide (b.wreg > 0) } := by
    simp [Bar.landed, ha, hy]
  have hf : (b.landed 0).Fits := by
    rw [hl]
    exact ⟨Nat.mod_lt _ (by decide), hb.reload, hb.reload, hb.wreg, Nat.two_pow_pos _, Nat.two_pow_pos _, hb.rest⟩
  rw [hl] at hf ⊢
  refine (setBar_put hm ctx pa hf).of_mem ?_
  unfold barComplete
  rw [noteRelease_rest]

theorem Bar.landed_zero_of_left {b : Bar} (hb : b.Fits) (h : ¬(b.arrive = 0 ∧ b.bytes = 0)) : b.landed 0 = b := by
  have hy : (b.bytes + (2 ^ 32 - 0 % 2 ^ 32)) % 2 ^ 32 = b.bytes := by have := hb.bytes; omega
  unfold Bar.landed
  simp only [hy, if_neg h]

theorem barTouch_touched {s : State} (hs : s.sent = []) (k : Nat) (w : Wave) (ref : DWord) (loc : WLoc) : Touched s (barTouch s k w ref loc) := by
  unfold barTouch
  split
  · exact .refl s
  · rw [flushOwn_nil hs]
    dsimp only
    split
    · exact (forgetEarly_touched _ _).trans (useXlat_touched _ _ _ _ _)
    · exact forgetEarly_touched _ _

section
variable {s : State} {k : Nat} {w : Wave} {ref : DWord} {o : Bool} {pa : Nat}

/-- BINIT by the barrier that it finds (R294). -/
theorem performBinit_of_ref (hr : barOfRef s w ref = .ok (.mem pa, o)) (hs : s.sent = []) (reload : Nat) :
    performBinit s k w ref reload =
      if (barAt s (.mem pa)).wreg ≠ 0 || (barAt s (.mem pa)).drn then .fault ⟨19, 2, none, none⟩
      else if reload % 2 ^ 16 = 0 then .fault ⟨19, 4, none, none⟩
      else .done (setBar (barTouch s k w ref (.mem pa)) w.ctx (.mem pa) ⟨0, reload % 2 ^ 16, reload % 2 ^ 16, 0, 0, 0, false, false, 0⟩) := by
  rw [performBinit, hr]
  simp only [barAt_mem (barTouch_touched hs k w ref (.mem pa)).mem pa]

theorem binit_performs (hr : barOfRef s w ref = .ok (.mem pa, o)) (hs : s.sent = []) (hm : Memory.wf s.mem = true) (reload : Nat) :
    ((barAt s (.mem pa)).wreg ≠ 0 ∨ (barAt s (.mem pa)).drn = true → performBinit s k w ref reload = .fault ⟨19, 2, none, none⟩) ∧
    ((barAt s (.mem pa)).wreg = 0 → (barAt s (.mem pa)).drn = false → reload % 2 ^ 16 = 0 →
      performBinit s k w ref reload = .fault ⟨19, 4, none, none⟩) ∧
    ((barAt s (.mem pa)).wreg = 0 → (barAt s (.mem pa)).drn = false → reload % 2 ^ 16 ≠ 0 → ∃ t, performBinit s k w ref reload = .done t ∧
      barAt t (.mem pa) = ⟨0, reload % 2 ^ 16, reload % 2 ^ 16, 0, 0, 0, false, false, 0⟩ ∧ t.waves = s.waves ∧
      ∀ a, a < pa ∨ pa + 16 ≤ a → memByte t.mem a = memByte s.mem a) := by
  rw [performBinit_of_ref hr hs]
  refine ⟨fun h => if_pos (by simpa using h), fun hw hd h => ?_, fun hw hd h => ?_⟩
  · rw [if_neg (by simp [hw, hd]), if_pos h]
  · have ht := barTouch_touched hs k w ref (.mem pa)
    have hl : reload % 2 ^ 16 < 2 ^ 16 := Nat.mod_lt _ (by decide)
    have hb : Bar.Fits ⟨0, reload % 2 ^ 16, reload % 2 ^ 16, 0, 0, 0, false, false, 0⟩ :=
      ⟨Nat.two_pow_pos _, hl, hl, Nat.two_pow_pos _, Nat.two_pow_pos _, Nat.two_pow_pos _, Nat.two_pow_pos _⟩
    have hp := (setBar_put (ht.mem ▸ hm) w.ctx pa hb).on ht.mem
    exact ⟨_, by rw [if_neg (by simp [hw, hd]), if_neg h], hp.reads, (setBar_written _ _ _ _).waves.trans ht.written.waves, hp.others⟩

/-- The barrier that an arrival leaves, before a phase that it completes (R295). -/
def Bar.arrived (b : Bar) (bytes : Word) : Bar := { b with arrive := b.arrive - 1, bytes := (b.bytes + bytes.toNat) % 2 ^ 32 }

theorem Bar.Fits.arrived {b : Bar} (h : b.Fits) (bytes : Word) : (b.arrived bytes).Fits :=
  ⟨h.phase, (Nat.sub_le _ _).trans_lt h.arrive, h.reload, h.wreg, Nat.mod_lt _ (by decide), h.wobs, h.rest⟩

/-- What an arrival writes at its barrier (R293, R295). -/
def arvWrite (s : State) (ctx pa : Nat) (b : Bar) : State :=
  if b.arrive = 0 && b.bytes = 0 then barComplete s ctx (.mem pa) b else setBar s ctx (.mem pa) b

theorem arvWrite_written (s : State) (ctx pa : Nat) (b : Bar) : Written s (arvWrite s ctx pa b) := by
  unfold arvWrite
  split_ifs
  · exact barComplete_written _ _ _ _
  · exact setBar_written _ _ _ _

theorem arvWrite_put (hm : Memory.wf s.mem = true) (ctx : Nat) {b : Bar} (hb : b.Fits) : BarPut s (arvWrite s ctx pa b) pa (b.landed 0) := by
  unfold arvWrite
  split_ifs with h
  · obtain ⟨ha, hy⟩ := by simpa using h
    exact barComplete_put hm ctx pa hb ha hy
  · rw [Bar.landed_zero_of_left hb (by simpa using h)]
    exact setBar_put hm ctx pa hb

/-- ARV of a launch that is not deterministic, by the barrier that it finds (R295). -/
theorem performArv_of_ref {e : QEntry} (hr : barOfRef s w ref = .ok (.mem pa, o)) (hc : Calm s w) (he : e.stage = none)
    (hd : s.isDet w = false) (hq : hasSteps s k w = false) (bytes : Word) (scope dst pr : Nat) :
    performArv s k w e ref bytes scope dst pr =
      let s0 := barTouch s k w ref (.mem pa)
      let b := barAt s (.mem pa)
      if b.drn then .done (s0.modWave k fun w => w.arvResult dst pr (arvWord b.phase false false))
      else if b.arrive = 0 then .fault ⟨19, 3, none, none⟩
      else .done ((arvWrite s0 w.ctx pa (b.arrived bytes)).modWave k fun w =>
        w.arvResult dst pr (arvWord b.phase true (b.arrive - 1 = 0))) := by
  have ht := barTouch_touched hc.sent k w ref (.mem pa)
  have hrace : raceOn (barTouch s k w ref (.mem pa)) w.ctx = false := (ht.raceOn _).trans hc.race
  have hq0 : (if o = true then releaseAt (barTouch s k w ref (.mem pa)) k w scope else raceRelease (barTouch s k w ref (.mem pa)) w.ctx) =
      barTouch s k w ref (.mem pa) := by
    rw [releaseAt_quiet (ht.written.sent.trans hc.sent) hrace, raceRelease_off hrace, ite_self]
  have hd1 : (barTouch s k w ref (.mem pa)).isDet w = false := (ht.written.isDet w).trans hd
  have hb := barAt_mem ht.mem pa
  unfold performArv
  simp only [he, hr, releaseWaits, hq, Bool.and_false, Option.isSome_none, Bool.false_eq_true, if_false, hq0, hb, hd1, Bool.not_false, if_true]
  rfl

theorem arv_performs {e : QEntry} (hr : barOfRef s w ref = .ok (.mem pa, o)) (hc : Calm s w) (hm : Memory.wf s.mem = true)
    (hw : s.wave k = some w) (he : e.stage = none) (hd : s.isDet w = false) (hq : hasSteps s k w = false) (bytes : Word) (scope dst pr : Nat) :
    ((barAt s (.mem pa)).drn = true → ∃ t, performArv s k w e ref bytes scope dst pr = .done t ∧ t.mem = s.mem ∧
      t.wave k = some (w.arvResult dst pr (BitVec.ofNat 64 (barAt s (.mem pa)).phase))) ∧
    ((barAt s (.mem pa)).drn = false → (barAt s (.mem pa)).arrive = 0 →
      performArv s k w e ref bytes scope dst pr = .fault ⟨19, 3, none, none⟩) ∧
    ((barAt s (.mem pa)).drn = false → (barAt s (.mem pa)).arrive ≠ 0 → ∃ t, performArv s k w e ref bytes scope dst pr = .done t ∧
      barAt t (.mem pa) = ((barAt s (.mem pa)).arrived bytes).landed 0 ∧
      (∀ a, a < pa ∨ pa + 16 ≤ a → memByte t.mem a = memByte s.mem a) ∧
      t.wave k = some (w.arvResult dst pr
        (BitVec.ofNat 64 ((barAt s (.mem pa)).phase + 2 ^ 16 + if (barAt s (.mem pa)).arrive = 1 then 2 ^ 17 else 0))) ∧
      ∀ j, j ≠ k → t.wave j = s.wave j) := by
  have ht := barTouch_touched hc.sent k w ref (.mem pa)
  have hb := barAt_fits s (.mem pa)
  have hph : (barAt s (.mem pa)).phase % 65536 = (barAt s (.mem pa)).phase := Nat.mod_eq_of_lt hb.phase
  rw [performArv_of_ref hr hc he hd hq]
  dsimp only
  refine ⟨fun h => ?_, fun h ha => by rw [if_neg (by simp [h]), if_pos ha], fun h ha => ?_⟩
  · rw [if_pos h, modWave_eq_setWave ((ht.written.wave k).trans hw)]
    refine ⟨_, rfl, ht.mem, ?_⟩
    rw [setWave_wave_same]
    simp [arvWord, hph]
  · have hk := ht.written.trans (arvWrite_written (barTouch s k w ref (.mem pa)) w.ctx pa ((barAt s (.mem pa)).arrived bytes))
    have hp := (arvWrite_put (pa := pa) (ht.mem ▸ hm) w.ctx (hb.arrived bytes)).on ht.mem
    rw [if_neg (by simp [h]), if_neg ha, modWave_eq_setWave ((hk.wave k).trans hw)]
    refine ⟨_, rfl, hp.reads, hp.others, ?_, fun j hj => (setWave_wave_ne _ _ _ _ hj).trans (hk.wave j)⟩
    rw [setWave_wave_same]
    have h1 : (barAt s (.mem pa)).arrive - 1 = 0 ↔ (barAt s (.mem pa)).arrive = 1 := by omega
    simp [arvWord, hph, h1]

end

end Sys2Proof.Machine
end

section
/-! SUPPORT. What wakes do when they are performed: the queue entries of a word in ticket order (R284, R296). -/
namespace Sys2Proof.Machine

/-! Sorting by a key. -/

theorem insertBy_eq_orderedInsert {α : Type} (r : α → α → Prop) [DecidableRel r] (a : α) (l : List α) :
    insertBy (fun a b => decide (r a b)) a l = l.orderedInsert r a := by
  induction l with
  | nil => rfl
  | cons b l ih =>
    rw [insertBy, ih, List.orderedInsert_cons]
    by_cases h : r a b <;> simp [h]

theorem sortBy_eq_insertionSort {α : Type} (r : α → α → Prop) [DecidableRel r] (l : List α) :
    sortBy (fun a b => decide (r a b)) l = l.insertionSort r := by
  induction l with
  | nil => rfl
  | cons a l ih => rw [List.insertionSort_cons, ← ih, ← insertBy_eq_orderedInsert]; rfl

/-! A vigil of a memory word sees memory alone. -/

section
variable {s t : State} {v : Vigil} {pa : Nat}

theorem Vigil.holds_of_mem (hl : v.loc = .mem pa) (h : t.mem = s.mem) : v.holds t = v.holds s := by
  unfold Vigil.holds readLoc
  rw [hl, h]

theorem Vigil.value_of_mem (hl : v.loc = .mem pa) (h : t.mem = s.mem) : v.value t = v.value s := by
  unfold Vigil.value readLoc
  rw [hl, h]

/-- The wake that a queue entry is released with (R279, R284). -/
def Vigil.released (s : State) (v : Vigil) : Wake := ⟨v.waiter, v.va, v.value s, true, none, false, none⟩

theorem wakeVigil_wakes (hk : v.kind = .queue) : (wakeVigil s v true (v.value s)).wakes = s.wakes ++ [v.released s] := by
  have h : (dropVigil s v).wakes = s.wakes := by
    unfold dropVigil
    dsimp only
    split <;> rfl
  rw [← h]
  simp [wakeVigil, Vigil.released, hk]

end

/-- One entry of a queue considered, while some may still be released (R284). -/
def queueWake (acc : State × Nat) (v : Vigil) : State × Nat :=
  if acc.2 > 0 && v.holds acc.1 then (wakeVigil acc.1 v true (v.value acc.1), acc.2 - 1) else acc

theorem wakeQueue_eq (s : State) (loc : WLoc) (n : Nat) : wakeQueue s loc n =
    ((((tvals s.vigils).filter fun v => v.kind = .queue && v.loc = loc).insertionSort fun a b => a.ticket ≤ b.ticket).foldl queueWake
      (s, n)).1 := by
  rw [← sortBy_eq_insertionSort]
  rfl

/-- Of entries of one memory word, the first `n` whose condition holds are released, in their order. -/
theorem foldl_queueWake (pa : Nat) (vs : List Vigil) (hv : ∀ v ∈ vs, v.kind = .queue ∧ v.loc = .mem pa) (s : State) (n : Nat) :
    let t := (vs.foldl queueWake (s, n)).1
    Written s t ∧ t.mem = s.mem ∧ t.wakes = s.wakes ++ ((vs.filter (Vigil.holds s)).take n).map (Vigil.released s) := by
  induction vs generalizing s n with
  | nil => exact ⟨.refl s, rfl, by simp⟩
  | cons v vs ih =>
    obtain ⟨⟨hk, hl⟩, hv⟩ := List.forall_mem_cons.1 hv
    dsimp only at ih ⊢
    rw [List.foldl_cons]
    by_cases h : n > 0 ∧ v.holds s = true
    · obtain ⟨hn, hh⟩ := h
      have hm := wakeVigil_mem s v true (v.value s)
      have hs : queueWake (s, n) v = (wakeVigil s v true (v.value s), n - 1) := by simp [queueWake, hn, hh]
      obtain ⟨iw, im, ik⟩ := ih hv (wakeVigil s v true (v.value s)) (n - 1)
      rw [hs]
      refine ⟨(wakeVigil_written s v true (v.value s)).trans iw, im.trans hm, ?_⟩
      have hf : vs.filter (Vigil.holds (wakeVigil s v true (v.value s))) = vs.filter (Vigil.holds s) :=
        List.filter_congr fun u hu => Vigil.holds_of_mem (hv u hu).2 hm
      have hr : ((vs.filter (Vigil.holds s)).take (n - 1)).map (Vigil.released (wakeVigil s v true (v.value s))) =
          ((vs.filter (Vigil.holds s)).take (n - 1)).map (Vigil.released s) :=
        List.map_congr_left fun u hu => by
          have hu' := (List.mem_filter.1 (List.mem_of_mem_take hu)).1
          rw [Vigil.released, Vigil.released, Vigil.value_of_mem (hv u hu').2 hm]
      obtain ⟨m, rfl⟩ : ∃ m, n = m + 1 := ⟨n - 1, by omega⟩
      rw [ik, wakeVigil_wakes hk, hf, hr, List.filter_cons_of_pos hh, List.take_succ_cons, List.map_cons, List.append_assoc]
      rfl
    · have hs : queueWake (s, n) v = (s, n) := if_neg (by simpa using h)
      obtain ⟨iw, im, ik⟩ := ih hv s n
      rw [hs]
      refine ⟨iw, im, ?_⟩
      rcases Nat.eq_zero_or_pos n with rfl | hn
      · rw [ik, List.take_zero, List.take_zero]
      · rw [ik, List.filter_cons_of_neg fun hh => h ⟨hn, hh⟩]

/-- Wakes that release the first `n` of some queue entries in ticket order, or all of fewer (R284, R296). -/
structure Releases (s : State) (n : Nat) (due : List Vigil) (l : List Wake) : Prop where
  count : l.length = min n due.length
  wakes : ∀ x ∈ l, ∃ v ∈ due, v.waiter = x.waiter ∧ x.value = v.value s ∧ x.flag = true
  first : ∀ v ∈ due, (∃ x ∈ l, x.waiter = v.waiter) ∨ ∀ x ∈ l, ∃ u ∈ due, u.waiter = x.waiter ∧ u.ticket ≤ v.ticket

theorem releases_sorted (s : State) (n : Nat) {q due : List Vigil} (hp : q.Perm due) (hs : q.Pairwise fun a b => a.ticket ≤ b.ticket) :
    Releases s n due ((q.take n).map (Vigil.released s)) := by
  refine ⟨by rw [List.length_map, List.length_take, hp.length_eq], fun x hx => ?_, fun v hv => ?_⟩
  · obtain ⟨v, hv, rfl⟩ := List.mem_map.1 hx
    exact ⟨v, hp.mem_iff.1 (List.mem_of_mem_take hv), rfl, rfl, rfl⟩
  · have hq := hp.mem_iff.2 hv
    rw [← List.take_append_drop n q] at hq hs
    rcases List.mem_append.1 hq with ht | hd
    · exact .inl ⟨_, List.mem_map_of_mem ht, rfl⟩
    · refine .inr fun x hx => ?_
      obtain ⟨u, hu, rfl⟩ := List.mem_map.1 hx
      exact ⟨u, hp.mem_iff.1 (List.mem_of_mem_take hu), rfl, (List.pairwise_append.1 hs).2.2 u hu v hd⟩

theorem wakeQueue_releases (s : State) (pa n : Nat) :
    Written s (wakeQueue s (.mem pa) n) ∧ (wakeQueue s (.mem pa) n).mem = s.mem ∧ ∃ l, (wakeQueue s (.mem pa) n).wakes = s.wakes ++ l ∧
      Releases s n ((tvals s.vigils).filter fun v => v.kind = .queue && v.loc = .mem pa && v.holds s) l := by
  let vs := (tvals s.vigils).filter fun v => v.kind = .queue && v.loc = .mem pa
  let r : Vigil → Vigil → Prop := fun a b => a.ticket ≤ b.ticket
  have hv : ∀ v ∈ vs.insertionSort r, v.kind = .queue ∧ v.loc = .mem pa := fun v hm => by
    simpa using (List.mem_filter.1 ((List.mem_insertionSort r).1 hm)).2
  have hsort : (vs.insertionSort r).Pairwise r :=
    have : Std.Total r := ⟨fun a b => Nat.le_total _ _⟩
    have : IsTrans Vigil r := ⟨fun a b c => Nat.le_trans⟩
    List.pairwise_insertionSort r vs
  have hp : ((vs.insertionSort r).filter (Vigil.holds s)).Perm
      ((tvals s.vigils).filter fun v => v.kind = .queue && v.loc = .mem pa && v.holds s) := by
    refine ((List.perm_insertionSort r vs).filter _).trans (.of_eq ?_)
    rw [List.filter_filter]
    exact List.filter_congr fun v _ => Bool.and_comm _ _
  obtain ⟨hw, hm, hk⟩ := foldl_queueWake pa (vs.insertionSort r) hv s n
  rw [wakeQueue_eq]
  exact ⟨hw, hm, _, hk, releases_sorted s n hp (hsort.filter _)⟩

end Sys2Proof.Machine
end

section
/-! SUPPORT. What WAKE, WAKEQ, FENCE and DTOK do when they are performed (R284, R296, R305, R306). -/
namespace Sys2Proof.Machine

/-! WAKE and WAKEQ. -/

theorem Releases.on {s t : State} {n : Nat} {due : List Vigil} {l : List Wake} {pa : Nat} (h : Releases s n due l)
    (hl : ∀ v ∈ due, v.loc = .mem pa) (hm : t.mem = s.mem) : Releases t n due l :=
  ⟨h.count, fun x hx => by
    obtain ⟨v, hv, hw, hx', hf⟩ := h.wakes x hx
    exact ⟨v, hv, hw, hx'.trans (Vigil.value_of_mem (hl v hv) hm).symm, hf⟩, h.first⟩

/-- The queue entries of a word whose condition holds (R284). -/
def dueAt (s : State) (vs : Tab Vigil) (pa : Nat) : List Vigil :=
  (tvals vs).filter fun v => v.kind = .queue && v.loc = .mem pa && v.holds s

theorem dueAt_loc {s : State} {vs : Tab Vigil} {pa : Nat} : ∀ v ∈ dueAt s vs pa, v.loc = .mem pa := fun v hv => by
  have h := (List.mem_filter.1 hv).2
  simp only [Bool.and_eq_true, decide_eq_true_eq] at h
  exact h.1.2

theorem dueAt_of_mem {s t : State} (h : t.mem = s.mem) (vs : Tab Vigil) (pa : Nat) : dueAt t vs pa = dueAt s vs pa := by
  refine List.filter_congr fun v _ => ?_
  by_cases hl : v.loc = .mem pa
  · rw [Vigil.holds_of_mem hl h]
  · simp [hl]

/-- Releases out of a state whose vigils and wakes are those of `s`, with the memory of `t`. -/
theorem wakeQueue_from {s t u : State} (hv : u.vigils = s.vigils) (hw : u.wakes = s.wakes) (hm : t.mem = u.mem) (pa n : Nat) :
    ∃ l, (wakeQueue u (.mem pa) n).wakes = s.wakes ++ l ∧ Releases t n (dueAt t s.vigils pa) l := by
  obtain ⟨-, -, l, hl, hr⟩ := wakeQueue_releases u pa n
  refine ⟨l, hl.trans (by rw [hw]), ?_⟩
  rw [dueAt_of_mem hm, ← hv]
  exact Releases.on hr dueAt_loc hm

section
variable {s : State} {w : Wave}

theorem releaseWaits_free {k : Nat} (h : hasSteps s k w = false) (r : Bool) (scope : Nat) : releaseWaits s k w r scope = false := by
  simp [releaseWaits, h]

theorem releasePage_quiet (hs : s.sent = []) (hr : raceOn s w.ctx = false) (k scope pte : Nat) : releasePage s k w scope pte = s := by
  rw [releasePage, releaseAt_quiet hs hr, raceRelease_off hr, ite_self]

theorem performWake_calm {k va : Nat} {p : Place} (hp : wakePlace s w.core w.ctx va 4 .load = .ok p) (hc : Calm s w)
    (hq : hasSteps s k w = false) (n scope : Nat) :
    performWake s k w va n scope = .done (wakeQueue (useRead s (.core w.core) w.ctx va p) (.mem p.pa) n) := by
  have hu := useRead_touched s (.core w.core) w.ctx va p
  simp only [performWake, releaseWaits_free hq, hp, hc.sound.uncorrectable, flushOwn_nil hc.sent, Bool.false_eq_true, if_false]
  rw [releasePage_quiet (hu.written.sent.trans hc.sent) ((hu.raceOn _).trans hc.race)]

theorem wake_performs (k va n scope : Nat) (p : Place) (hp : wakePlace s w.core w.ctx va 4 .load = .ok p) (hc : Calm s w)
    (hq : hasSteps s k w = false) :
    ∃ t l, performWake s k w va n scope = .done t ∧ t.mem = s.mem ∧ t.waves = s.waves ∧ t.wakes = s.wakes ++ l ∧
      Releases s n (dueAt s s.vigils p.pa) l := by
  have hu := useRead_touched s (.core w.core) w.ctx va p
  obtain ⟨hw, hm, -⟩ := wakeQueue_releases (useRead s (.core w.core) w.ctx va p) p.pa n
  obtain ⟨l, hl, hr⟩ := wakeQueue_from hu.vigils hu.wakes hu.mem.symm p.pa n
  exact ⟨_, l, performWake_calm hp hc hq n scope, hm.trans hu.mem, hw.waves.trans hu.written.waves, hl, hr⟩

/-- A write evaluates no queue entry (R278). -/
theorem evalVigils_queue (h : ∀ x ∈ tvals s.vigils, x.kind = .queue) (loc : WLoc) (n : Nat) : evalVigils s loc n = s := by
  unfold evalVigils
  generalize tvals s.vigils = l at h
  induction l with
  | nil => rfl
  | cons v l ih =>
    obtain ⟨hv, hl⟩ := List.forall_mem_cons.1 h
    rw [List.foldl_cons, if_neg (by simp [hv])]
    exact ih hl

theorem homeWrite_queue (h : ∀ x ∈ tvals s.vigils, x.kind = .queue) (ctx pa : Nat) (bs : List Byte) (cmp : Bool) :
    (homeWrite s ctx pa bs cmp).vigils = s.vigils ∧ (homeWrite s ctx pa bs cmp).wakes = s.wakes := by
  unfold homeWrite
  split_ifs
  · exact ⟨rfl, rfl⟩
  · have hd := dirtyParts_touched ctx cmp (partsOf pa bs.length) { s with mem := memWrite s.mem pa bs }
    dsimp only
    rw [evalVigils_queue (by rwa [hd.vigils])]
    exact ⟨hd.vigils, hd.wakes⟩

/-- What WAKEQ's own use of its word leaves before the value is stored (R86, R314). -/
def wakeqUse (s : State) (k : Nat) (w : Wave) (va : Nat) (p : Place) : State :=
  forgetEarly (useXlat s (.core w.core) w.ctx va p.x) fun y => y.wave = k && y.sector = p.pa / 48

theorem wakeqUse_touched (s : State) (k : Nat) (w : Wave) (va : Nat) (p : Place) : Touched s (wakeqUse s k w va p) :=
  (useXlat_touched _ _ _ _ _).trans (forgetEarly_touched _ _)

theorem performWakeq_calm {k va len : Nat} {w64 : Bool} {p : Place} (hlen : len = if w64 then 8 else 4) (hc : Calm s w)
    (hq : hasSteps s k w = false) (hp : wakePlace s w.core w.ctx va len .store = .ok p) (hu : sealedBy s w.ctx va len = false)
    (hl : s.locks = []) (v : DWord) (n scope : Nat) :
    performWakeq s k w va v w64 n scope =
      .done (wakeQueue (homeWrite (wakeqUse s k w va p) w.ctx p.pa (leBytes len v.toNat) (pteCmp p.pte)) (.mem p.pa) n) := by
  have ht := wakeqUse_touched s k w va p
  have hx := useXlat_touched s (.core w.core) w.ctx va p.x
  have hr := releasePage_quiet (w := w) (ht.written.sent.trans hc.sent) ((ht.raceOn _).trans hc.race) k scope p.pte
  unfold wakeqUse at hr ⊢
  simp only [performWakeq, releaseWaits_free hq, ← hlen, hp, hu, lockFail_nil hl, flushOwn_nil (hx.written.sent.trans hc.sent), hr,
    Bool.false_eq_true, if_false]

theorem wakeq_performs (k va n scope len : Nat) (v : DWord) (w64 : Bool) (p : Place) (hlen : len = if w64 then 8 else 4) (hc : Calm s w)
    (hm : Memory.wf s.mem = true) (hq : hasSteps s k w = false) (hk : ∀ x ∈ tvals s.vigils, x.kind = .queue)
    (hp : wakePlace s w.core w.ctx va len .store = .ok p) (hu : sealedBy s w.ctx va len = false) (hl : s.locks = []) :
    ∃ t l, performWakeq s k w va v w64 n scope = .done t ∧ Stored s t p.pa (leBytes len v.toNat) ∧ t.waves = s.waves ∧
      t.wakes = s.wakes ++ l ∧ Releases t n (dueAt t s.vigils p.pa) l := by
  have ht := wakeqUse_touched s k w va p
  obtain ⟨hv, hw⟩ := homeWrite_queue (s := wakeqUse s k w va p) (by rwa [ht.vigils]) w.ctx p.pa (leBytes len v.toNat) (pteCmp p.pte)
  have hh := homeWrite_written (wakeqUse s k w va p) w.ctx p.pa (leBytes len v.toNat) (pteCmp p.pte)
  obtain ⟨hqw, hqm, -⟩ :=
    wakeQueue_releases (homeWrite (wakeqUse s k w va p) w.ctx p.pa (leBytes len v.toNat) (pteCmp p.pte)) p.pa n
  obtain ⟨l, hl', hr⟩ := wakeQueue_from (hv.trans ht.vigils) (hw.trans ht.wakes) hqm p.pa n
  exact ⟨_, l, performWakeq_calm hlen hc hq hp hu hl v n scope, stored_of_mem hm (by rw [hqm, homeWrite_mem, ht.mem]),
    hqw.waves.trans (hh.waves.trans ht.written.waves), hl', hr⟩

end

/-! FENCE (R306, R314, R317). -/

theorem flushSent_written (s : State) (p : Sent → Bool) : ∃ l, Written { s with sent := l } (flushSent s p) := ⟨_, performSent_written _ _⟩

/-- The marks of `flushSent`: each sent write once, and those that the test names marked. -/
theorem marked_of_test {p : Sent → Bool} {f : List (Bool × Sent) → Sent → Bool} (l : List Sent) (y : Bool × Sent)
    (h : y ∈ l.foldr (fun x acc => (p x || f acc x, x) :: acc) []) : y.2 ∈ l ∧ (p y.2 = true → y.1 = true) := by
  induction l with
  | nil => exact absurd h List.not_mem_nil
  | cons x l ih =>
    rw [List.foldr_cons] at h
    rcases List.mem_cons.1 h with rfl | h
    · exact ⟨List.mem_cons_self, fun hp => by simp [hp]⟩
    · exact ⟨List.mem_cons_of_mem _ (ih h).1, (ih h).2⟩

/-- What stays only sent was sent before, and the test does not name it. -/
theorem mem_flushSent_sent {s : State} {p : Sent → Bool} {x : Sent} (h : x ∈ (flushSent s p).sent) : x ∈ s.sent ∧ p x = false := by
  unfold flushSent at h
  rw [(performSent_written _ _).sent] at h
  obtain ⟨y, hy, rfl⟩ := List.mem_map.1 h
  obtain ⟨hm, hn⟩ := List.mem_filter.1 hy
  obtain ⟨hs, hp⟩ := marked_of_test
    (f := fun acc x => acc.any fun y => y.1 && y.2.wave = x.wave && bytesMeet x.pa x.bytes.length y.2.pa y.2.bytes.length) s.sent y hm
  refine ⟨hs, ?_⟩
  by_contra hc
  simp [hp (by simpa using hc)] at hn

theorem flushSent_early {s : State} {p : Sent → Bool} {x : Early} (h : x ∈ (flushSent s p).early) : x ∈ s.early := by
  obtain ⟨l, hl⟩ := flushSent_written s p
  exact hl.early x h

theorem flushSent_wave (s : State) (p : Sent → Bool) (j : Nat) : (flushSent s p).wave j = s.wave j := by
  obtain ⟨l, hl⟩ := flushSent_written s p
  exact hl.wave j

/-- What a step of the ordering rules leaves: it sends nothing for a wave that has nothing only sent, adds no early read, and changes no
other wave than the given one; with nothing only sent it changes no memory. -/
structure Orders (k : Nat) (s t : State) : Prop where
  sent : (∀ x ∈ s.sent, x.wave ≠ k) → ∀ x ∈ t.sent, x.wave ≠ k
  early : (∀ x ∈ s.early, x.wave ≠ k) → ∀ x ∈ t.early, x.wave ≠ k
  waves : ∀ j, j ≠ k → t.wave j = s.wave j
  quiet : s.sent = [] → t.sent = [] ∧ t.mem = s.mem

theorem Orders.trans {k : Nat} {s t u : State} (h : Orders k s t) (g : Orders k t u) : Orders k s u :=
  ⟨fun hs => g.sent (h.sent hs), fun he => g.early (h.early he), fun j hj => (g.waves j hj).trans (h.waves j hj), fun hs => by
    obtain ⟨ht, hm⟩ := h.quiet hs
    obtain ⟨hu, hn⟩ := g.quiet ht
    exact ⟨hu, hn.trans hm⟩⟩

section
variable (s : State) (k : Nat)

theorem orders_flushSent (p : Sent → Bool) : Orders k s (flushSent s p) :=
  ⟨fun hs x hx => hs x (mem_flushSent_sent hx).1, fun he x hx => he x (flushSent_early hx), fun j _ => flushSent_wave s p j, fun h => by
    rw [flushSent_nil h]
    exact ⟨h, rfl⟩⟩

theorem orders_forgetEarly (p : Early → Bool) : Orders k s (forgetEarly s p) :=
  ⟨id, fun he x hx => he x (List.mem_filter.1 hx).1, fun _ _ => rfl, fun h => ⟨h, rfl⟩⟩

theorem orders_raceAcquire (queued : Bool) : Orders k s (raceAcquire s k queued) := by
  unfold raceAcquire
  split
  · exact ⟨id, id, fun _ _ => rfl, fun h => ⟨h, rfl⟩⟩
  · exact ⟨id, id, fun j hj => setWave_wave_ne _ _ _ _ hj, fun h => ⟨h, rfl⟩⟩

theorem orders_releaseSent (scope : Nat) : Orders k s (releaseSent s k scope) := by
  refine ⟨fun hs x hx => ?_, id, fun _ _ => rfl, fun h => ?_⟩
  · obtain ⟨y, hy, rfl⟩ := List.mem_map.1 hx
    split_ifs
    · exact hs y hy
    · exact hs y hy
  · rw [releaseSent_nil h]
    exact ⟨h, rfl⟩

theorem orders_raceRelease (ctx : Nat) : Orders k s (raceRelease s ctx) := by
  unfold raceRelease
  split_ifs
  · exact ⟨id, id, fun _ _ => rfl, fun h => ⟨h, rfl⟩⟩
  · exact ⟨id, id, fun _ _ => rfl, fun h => ⟨h, rfl⟩⟩

theorem orders_releaseAt (w : Wave) (scope : Nat) : Orders k s (releaseAt s k w scope) :=
  (orders_releaseSent s k scope).trans (orders_raceRelease _ k w.ctx)

theorem orders_acquireAt (core scope : Nat) (queued : Bool) : Orders k s (acquireAt s k core scope queued) :=
  ((orders_flushSent s k _).trans (orders_forgetEarly _ k _)).trans (orders_raceAcquire _ k queued)

theorem flushWave_sent : ∀ x ∈ (flushWave s k).sent, x.wave ≠ k := fun x hx => by simpa using (mem_flushSent_sent hx).2

theorem forgetEarly_wave : ∀ x ∈ (forgetEarly s fun x => x.wave = k).early, x.wave ≠ k := fun x hx => by
  simpa using (List.mem_filter.1 hx).2

end

theorem fence_performs (s : State) (k : Nat) (w : Wave) (kind scope : Nat) (hq : hasSteps s k w = false) :
    ∃ t, performFence s k w kind scope = .done t ∧ (kind = 0 ∨ kind = 2 → ∀ x ∈ t.sent, x.wave ≠ k) ∧
      (kind ≠ 2 → ∀ x ∈ t.early, x.wave ≠ k) ∧ (∀ j, j ≠ k → t.wave j = s.wave j) ∧ (s.sent = [] → t.mem = s.mem) := by
  let rel := kind = 0 || kind = 2
  let s1 := if rel then releaseAt (flushWave s k) k w scope else s
  let s2 := if kind ≠ 2 then acquireAt (forgetEarly s1 fun x => x.wave = k) k w.core scope true else s1
  have h1 : Orders k s s1 ∧ (rel = true → ∀ x ∈ s1.sent, x.wave ≠ k) := by
    unfold s1
    split_ifs with hr
    · exact ⟨(orders_flushSent s k _).trans (orders_releaseAt _ k w scope), fun _ => (orders_releaseAt _ k w scope).sent (flushWave_sent s k)⟩
    · exact ⟨⟨id, id, fun _ _ => rfl, fun h => ⟨h, rfl⟩⟩, fun h => absurd h hr⟩
  have h2 : Orders k s1 s2 ∧ (kind ≠ 2 → ∀ x ∈ s2.early, x.wave ≠ k) := by
    unfold s2
    split_ifs with hk
    · exact ⟨(orders_forgetEarly s1 k _).trans (orders_acquireAt _ k w.core scope true), fun _ =>
        (orders_acquireAt _ k w.core scope true).early (forgetEarly_wave s1 k)⟩
    · exact ⟨⟨id, id, fun _ _ => rfl, fun h => ⟨h, rfl⟩⟩, fun h => absurd h hk⟩
  obtain ⟨ho1, hs⟩ := h1
  obtain ⟨ho2, he⟩ := h2
  refine ⟨s2, ?_, fun h => ho2.sent (hs (by simpa [rel] using h)), he, (ho1.trans ho2).waves, fun h => ((ho1.trans ho2).quiet h).2⟩
  rw [performFence, releaseWaits_free hq, if_neg Bool.false_ne_true]

/-! DTOK (R305). -/

theorem tokenStep_mem (l fuel : Nat) (s : State) (h : ∀ e ∈ s.blocks, e.2.redd = []) : (tokenStep l fuel s).mem = s.mem := by
  induction fuel generalizing s with
  | zero => rfl
  | succ n ih =>
    unfold tokenStep
    split
    · rfl
    · split
      · rfl
      · rename_i b x hb
        have hx : x.redd = [] := h (b, x) (List.mem_of_find?_eq_some hb)
        have hk : ∀ e ∈ (s.modBlock b fun x => { x with redd := [] }).blocks, e.2.redd = [] := fun e he => by
          have he' : e ∈ tmod s.blocks b fun x => { x with redd := [] } := he
          unfold tmod at he'
          split at he'
          · exact h e he'
          · rcases mem_tset _ _ _ _ he' with rfl | he'
            · rfl
            · exact h e he'
        rw [hx]
        simp only [sortBy, List.foldr_nil, applyReady]
        split_ifs
        · exact ih _ hk
        · rfl

theorem tokenRun_mem (s : State) (l : Nat) (h : ∀ e ∈ s.blocks, e.2.redd = []) : (tokenRun s l).mem = s.mem := by
  unfold tokenRun
  split
  · rfl
  · split_ifs
    · exact tokenStep_mem _ _ _ h
    · rfl

/-- The block of a wave's launch, with the launch. -/
theorem launchOf_eq {s : State} {w : Wave} {la : Launch} (h : s.launchOf w = some la) :
    ∃ l, ((tget s.blocks w.block).bind fun b => (tget s.launches b.launch).map fun la => (b.launch, la)) = some (l, la) := by
  obtain ⟨b, hb, hl⟩ := Option.bind_eq_some_iff.1 h
  exact ⟨b.launch, by rw [hb, Option.bind_some, hl]; rfl⟩

theorem performDtok_outside {s : State} {k : Nat} {w : Wave} (h : ∀ la, s.launchOf w = some la → la.det = false ∨ la.dord = true) :
    performDtok s k w = .done s := by
  unfold performDtok
  split
  · rfl
  · rename_i l la hbl
    obtain ⟨b, hb, hl⟩ := Option.bind_eq_some_iff.1 hbl
    obtain ⟨la', hl, hp⟩ := Option.map_eq_some_iff.1 hl
    cases hp
    have hd := h la (Option.bind_eq_some_iff.2 ⟨b, hb, hl⟩)
    rw [if_neg (by rcases hd with hd | hd <;> simp [hd])]

theorem dtok_performs (s : State) (k : Nat) (w : Wave) (hw : s.wave k = some w) :
    ((∀ la, s.launchOf w = some la → la.det = false ∨ la.dord = true) → performDtok s k w = .done s) ∧
    (∀ la, s.launchOf w = some la → la.det = true → la.dord = false →
      ∃ t, performDtok s k w = .done t ∧ t.wave k = some { w with dtok := true } ∧ (∀ j, j ≠ k → t.wave j = s.wave j) ∧
        ((∀ e ∈ s.blocks, e.2.redd = []) → t.mem = s.mem)) := by
  refine ⟨performDtok_outside, fun la hla hd ho => ?_⟩
  obtain ⟨l, hl⟩ := launchOf_eq hla
  have hv (j : Nat) : (tokenRun (s.setWave k { w with dtok := true }) l).wave j = (s.setWave k { w with dtok := true }).wave j :=
    congrArg (tget · j) (tokenRun_waves _ _)
  refine ⟨tokenRun (s.setWave k { w with dtok := true }) l, ?_, (hv k).trans (setWave_wave_same _ _ _), fun j hj =>
    (hv j).trans (setWave_wave_ne _ _ _ _ hj), fun h => tokenRun_mem _ _ h⟩
  simp only [performDtok, hl, hd, ho, modWave_eq_setWave hw]
  rfl

end Sys2Proof.Machine
end

section
/-! SUPPORT. What an STL does when it is performed: a word of its core's own line, which the L1 may write home (R101, R138). -/
namespace Sys2Proof.Machine

/-! A sector with some bytes of it replaced. -/

/-- The bytes of a sector of memory with a run of them replaced. -/
def patched (m : Tab Byte) (a off : Nat) (bs : List Byte) : List Byte :=
  (memRead m a 48).take off ++ bs ++ (memRead m a 48).drop (off + bs.length)

theorem patched_getElem? (m : Tab Byte) (a off i : Nat) (bs : List Byte) (ho : off + bs.length ≤ 48) (hi : i < 48) :
    (patched m a off bs)[i]? = if off ≤ i ∧ i < off + bs.length then bs[i - off]? else some (memByte m (a + i)) := by
  have hl : ((memRead m a 48).take off).length = off := by simp [memRead]; omega
  have hr (j : Nat) (hj : j < 48) : (memRead m a 48)[j]? = some (memByte m (a + j)) := by simp [memRead, hj]
  unfold patched
  rw [List.append_assoc]
  by_cases h1 : i < off
  · rw [List.getElem?_append_left (by omega), List.getElem?_take_of_lt h1, hr i hi, if_neg (by omega)]
  · rw [List.getElem?_append_right (by omega), hl]
    by_cases h2 : i - off < bs.length
    · rw [List.getElem?_append_left h2, if_pos (by omega)]
    · rw [List.getElem?_append_right (by omega), List.getElem?_drop, if_neg (by omega),
        show off + bs.length + (i - off - bs.length) = i by omega, hr i hi]

theorem length_patched (m : Tab Byte) (a off : Nat) (bs : List Byte) (ho : off + bs.length ≤ 48) : (patched m a off bs).length = 48 := by
  simp only [patched, memRead, List.length_append, List.length_take, List.length_drop, List.length_map, List.length_range]
  omega

/-- To write a sector with a run replaced is to write the run. -/
theorem memByte_memWrite_patched {m : Tab Byte} (h : Memory.wf m = true) (a off : Nat) (bs : List Byte) (ho : off + bs.length ≤ 48) (j : Nat) :
    memByte (memWrite m a (patched m a off bs)) j = memByte (memWrite m (a + off) bs) j := by
  rw [memByte_memWrite _ _ _ _ h, memByte_memWrite _ _ _ _ h, length_patched _ _ _ _ ho]
  by_cases h1 : a ≤ j ∧ j < a + 48
  · rw [if_pos h1, patched_getElem? _ _ _ _ _ ho (by omega)]
    by_cases h2 : off ≤ j - a ∧ j - a < off + bs.length
    · rw [if_pos h2, if_pos (by omega), show j - a - off = j - (a + off) by omega]
    · rw [if_neg h2, if_neg (by omega), show a + (j - a) = j by omega, Option.getD_some]
  · rw [if_neg h1, if_neg (by omega)]

theorem Stored.of_bytes {s t u : State} {pa : Nat} {bs : List Byte} (h : Stored s t pa bs) (hm : ∀ j, memByte u.mem j = memByte t.mem j) :
    Stored s u pa bs :=
  ⟨fun i hi => by rw [hm]; exact h.1 i hi, fun a ha => by rw [hm]; exact h.2 a ha⟩

/-! What the slices evict where no error stands. -/

/-- A sector leaves its slice: where no error stands, no poison list overflows (R93, R440). -/
theorem evictSector_some {s : State} (h : Sound s) (x : Nat) : ∃ t, evictSector s x = some t := by
  have hb : s.errs.contains (.l2 x) = false := by simp [h.1]
  unfold evictSector
  split
  · exact ⟨s, rfl⟩
  · dsimp only
    rw [hb]
    split_ifs
    · exact ⟨_, rfl⟩
    · exact ⟨_, rfl⟩
    · exact ⟨_, rfl⟩
    all_goals contradiction

theorem l2Turnover_touched {s : State} (h : Sound s) : Touched s (l2Turnover s) := by
  unfold l2Turnover
  split_ifs
  · exact .refl s
  · dsimp only
    split
    · exact .refl s
    · rename_i x _
      obtain ⟨t, ht⟩ := evictSector_some h x
      unfold evictL2
      rw [ht]
      exact evictSector_touched ht
  · exact .refl s

/-! The write-back L1 with one sector of its own. -/

section
variable {s : State} {w : Wave}

/-- No line leaves an L1 that has room for one more (R96). -/
theorem l1Trim_room {core line : Nat} (h : (s.core core).l1.length + (s.core core).priv.length ≤ (s.core core).splitL * 256) :
    l1Trim s core line = s := if_pos h

/-- A state whose core has one line sector of its own, `y`, in its L1. -/
def withPriv (s : State) (core sector : Nat) (y : PrivSector) : State :=
  s.setCore core { s.core core with priv := [(sector, y)] }

theorem withPriv_core (s : State) (core sector : Nat) (y : PrivSector) :
    (withPriv s core sector y).core core = { s.core core with priv := [(sector, y)] } := by
  rw [withPriv, core_setCore, if_pos rfl]

theorem withPriv_sound (h : Sound s) (core sector : Nat) (y : PrivSector) : Sound (withPriv s core sector y) := h

theorem Touched.core {t : State} (h : Touched s t) (c : Nat) : t.core c = s.core c := by
  unfold State.core
  rw [h.written.cores]

/-- A part of a store to a page of R101 goes into its core's own line (R101). -/
theorem storePart_private {x : Part} {bs : List Byte} (hp : ptePriv x.p.pte = true) (hc : (s.core w.core).priv = [])
    (hr : (s.core w.core).l1.length < (s.core w.core).splitL * 256) (hb : bs.length < 48) (k : Nat) :
    ∃ u owner, Touched s u ∧ storePart s k w x bs =
      withPriv u w.core (x.p.pa / 48) ⟨owner, true, pteCmp x.p.pte, patched s.mem (x.p.pa / 48 * 48) (x.p.pa % 48) bs⟩ := by
  have hx := useXlat_touched s (.lsu w.core) w.ctx x.va x.p.x
  have hu := hx.trans (homeFill_touched _ (pteCmp x.p.pte) x.p.pa)
  refine ⟨_, ((frameOwner (homeFill (useXlat s (.lsu w.core) w.ctx x.va x.p.x) (pteCmp x.p.pte) x.p.pa) w.ctx x.va).map Prod.fst).getD 0, hu, ?_⟩
  have hn : (decide (bs.length < 48) && (tget ((useXlat s (.lsu w.core) w.ctx x.va x.p.x).core w.core).priv (x.p.pa / 48)).isNone) = true := by
    rw [hx.core, hc]
    simp [hb, tget]
  unfold storePart
  simp only [hp, if_true, hn]
  rw [l1Trim_room ?_]
  · unfold withPriv patched
    rw [hu.core, hc, ← hu.mem]
    rfl
  · rw [core_setCore, if_pos rfl, hu.core]
    simp only [hc, tset, List.length_singleton]
    omega

theorem withPriv_setCore (core sector : Nat) (y : PrivSector) (x : Core) : (withPriv s core sector y).setCore core x = s.setCore core x := by
  unfold withPriv State.setCore
  simp only [tset_tset]

/-- A core's one own sector dropped: its bytes are written home (R101). -/
theorem privDrop_one (core sector : Nat) {y : PrivSector} (hy : y.dirty = true) :
    ∃ x c, privDrop (withPriv s core sector y) core sector = homeWrite (s.setCore core x) c (48 * sector) y.bytes y.cmp := by
  have hc : tget ((withPriv s core sector y).core core).priv sector = some y := by simp [withPriv_core, tget]
  unfold privDrop
  simp only [hc, hy, if_true, withPriv_setCore]
  exact ⟨_, _, rfl⟩

/-- What the L1 makes of its one own sector: it keeps it, or drops it (R101). -/
theorem privTurnover_one (core sector : Nat) (y : PrivSector) :
    privTurnover (withPriv s core sector y) core = withPriv s core sector y ∨
      privTurnover (withPriv s core sector y) core = privDrop (withPriv s core sector y) core sector := by
  have hc : ((withPriv s core sector y).core core).priv = [(sector, y)] := by rw [withPriv_core]
  unfold privTurnover
  dsimp only
  rw [hc, if_neg (List.cons_ne_nil _ _)]
  split_ifs
  · rcases h : [(sector, y)][((withPriv s core sector y).fv (fkey 8 (core + 1024))).toNat % ([(sector, y)].length + 1)]? with _ | ⟨z, x⟩
    · exact .inl rfl
    · have hz : (z, x) = (sector, y) := List.mem_singleton.1 (List.mem_of_getElem? h)
      obtain ⟨rfl, rfl⟩ := Prod.mk.inj hz
      exact .inr rfl
  · exact .inl rfl

/-- What a core's own dirty sector of `bs` at `pa` may have become after the caches' turnover (R93, R101): it stands in its core's L1, or its bytes
have been written home. -/
theorem turnover_private (hs : Sound s) (hm : Memory.wf s.mem = true) {core pa : Nat} {y : PrivSector} {bs : List Byte} (hy : y.dirty = true)
    (hb : y.bytes = patched s.mem (pa / 48 * 48) (pa % 48) bs) (ho : pa % 48 + bs.length ≤ 48) :
    let t := turnover (withPriv s core (pa / 48) y) core
    t.waves = s.waves ∧ (t.mem = s.mem ∧ tget (t.core core).priv (pa / 48) = some y ∨ Stored s t pa bs) := by
  have hl {u : State} (hu : Sound u) : Touched u (l2Turnover u) := l2Turnover_touched hu
  unfold turnover
  dsimp only
  rcases privTurnover_one (s := s) core (pa / 48) y with h | h
  · have ht := hl (withPriv_sound hs core (pa / 48) y)
    rw [h]
    refine ⟨ht.written.waves, .inl ⟨ht.mem, ?_⟩⟩
    rw [ht.core, withPriv_core]
    simp [tget]
  · obtain ⟨x, c, hd⟩ := privDrop_one (s := s) core (pa / 48) hy
    have hw := homeWrite_written (s.setCore core x) c (48 * (pa / 48)) y.bytes y.cmp
    have ht := hl (hw.sound hs)
    rw [h, hd]
    refine ⟨ht.written.waves.trans hw.waves, .inr ?_⟩
    refine (stored_of_mem (t := { s with mem := memWrite s.mem pa bs }) hm rfl).of_bytes fun j => ?_
    have ha : pa / 48 * 48 + pa % 48 = pa := by omega
    rw [ht.mem, homeWrite_mem, hb, Nat.mul_comm 48]
    show memByte (memWrite s.mem _ _) j = memByte (memWrite s.mem pa bs) j
    rw [memByte_memWrite_patched hm _ _ _ ho, ha]

/-- An STL of one word of a page of R101, where no race detector watches (R138, R325). -/
theorem performStore_private {k n va : Nat} {bs : List Byte} {p : Place} (hlen : bs.length = 4) (hc : Calm s w) (hv : va % 48 + 4 ≤ 48)
    (hx : xlate s (.lsu w.core) w.ctx va .store = .ok p) (hu : sealedBy s w.ctx va 4 = false) (hl : s.locks = [])
    (hp : ptePriv p.pte = true) (hr : (s.core w.core).l1.length < (s.core w.core).splitL * 256) :
    ∃ u owner, Touched s u ∧ performStore s k w false 0 [⟨n, va, bs⟩] = .done (turnover
      (withPriv u w.core (p.pa / 48) ⟨owner, true, pteCmp p.pte, patched s.mem (p.pa / 48 * 48) (p.pa % 48) bs⟩) w.core) := by
  obtain ⟨u, owner, ht, hst⟩ := storePart_private (x := ⟨va, 4, p⟩) hp hc.priv hr (by omega : bs.length < 48) k
  have ha := accessParts_store hc.sound (by decide : 0 < 4) hv hx hu hl n
  have hone : storeOne s k w ⟨n, va, bs⟩ [⟨va, 4, p⟩] = storePart s k w ⟨va, 4, p⟩ bs := by
    simp only [storeOne, List.foldl_cons, List.foldl_nil, Nat.sub_self, List.drop_zero, List.take_of_length_le hlen.le]
  have hoff {y : PrivSector} : raceOn (withPriv u w.core (p.pa / 48) y) w.ctx = false := (ht.raceOn _).trans hc.race
  refine ⟨u, owner, ht, ?_⟩
  simp only [performStore, releaseWaits, storeLanes, storeChecks, hlen, ha, raceCheck, hc.race, writeLanes, List.foldl_cons, List.foldl_nil,
    hone, hst, raceWrote, shadowPut, hoff, Bool.false_and, Bool.not_false, Bool.false_eq_true, if_false, if_true]

theorem stl_performs (k n va : Nat) (e : QEntry) (bs : List Byte) (p : Place) (he : e.op = .store .stl false 0 [⟨n, va, bs⟩])
    (hlen : bs.length = 4) (hc : Calm s w) (hm : Memory.wf s.mem = true) (hv : va % 48 + 4 ≤ 48)
    (hx : xlate s (.lsu w.core) w.ctx va .store = .ok p) (hp : ptePriv p.pte = true) (ho : p.pa % 48 + 4 ≤ 48)
    (hu : sealedBy s w.ctx va 4 = false) (hl : s.locks = []) (hr : (s.core w.core).l1.length < (s.core w.core).splitL * 256) :
    ∃ t, performOp s k w e = .done t ∧ t.waves = s.waves ∧
      ((t.mem = s.mem ∧ ∃ y, tget (t.core w.core).priv (p.pa / 48) = some y ∧ y.dirty = true ∧
          y.bytes = (memRead s.mem (p.pa / 48 * 48) 48).take (p.pa % 48) ++ bs ++ (memRead s.mem (p.pa / 48 * 48) 48).drop (p.pa % 48 + 4)) ∨
        Stored s t p.pa bs) := by
  obtain ⟨u, owner, ht, hd⟩ := performStore_private (n := n) (k := k) hlen hc hv hx hu hl hp hr
  obtain ⟨hw, hres⟩ := turnover_private (ht.sound hc.sound) (ht.mem ▸ hm) (core := w.core) (pa := p.pa) (bs := bs)
    (y := ⟨owner, true, pteCmp p.pte, patched s.mem (p.pa / 48 * 48) (p.pa % 48) bs⟩) rfl (by rw [ht.mem]) (by omega)
  refine ⟨_, by rw [performOp, he]; exact hd, hw.trans ht.written.waves, ?_⟩
  rcases hres with ⟨hmem, hpriv⟩ | ⟨hin, hout⟩
  · exact .inl ⟨hmem.trans ht.mem, _, hpriv, rfl, by rw [patched, hlen]⟩
  · exact .inr ⟨hin, fun a ha => by rw [hout a ha, ht.mem]⟩

end

end Sys2Proof.Machine
end

section
/-! SUPPORT. The capture units' sample of an event (R437), and a STRAND whose one queued entry is performed (R175, R179). -/
namespace Sys2Proof.Machine

/-! A sample. -/

/-- A bin of a capture unit holds a value: bin 0 that of 0, bin b up to 14 those of b bits, bin 15 the rest (R437). -/
def InBin (b x : Nat) : Prop := (b = 0 ∧ x = 0) ∨ (0 < b ∧ b < 15 ∧ 2 ^ (b - 1) ≤ x ∧ x < 2 ^ b) ∨ (b = 15 ∧ 2 ^ 14 ≤ x)

theorem binOf_inBin (x : Nat) : InBin (binOf x) x := by
  unfold binOf InBin
  rcases h : (List.range 15).find? fun b => decide (x < 2 ^ b) with _ | b
  · have h14 := List.find?_eq_none.1 h 14 (by decide)
    exact .inr (.inr ⟨rfl, by simpa using h14⟩)
  · obtain ⟨hx, hb, hl⟩ := List.find?_range_eq_some.1 h
    simp only [decide_eq_true_eq, List.mem_range] at hx hb
    rcases Nat.eq_zero_or_pos b with rfl | hp
    · exact .inl ⟨rfl, by simpa using hx⟩
    · exact .inr (.inl ⟨hp, hb, by simpa using hl (b - 1) (by omega), hx⟩)

/-- Bins hold apart: a value that a lower bin holds lies below what a higher one does. -/
theorem InBin.lt_of_lt {a b x y : Nat} (ha : InBin a x) (hb : InBin b y) (h : a < b) : x < y := by
  have hx : x < 2 ^ a := by
    rcases ha with ⟨rfl, rfl⟩ | ⟨-, -, -, hx⟩ | ⟨rfl, -⟩
    · decide
    · exact hx
    · rcases hb with ⟨rfl, -⟩ | ⟨-, hb, -⟩ | ⟨rfl, -⟩ <;> omega
  have hy : 2 ^ a ≤ y := by
    rcases hb with ⟨rfl, -⟩ | ⟨-, -, hy, -⟩ | ⟨rfl, hy⟩
    · omega
    · exact (Nat.pow_le_pow_right (by decide) (by omega)).trans hy
    · exact (Nat.pow_le_pow_right (by decide) (by omega)).trans hy
  omega

theorem inBin_iff (b x : Nat) : InBin b x ↔ b = binOf x := by
  refine ⟨fun h => ?_, fun h => h ▸ binOf_inBin x⟩
  rcases Nat.lt_trichotomy b (binOf x) with hl | he | hl
  · exact absurd (h.lt_of_lt (binOf_inBin x) hl) (lt_irrefl x)
  · exact he
  · exact absurd ((binOf_inBin x).lt_of_lt h hl) (lt_irrefl x)

/-- A sample taken counts in its bin (R437). -/
theorem take_sampled (c : Capture) (v : Nat) : Sampled c (c.take v) v := by
  refine ⟨rfl, rfl, rfl, fun b x hb hx => ?_⟩
  show ((((List.range 16).map fun i => if i = binOf (v / 2 ^ c.shift) then min 4095 ((c.bins[i]?).getD 0 + 1) else (c.bins[i]?).getD 0)[b]?).getD 0) = _
  rw [List.getElem?_map, List.getElem?_range hb, Option.map_some, Option.getD_some, ← hx]
  exact if_congr (inBin_iff b x).symm rfl rfl

theorem sampled_by (s : State) (d src v : Nat) : SampledBy d src v s (s.sampled d src v) := by
  intro u c hc
  have hd : ∃ x, tget s.dies d = some x ∧ tget x.capture u = some c := by
    unfold State.die at hc
    rcases h : tget s.dies d with _ | x
    · rw [h] at hc
      exact absurd hc (by simp [Die.reset])
    · rw [h] at hc
      exact ⟨x, rfl, hc⟩
  obtain ⟨x, hx, hxc⟩ := hd
  refine ⟨if c.en && c.src = src then c.take (v % 2 ^ 32) else c, ?_, fun he hs => ?_, fun h => ?_⟩
  · unfold State.die State.sampled
    simp only [tget_tmod_same, hx, Option.map_some, Option.getD_some, tget_tmap, hxc]
  · rw [if_pos (by simp [he, hs])]
    exact take_sampled _ _
  · rw [if_neg (by rcases h with h | h <;> simp [h])]

/-! The boundary of one entry. -/

/-- The end of a block's and a launch's waiting touches blocks and launches alone. -/
theorem noteBusy_rest (s : State) (b : Nat) :
    noteBusy s b = { s with blocks := (noteBusy s b).blocks, launches := (noteBusy s b).launches } := by
  unfold noteBusy
  split
  · rfl
  · dsimp only
    split_ifs
    · split
      · rfl
      · split_ifs <;> rfl
    · split
      · rfl
      · split_ifs <;> rfl

theorem settle_lit_rest {s : State} {k : Nat} {w : Wave} (h : s.wave k = some w) (hl : w.lit = true) (hv : w.victim = false) :
    settle s k = { s with blocks := (settle s k).blocks, launches := (settle s k).launches } := by
  have hs : settle s k = s ∨ settle s k = noteBusy s w.block := by
    unfold settle
    simp only [h, hl, hv, Bool.not_true, Bool.false_eq_true, if_false]
    split_ifs
    · exact .inl rfl
    · exact .inr rfl
  rcases hs with hs | hs
  · rw [hs]
  · rw [hs, ← noteBusy_rest]

/-- STRAND takes no lumens (R60). -/
theorem priceOf_strand (f : FmtC) : priceOf (.strand f) = 0 := by
  unfold priceOf
  exact ite_self 0

/-- The wave at its next strand, once its queue has been performed (R175, R176). -/
def Wave.pastBoundary (w : Wave) : Wave := { ({ w with residual := [] } : Wave).afterBoundary with be := none }

section
variable {s s1 : State} {k : Nat} {w w1 : Wave} {e : QEntry}

/-- A residual queue of one entry that is performed (R175). -/
theorem drain_one (hw : s.wave k = some w) (hq : w.residual = [e]) (hr : s.blockRuns w.block = true) (ha : absentOf w e.dsts = [])
    (hp : performOp { s with free := s.free + 1 } k w e = .done s1) (h1 : s1.wave k = some w1) (hq1 : w1.residual = [e]) (fuel : Nat) :
    drain k (fuel + 2) s = .finished (s1.setWave k { w1 with residual := [] }) := by
  have hw' : State.wave { s with free := s.free + 1 } k = some w := hw
  have hr' : State.blockRuns { s with free := s.free + 1 } w.block = true := hr
  have ho : overtaken { s with free := s.free + 1 } k w e = none := by simp [overtaken, hq]
  rw [drain]
  simp only [hw, hq, hr', ha, fillAll, hw', Option.getD_some, hp, ho, Bool.not_true, Bool.false_eq_true, if_false, modWave_eq_setWave h1]
  rw [drain]
  simp only [setWave_wave_same, hq1, List.drop_succ_cons, List.drop_nil]

/-- The end of a boundary whose queue has been performed, of a STRAND, which has no effect of its own (R175). -/
theorem finishBoundary_drained {t : State} {v : Wave} {f : FmtC} {pc : DWord} (hw : s.wave k = some w)
    (hd : drain k (w.residual.length + 1) (s.setWave k { w with wait := .none }) = .finished t) (hv : t.wave k = some v)
    (hr : t.blockRuns v.block = true) (hb : v.be = some (.strand f, pc)) (fuel : Nat) :
    finishBoundary k (fuel + 1) s = t.setWave k { v.afterBoundary with be := none } := by
  rw [finishBoundary, hw]
  dsimp only
  rw [hd]
  dsimp only
  rw [hv]
  dsimp only
  rw [hr, hb]
  dsimp only [ownEffect]
  rw [if_neg (by decide), setWave_wave_same]
  dsimp only
  rw [if_neg (by simp)]

/-- A boundary with one queued entry that is performed in the state that steps 1 and 2 leave (R175). -/
theorem finishBoundary_one {f : FmtC} {pc : DWord} (hw : s.wave k = some w) (hset : s.setWave k { w with wait := .none } = s)
    (hq : w.residual = [e]) (hr : s.blockRuns w.block = true) (ha : absentOf w e.dsts = [])
    (hp : performOp { s with free := s.free + 1 } k w e = .done s1) (h1 : s1.wave k = some w1) (hq1 : w1.residual = [e])
    (hb1 : w1.be = some (.strand f, pc)) (hr1 : s1.blockRuns w1.block = true) (fuel : Nat) :
    finishBoundary k (fuel + 1) s = s1.setWave k w1.pastBoundary := by
  have hd : drain k (w.residual.length + 1) (s.setWave k { w with wait := .none }) =
      .finished (s1.setWave k { w1 with residual := [] }) := by
    rw [hset, hq]
    exact drain_one hw hq hr ha hp h1 hq1 0
  have hr2 : (s1.setWave k { w1 with residual := [] }).blockRuns w1.block = true := hr1
  rw [finishBoundary_drained hw hd (setWave_wave_same _ _ _) hr2 hb1 fuel, setWave_setWave]
  rfl

/-- A STRAND whose one queued entry is performed: what the performance leaves, with the wave at its next strand (R175, R179). -/
theorem exec_strand_one {f : FmtC} {w0 : Wave} (h : Ready (.strand f) k w s) (hwait : w.wait = .none) (hq : w.queue = [e])
    (ha : absentOf w e.dsts = [])
    (hw0 : w0 = { w.newHead f.imm (w.st.pc + 12) with residual := [e], queue := [], be := some (.strand f, w.st.pc), parity := 0 })
    (hp : performOp { s.setWave k w0 with free := s.free + 1 } k w0 e = .done s1) (h1 : s1.wave k = some w1)
    (hq1 : w1.residual = [e]) (hb1 : w1.be = some (.strand f, w.st.pc)) (hr1 : s1.blockRuns w1.block = true) :
    exec (.strand f) s = .next ((settle (s1.setWave k w1.pastBoundary) k).sampled (dieOfCore w.core) 5 1) := by
  have hn : ({ w0 with wait := .none } : Wave) = w0 := by
    have : w0.wait = .none := by rw [hw0]; exact hwait
    rw [← this]
  have hqw : ({ w.newHead f.imm (w.st.pc + 12) with residual := w.queue, queue := [], be := some (.strand f, w.st.pc), parity := 0 } : Wave) = w0 := by
    rw [hq, hw0]
  have hset : (s.setWave k w0).setWave k { w0 with wait := .none } = s.setWave k w0 := by rw [hn, setWave_setWave]
  have hq0 : w0.residual = [e] := by rw [hw0]
  have hr0 : (s.setWave k w0).blockRuns w0.block = true := by rw [hw0]; exact h.runs
  have ha0 : absentOf w0 e.dsts = [] := by rw [hw0]; exact ha
  have hf := finishBoundary_one (f := f) (setWave_wave_same s k w0) hset hq0 hr0 ha0 hp h1 hq1 hb1 hr1 2
  show issueB (.strand f) (some f.imm) (fun _ _ _ => none) s = _
  rw [issueB_ready h, priceOf_strand, takeLumens_zero]
  dsimp only [boundary, Option.getD_some, afterEnd]
  rw [hqw, hf, hq]
  rfl

end

theorem strand_performs (f : FmtC) (k : Nat) (w w0 w1 : Wave) (s s0 s1 : State) (e : QEntry) (h : Ready (.strand f) k w s)
    (hwait : w.wait = .none) (hq : w.queue = [e]) (ha : absentOf w e.dsts = [])
    (hw0 : w0 = { w.newHead f.imm (w.st.pc + 12) with residual := [e], queue := [], be := some (.strand f, w.st.pc), parity := 0 })
    (hs0 : s0 = { s.setWave k w0 with free := s.free + 1 }) (hp : performOp s0 k w0 e = .done s1) (h1 : s1.wave k = some w1)
    (hw1 : w1 = { w1 with residual := [e], wait := .none, be := some (.strand f, w.st.pc), lit := true, victim := false })
    (hr1 : s1.blockRuns w1.block = true) :
    ∃ t w', exec (.strand f) s = .next t ∧ t.wave k = some w' ∧ t.mem = s1.mem ∧ t.outbox = s1.outbox ∧ t.ctxs = s1.ctxs ∧
      t.vigils = s1.vigils ∧ t.wakes = s1.wakes ∧ t.tiles = s1.tiles ∧ t.engops = s1.engops ∧ t.seals = s1.seals ∧
      (∀ j, j ≠ k → t.wave j = s1.wave j) ∧ w'.st = w1.st ∧ w'.head = w1.head ∧ w'.queue = [] ∧ w'.residual = [] ∧ w'.be = none ∧
      w'.wick = [] ∧ w'.far = w1.far ∧ w'.bank = w1.bank ∧ SampledBy (dieOfCore w.core) 5 1 s1 t := by
  have hl : w1.pastBoundary.lit = true := by rw [hw1]; rfl
  have hv : w1.pastBoundary.victim = false := by rw [hw1]; rfl
  have hx := exec_strand_one h hwait hq ha hw0 (hs0 ▸ hp) h1 (by rw [hw1]) (by rw [hw1]) hr1
  have hset := settle_lit_rest (setWave_wave_same s1 k w1.pastBoundary) hl hv
  refine ⟨_, w1.pastBoundary, hx, ?_⟩
  generalize settle (s1.setWave k w1.pastBoundary) k = u at hset
  have hwv (j : Nat) : u.wave j = (s1.setWave k w1.pastBoundary).wave j := by rw [hset]; rfl
  have hd : u.dies = s1.dies := by rw [hset]; rfl
  have hsmp : SampledBy (dieOfCore w.core) 5 1 s1 (u.sampled (dieOfCore w.core) 5 1) := fun n c hc =>
    sampled_by u (dieOfCore w.core) 5 1 n c (by unfold State.die at hc ⊢; rwa [hd])
  refine ⟨(hwv k).trans (setWave_wave_same _ _ _), ?_, ?_, ?_, ?_, ?_, ?_, ?_, ?_, fun j hj => (hwv j).trans (setWave_wave_ne _ _ _ _ hj),
    rfl, rfl, rfl, rfl, rfl, rfl, rfl, rfl, hsmp⟩
  all_goals exact (by rw [hset]; rfl)

end Sys2Proof.Machine
end

section
/-! OBLIGATION. A boundary performs its queued entry (R175, R179). -/
namespace Sys2Proof.Machine

/-- Where every vigil is a queue entry, those of a word whose condition holds. -/
theorem dueAt_all_queue {t : State} {vs : Tab Vigil} (h : ∀ x ∈ tvals vs, x.kind = .queue) (pa : Nat) :
    ((tvals vs).filter fun x => x.loc = .mem pa && x.holds t) = dueAt t vs pa :=
  List.filter_congr fun x hx => by simp [h x hx]

/-- Settles O35: each entry by the lemma of its kind; the STRAND by `exec_strand_one`, which runs the boundary over its one entry. -/
theorem strandPerformsEntry : Obligations.StrandPerformsEntry := by
  unfold Obligations.StrandPerformsEntry
  refine ⟨fun f k w w0 w1 s s0 s1 e h _ hwait hq ha hw0 hs0 hp h1 hw1 hr1 =>
      strand_performs f k w w0 w1 s s0 s1 e h hwait hq ha hw0 hs0 hp h1 hw1 hr1,
    tst_performs, tfree_performs, layset_performs, seal_performs, ?barriers, ?wake,
    fun s k w kind scope _ hq => fence_performs s k w kind scope hq, ?wakeq, dtok_performs,
    fun s k n va w e bs p he hlen hc hm hv hx hp ho hu hl hr => stl_performs k n va e bs p he hlen hc hm hv hx hp ho hu hl hr⟩
  case barriers =>
    intro s k w ref o pa b hr hc hm hw hb
    subst hb
    exact ⟨fun reload => binit_performs hr hc.sent hm reload,
      fun e bytes scope dst pr he hd hq => arv_performs hr hc hm hw he hd hq bytes scope dst pr⟩
  case wake =>
    intro s k w va n scope p hp hc hq
    obtain ⟨t, l, hd, hm, hw, hl, hr⟩ := wake_performs k va n scope p hp hc hq
    refine ⟨t, l, hd, hm, hw, hl, fun due hdue => ?_⟩
    subst hdue
    exact ⟨hr.count, hr.wakes, hr.first⟩
  case wakeq =>
    intro s k w va n scope len v w64 p hlen hc hm _ hq hk hp _ hu hl _
    obtain ⟨t, l, hd, hst, hw, hl', hr⟩ := wakeq_performs k va n scope len v w64 p hlen hc hm hq hk hp hu hl
    refine ⟨t, l, hd, hst, hw, hl', fun due hdue => ?_⟩
    rw [dueAt_all_queue hk] at hdue
    subst hdue
    exact ⟨hr.count, hr.wakes, hr.first⟩

end Sys2Proof.Machine
end

section
/-! SUPPORT. A boundary that waits is looked at again (R150, R182), and O48. -/
namespace Sys2Proof.Machine

theorem exec_strandBoundaryResume (k : Nat) (s : State) : exec (.strandBoundaryResume k) s = .next (resumeRun s k) := rfl

/-- A wave that does not wait in its boundary, or whose block does not run, is not looked at. -/
theorem resumeRun_idle {s : State} {k : Nat}
    (h : s.wave k = none ∨ ∃ w, s.wave k = some w ∧ (boundaryWaits w = false ∨ s.blockRuns w.block = false)) : resumeRun s k = s := by
  unfold resumeRun
  rcases h with h | ⟨w, h, hw | hb⟩
  · rw [h]
  · simp [h, hw]
  · simp [h, hb]

section
variable {s s1 : State} {k : Nat} {w w1 : Wave} {e : QEntry} {stage : Option Nat} {why : Wait}

/-- A residual queue of one entry that has to wait on (R150). -/
theorem drain_waits (hw : s.wave k = some w) (hq : w.residual = [e]) (hr : s.blockRuns w.block = true) (ha : absentOf w e.dsts = [])
    (hp : performOp { s with free := s.free + 1 } k w e = .wait s1 stage why) (fuel : Nat) :
    drain k (fuel + 1) s = .stopped (waitAt s1 k { e with stage := stage } why) := by
  have hw' : State.wave { s with free := s.free + 1 } k = some w := hw
  have hr' : State.blockRuns { s with free := s.free + 1 } w.block = true := hr
  rw [drain]
  simp only [hw, hq, hr', ha, fillAll, hw', Option.getD_some, hp, Bool.not_true, Bool.false_eq_true, if_false]

/-- The wave as an entry that waits on leaves it: dark, the entry at the head of its queue. -/
def Wave.waitsOn (w : Wave) (e : QEntry) (why : Wait) : Wave := { w.darken with residual := e :: w.residual.drop 1, wait := why }

theorem waitAt_eq (h : s.wave k = some w) (e : QEntry) (why : Wait) : waitAt s k e why = s.setWave k (w.waitsOn e why) :=
  modWave_eq_setWave h _

theorem settle_waits (h : s.wave k = some w) (hw : w.wait ≠ .none) : settle s k = s := by
  unfold settle
  simp [h, hw]

/-- A wave that can be lit is lit, or joins its side's queue; only waves and sides change (R350). -/
theorem lightOrQueue_cases (h : s.wave k = some w) :
    ∃ w', (w' = { w.reload with lit := true, litAt := (s.core w.core).cycles, wait := .none } ∨ w' = { w with wait := .parked }) ∧
      (lightOrQueue s k).waves = tset s.waves k w' ∧
      lightOrQueue s k = { s with waves := (lightOrQueue s k).waves, sides := (lightOrQueue s k).sides } := by
  unfold lightOrQueue joinLighting
  simp only [h]
  split_ifs
  · exact ⟨_, .inl rfl, rfl, rfl⟩
  · exact ⟨_, .inr rfl, rfl, rfl⟩
  · exact ⟨_, .inr rfl, rfl, rfl⟩

/-- A dark wave whose boundary is over may run its next strand (R150, R350). -/
theorem settle_dark (h : s.wave k = some w) (hw : w.wait = .none) (hl : w.lit = false) (hr : s.blockRuns w.block = true) :
    settle s k = lightOrQueue (noteBusy s w.block) k := by
  unfold settle
  simp [h, hw, hl, hr]

end

/-- The end of a block's waiting leaves it running or not, as it was. -/
theorem noteBusy_blockRuns (s : State) (b j : Nat) : (noteBusy s b).blockRuns j = s.blockRuns j := by
  have h := ((onlyWave_refl s 0).noteBusy _ _ _ b).blocks j
  have hs (o : Option Block) : o.map (fun x => decide (x.status = .resident)) = (o.map Block.still).map fun x => decide (x.status = .resident) := by
    cases o <;> rfl
  unfold State.blockRuns
  rw [hs, h, ← hs]

section
variable {s s1 : State} {k : Nat} {w w1 : Wave} {e : QEntry} {f : FmtC} {pc : DWord}

/-- A wave that waits at a STRAND goes on as far as it can, and its block's waiting may end (R150, R182). -/
theorem WaitsAt.resumeRun (h : WaitsAt s k w e f pc) : ∃ u, (u = finishBoundary k 3 s ∨ u = noteBusy (finishBoundary k 3 s) w.block) ∧
    resumeRun s k = settle u k := by
  refine ⟨if pendingOf (finishBoundary k 3 s) k = pendingOf s k then finishBoundary k 3 s else noteBusy (finishBoundary k 3 s) w.block, ?_, ?_⟩
  · split_ifs
    · exact .inl rfl
    · exact .inr rfl
  · unfold Machine.resumeRun resumeBoundary
    simp only [h.wave, h.waits, h.runs, h.pending, Bool.and_self, if_true, afterEnd]

theorem WaitsAt.length (h : WaitsAt s k w e f pc) : w.residual.length = 1 := congrArg List.length h.entry

/-- An entry that has to wait on leaves its wave in the boundary, with the state that it reached. -/
theorem WaitsAt.waits_on {stage : Option Nat} {why : Wait} (h : WaitsAt s k w e f pc)
    (hp : performOp { s.setWave k { w with wait := .none } with free := s.free + 1 } k { w with wait := .none } e = .wait s1 stage why)
    (hy : why ≠ .none) (h1 : s1.wave k = some w1) :
    ∃ t, exec (.strandBoundaryResume k) s = .next t ∧ t.mem = s1.mem ∧ t.waves = tset s1.waves k (w1.waitsOn { e with stage := stage } why) := by
  have hd := drain_waits (setWave_wave_same s k { w with wait := .none }) h.entry h.runs h.granules hp 1
  have hf : finishBoundary k 3 s = s1.setWave k (w1.waitsOn { e with stage := stage } why) := by
    rw [finishBoundary, h.wave]
    dsimp only
    rw [h.length, hd, ← waitAt_eq h1]
  obtain ⟨u, hu, hr⟩ := h.resumeRun
  rw [hf] at hu
  have hu' : u.waves = tset s1.waves k (w1.waitsOn { e with stage := stage } why) ∧ u.mem = s1.mem := by
    rcases hu with rfl | rfl
    · exact ⟨rfl, rfl⟩
    · rw [noteBusy_rest]
      exact ⟨rfl, rfl⟩
  have hw : u.wave k = some (w1.waitsOn { e with stage := stage } why) := by
    unfold State.wave
    rw [hu'.1, tget_tset_same]
  refine ⟨u, ?_, hu'.2, hu'.1⟩
  rw [exec_strandBoundaryResume, hr, settle_waits hw hy]

/-- An entry that is done empties the queue; the boundary is over, and the wave is lit or queues for a slot. -/
theorem WaitsAt.gets_on (h : WaitsAt s k w e f pc)
    (hp : performOp { s.setWave k { w with wait := .none } with free := s.free + 1 } k { w with wait := .none } e = .done s1)
    (h1 : s1.wave k = some w1) (hq1 : w1.residual = [e]) (hw1 : w1.wait = .none) (hl1 : w1.lit = false) (hb1 : w1.be = w.be)
    (hr1 : s1.blockRuns w1.block = true) :
    ∃ t w' n, exec (.strandBoundaryResume k) s = .next t ∧ t.mem = s1.mem ∧ t.waves = tset s1.waves k w' ∧
      (w' = { w1.pastBoundary.reload with lit := true, litAt := n, wait := .none } ∨ w' = { w1.pastBoundary with wait := .parked }) := by
  have hd : drain k (w.residual.length + 1) (s.setWave k { w with wait := .none }) = .finished (s1.setWave k { w1 with residual := [] }) := by
    rw [h.length]
    exact drain_one (setWave_wave_same s k { w with wait := .none }) h.entry h.runs h.granules hp h1 hq1 0
  have hf : finishBoundary k 3 s = s1.setWave k w1.pastBoundary := by
    rw [finishBoundary_drained (f := f) (pc := pc) h.wave hd (setWave_wave_same _ _ _) hr1 (hb1.trans h.pending) 2, setWave_setWave]
    rfl
  obtain ⟨u, hu, hr⟩ := h.resumeRun
  rw [hf] at hu
  have hu' : u.waves = tset s1.waves k w1.pastBoundary ∧ u.mem = s1.mem ∧ u.blockRuns w1.block = true := by
    rcases hu with rfl | rfl
    · exact ⟨rfl, rfl, hr1⟩
    · refine ⟨?_, ?_, (noteBusy_blockRuns _ _ _).trans hr1⟩ <;> rw [noteBusy_rest] <;> rfl
  obtain ⟨huw, hum, hur⟩ := hu'
  have hw : u.wave k = some w1.pastBoundary := by
    unfold State.wave
    rw [huw, tget_tset_same]
  have hn : (noteBusy u w1.block).wave k = some w1.pastBoundary := (noteBusy_wave _ _ _).trans hw
  obtain ⟨w', hw', hwaves, hrest⟩ := lightOrQueue_cases hn
  refine ⟨lightOrQueue (noteBusy u w1.block) k, w', _, ?_, ?_, ?_, hw'⟩
  · rw [exec_strandBoundaryResume, hr, settle_dark hw hw1 hl1 hur]
    rfl
  · rw [hrest, noteBusy_rest]
    exact hum
  · rw [hwaves, noteBusy_rest]
    show tset u.waves k w' = _
    rw [huw, tset_tset]

end

/-- Settles O48: an entry that waits on by `WaitsAt.waits_on`, one that is done by `WaitsAt.gets_on`. -/
theorem boundaryResumes : Obligations.BoundaryResumes := by
  unfold Obligations.BoundaryResumes
  refine fun k s => ⟨fun h => congrArg _ (resumeRun_idle h), ?_⟩
  rintro w e f pc w0 s0 h rfl rfl
  refine ⟨fun s1 w1 stage why hp hy h1 => ?_, fun s1 w1 hp h1 hq1 hw1 hl1 hb1 hr1 => ?_⟩
  · obtain ⟨t, he, hm, hw⟩ := h.waits_on hp hy h1
    exact ⟨t, _, he, (congrArg (tget · k) hw).trans (tget_tset_same _ _ _), hm, rfl, rfl, rfl, rfl, rfl,
      fun j hj => (congrArg (tget · j) hw).trans (tget_tset_ne _ _ _ _ hj)⟩
  · obtain ⟨t, w', n, he, hm, hw, hw'⟩ := h.gets_on hp h1 hq1 hw1 hl1 hb1 hr1
    refine ⟨t, w', he, (congrArg (tget · k) hw).trans (tget_tset_same _ _ _), hm, ?_⟩
    have ho : ∀ j, j ≠ k → t.wave j = s1.wave j := fun j hj => (congrArg (tget · j) hw).trans (tget_tset_ne _ _ _ _ hj)
    rcases hw' with rfl | rfl
    · exact ⟨rfl, rfl, .inl rfl, rfl, rfl, rfl, ho⟩
    · exact ⟨rfl, rfl, .inr rfl, rfl, rfl, rfl, ho⟩

end Sys2Proof.Machine
end

section
/-! SUPPORT. Spawn bins: how a thread finds its bin, and how a bin becomes a wave (R162, R163, R356, R358). -/
namespace Sys2Proof.Machine

/-- The key of a bin: its block and its entry (R163). -/
def ofKey (block entry : Nat) (e : Nat × Bin) : Bool := e.2.block = block && e.2.entry = entry

/-- No bin of a core takes a thread of a key: its bin is full or refused, or it has none and every number is taken (R163, R358). -/
def NoPlace (bins : Tab Bin) (block entry : Nat) : Prop :=
  (bins.find? (ofKey block entry) = none ∧ ∀ n, n < 8 → (tget bins n).isSome = true) ∨
  ∃ e, bins.find? (ofKey block entry) = some e ∧ (e.2.refused.isSome = true ∨ e.2.threads.length ≥ 32)

/-- What bins that become waves leave as it was: memory, the engine operations, and every wave. -/
structure Grown (s t : State) : Prop where
  mem : t.mem = s.mem
  engops : t.engops = s.engops
  waves : ∀ k w, s.wave k = some w → t.wave k = some w

theorem Grown.refl (s : State) : Grown s s := ⟨rfl, rfl, fun _ _ h => h⟩

theorem Grown.trans {s t u : State} (h : Grown s t) (g : Grown t u) : Grown s u :=
  ⟨g.mem.trans h.mem, g.engops.trans h.engops, fun k w hk => g.waves k w (h.waves k w hk)⟩

theorem setCore_grown (s : State) (c : Nat) (x : Core) : Grown s (s.setCore c x) := ⟨rfl, rfl, fun _ _ h => h⟩

theorem core_setCore_same (s : State) (c : Nat) (x : Core) : (s.setCore c x).core c = x := by rw [core_setCore, if_pos rfl]

/-- A bin that could not become a wave keeps its threads (R163). -/
def refuse (s : State) (c idx : Nat) (b : Bin) : State :=
  s.setCore c { s.core c with
    bins := tset (s.core c).bins idx { b with refused := some (b.refused.getD (s.core c).refusals) }, refusals := (s.core c).refusals + 1 }

/-- A refused bin still holds its threads. -/
theorem refuse_bin (s : State) (c idx : Nat) (b : Bin) :
    ∃ b', tget ((refuse s c idx b).core c).bins idx = some b' ∧ b'.refused.isSome = true ∧ b'.threads = b.threads := by
  refine ⟨{ b with refused := some (b.refused.getD (s.core c).refusals) }, ?_, rfl, rfl⟩
  unfold refuse
  rw [core_setCore_same, tget_tset_same]

/-- A wave formed from a bin: it stands at the bin's entry on the bin's core, one live thread for each of the bin's (R162, R356). -/
structure FromBin (c : Nat) (b : Bin) (w : Wave) : Prop where
  bin : w.isBin = true
  block : w.block = b.block
  pc : w.st.pc = BitVec.ofNat 64 b.entry
  core : w.core = c
  live : w.st.live = maskOf fun n => n < b.threads.length

section
variable {s : State} {c idx : Nat} {b : Bin}

theorem formBin_none (h : tget (s.core c).bins idx = none) : formBin s c idx = s := by
  unfold formBin
  simp only [h]

/-- The launch of a bin's block. -/
def binLaunch (s : State) (b : Bin) : Option Launch := (tget s.blocks b.block).bind fun y => tget s.launches y.launch

/-- The far registers of a bin's entry (R161). -/
def binFar (s : State) (b : Bin) : Nat := 16 * (((binLaunch s b).bind fun l => l.handlerGranules b.entry).getD 1)

/-- The wave that a bin is to become, dark (R162, R356). -/
def binWave (s : State) (c idx : Nat) (b : Bin) : Wave :=
  { newWave s (((tget s.blocks b.block).map Block.ctx).getD 0) b.block (4 * c + (s.fv (fkey 14 idx)).toNat % 4) 0 true
      (maskOf fun t => t < b.threads.length) b.entry (binFar s b) (((binLaunch s b).map Launch.seed).getD 0) with
    born := (b.threads.zipIdx).map fun e => (e.2, e.1.born)
    far := (List.range 12).map fun r => (r, (List.range 32).map fun t => (b.threads[t]?).bind fun th => th.regs[r]?) }

/-- The bin gone, its wave entered under a fresh key. -/
def enterBin (s : State) (c idx : Nat) (b : Bin) : State :=
  { (s.setCore c { s.core c with bins := terase (s.core c).bins idx }).setWave (tfresh s.waves) (binWave s c idx b) with
    admissions := s.admissions + 1 }

theorem formBin_some (h : tget (s.core c).bins idx = some b) : formBin s c idx =
    if !hasRoom s c 1 (binFar s b) then refuse s c idx b
    else noteBusy (lightOrQueue (enterBin s c idx b) (tfresh s.waves)) b.block := by
  unfold formBin
  simp only [h]
  rfl

theorem binWave_fromBin (s : State) (c idx : Nat) (b : Bin) : FromBin c b (binWave s c idx b) :=
  ⟨rfl, rfl, rfl, by show (4 * c + _ % 4) / 4 = c; omega, rfl⟩

/-- A bin becomes a wave under a fresh key, or is refused. -/
theorem formBin_cases (h : tget (s.core c).bins idx = some b) : formBin s c idx = refuse s c idx b ∨
    (∃ w, FromBin c b w ∧ (formBin s c idx).waves = tset s.waves (tfresh s.waves) w) ∧ (formBin s c idx).mem = s.mem ∧
      (formBin s c idx).engops = s.engops := by
  rw [formBin_some h]
  split_ifs
  · exact .inl rfl
  · obtain ⟨w, hw, hwaves, hrest⟩ := lightOrQueue_cases (s := enterBin s c idx b) (setWave_wave_same _ _ _)
    have hset : (lightOrQueue (enterBin s c idx b) (tfresh s.waves)).waves = tset s.waves (tfresh s.waves) w :=
      hwaves.trans (tset_tset _ _ _ _)
    have hfrom : FromBin c b w := by
      obtain ⟨h1, h2, h3, h4, h5⟩ := binWave_fromBin s c idx b
      rcases hw with rfl | rfl <;> exact ⟨h1, h2, h3, h4, h5⟩
    rw [noteBusy_rest, hrest]
    exact .inr ⟨⟨w, hfrom, hset⟩, rfl, rfl⟩

theorem tset_fresh_old {α : Type} (t : Tab α) (v : α) {k : Nat} {u : α} (h : tget t k = some u) : tget (tset t (tfresh t) v) k = some u := by
  have hk : k ≠ tfresh t := fun hk => by
    rw [hk, tget_tfresh] at h
    cases h
  rw [tget_tset_ne _ _ _ _ hk, h]

end

theorem formBin_grown (s : State) (c idx : Nat) : Grown s (formBin s c idx) := by
  cases h : tget (s.core c).bins idx with
  | none => rw [formBin_none h]; exact .refl s
  | some b =>
    rcases formBin_cases h with hf | ⟨⟨w, -, hw⟩, hm, he⟩
    · rw [hf]; exact setCore_grown _ _ _
    · refine ⟨hm, he, fun k v hk => ?_⟩
      unfold State.wave
      rw [hw]
      exact tset_fresh_old _ _ hk

theorem retryBins_grown (s : State) (c : Nat) : Grown s (retryBins s c) :=
  foldl_keeps (Grown s) _ _ (fun _ _ _ h => h.trans (formBin_grown _ _ _)) s (.refl s)

/-! A thread and its bin. -/

section
variable {s : State} {c block entry : Nat} {th : BinThread}

/-- A thread added to a bin; a bin of 32 threads becomes a wave (R163). -/
def addThread (s : State) (c idx : Nat) (b : Bin) (th : BinThread) : State :=
  let s1 := s.setCore c { s.core c with bins := tset (s.core c).bins idx { b with threads := b.threads ++ [th] } }
  if b.threads.length + 1 = 32 then formBin s1 c idx else s1

/-- A bin as a thread opens it (R163, R359). -/
def openedBin (s : State) (c block entry : Nat) : Bin :=
  ⟨block, entry, [], (s.core c).cycles, if ((tget s.blocks block).map Block.binTimer).getD 0 = 0 then 512
    else ((tget s.blocks block).map Block.binTimer).getD 0, false, none⟩

theorem placeThread_found {n : Nat} {b : Bin} (h : (s.core c).bins.find? (ofKey block entry) = some (n, b)) (hr : b.refused = none)
    (hl : b.threads.length < 32) : placeThread s c block entry th = some (addThread s c n b th) := by
  unfold ofKey at h
  unfold placeThread
  simp only [h]
  exact if_neg (by simp [hr, Nat.not_le.2 hl])

theorem placeThread_opens {n : Nat} (h : (s.core c).bins.find? (ofKey block entry) = none)
    (hn : (List.range 8).find? (fun i => (tget (s.core c).bins i).isNone) = some n) :
    placeThread s c block entry th = some (addThread s c n (openedBin s c block entry) th) := by
  unfold ofKey at h
  unfold placeThread
  simp only [h, hn]
  rfl

theorem placeThread_none (h : NoPlace (s.core c).bins block entry) : placeThread s c block entry th = none := by
  unfold NoPlace ofKey at h
  unfold placeThread
  rcases h with ⟨h, hn⟩ | ⟨e, h, hb⟩
  · have hf : (List.range 8).find? (fun i => (tget (s.core c).bins i).isNone) = none :=
      List.find?_eq_none.2 fun i hi => by simp [Option.isSome_iff_ne_none.1 (hn i (List.mem_range.1 hi))]
    simp only [h, hf]
  · simp only [h]
    exact if_pos (by simpa using hb)

theorem addThread_grown (s : State) (c idx : Nat) (b : Bin) (th : BinThread) : Grown s (addThread s c idx b th) := by
  unfold addThread
  dsimp only
  split_ifs
  · exact (setCore_grown _ _ _).trans (formBin_grown _ _ _)
  · exact setCore_grown _ _ _

/-- A thread that finds a place is added to a bin. -/
theorem placeThread_eq_addThread {t : State} (h : placeThread s c block entry th = some t) : ∃ n b, t = addThread s c n b th := by
  cases hf : (s.core c).bins.find? (ofKey block entry) with
  | some e =>
    by_cases hb : e.2.refused.isSome = true ∨ e.2.threads.length ≥ 32
    · rw [placeThread_none (.inr ⟨e, hf, hb⟩)] at h
      cases h
    · obtain ⟨hr, hl⟩ := not_or.1 hb
      rw [placeThread_found (n := e.1) (b := e.2) hf (by simpa using hr) (by omega)] at h
      exact ⟨_, _, (Option.some.inj h).symm⟩
  | none =>
    cases hn : (List.range 8).find? (fun i => (tget (s.core c).bins i).isNone) with
    | some n =>
      rw [placeThread_opens hf hn] at h
      exact ⟨_, _, (Option.some.inj h).symm⟩
    | none =>
      have hall : ∀ n, n < 8 → (tget (s.core c).bins n).isSome = true := fun n hi =>
        by
        simpa [Option.isSome_iff_ne_none] using List.find?_eq_none.1 hn n (List.mem_range.2 hi)
      rw [placeThread_none (.inl ⟨hf, hall⟩)] at h
      cases h

theorem placeThread_grown {t : State} (h : placeThread s c block entry th = some t) : Grown s t := by
  obtain ⟨n, b, rfl⟩ := placeThread_eq_addThread h
  exact addThread_grown _ _ _ _ _

/-- A bin that is not full with the thread keeps waiting, and nothing else changes. -/
theorem addThread_waits {n : Nat} {b : Bin} (hl : b.threads.length < 31) (th : BinThread) : addThread s c n b th =
    s.setCore c { s.core c with bins := tset (s.core c).bins n { b with threads := b.threads ++ [th] } } :=
  if_neg (by omega)

end

/-- A bin changed in its place is still the first of its key. -/
theorem find?_tset {α : Type} {t : Tab α} {n : Nat} {v u : α} {p : Nat × α → Bool} (h : t.find? p = some (n, v)) (hn : tget t n = some v)
    (hu : p (n, u) = true) : (tset t n u).find? p = some (n, u) := by
  induction t with
  | nil => cases h
  | cons e t ih =>
    obtain ⟨x, y⟩ := e
    by_cases hx : x = n
    · subst hx
      rw [show tset ((x, y) :: t) x u = (x, u) :: t by simp [tset]]
      exact List.find?_cons_of_pos hu
    · have hlt : ¬ n < x := fun hlt => by simp [tget, hx, hlt] at hn
      have hp : ¬ p (x, y) = true := fun hp => by
        rw [List.find?_cons_of_pos hp] at h
        cases h
        exact hx rfl
      rw [show tset ((x, y) :: t) n u = (x, y) :: tset t n u by simp [tset, hlt, Ne.symm hx]]
      rw [List.find?_cons_of_neg hp] at h ⊢
      exact ih h (by simpa [tget, hx, hlt] using hn)


/-! BULK_PIECE_RETURN and BIN_TIMER_EXPIRY. -/

theorem exec_bulkPieceReturn (id i : Nat) (s : State) : exec (.bulkPieceReturn id i) s = .next (pieceRun s id i) := rfl

theorem exec_binTimerExpiry (c i : Nat) (s : State) : exec (.binTimerExpiry c i) s = .next (binRun s c i) := rfl

section
variable {s s1 : State} {id i c : Nat} {o : EngOp} {bs : List Byte} {entry : Nat} {th : BinThread}

/-- A piece that was read, of an operation that is not suspended. -/
theorem pieceRun_read (ho : tget s.engops id = some o) (hi : tget o.items i = some (.read bs)) (hs : o.suspended = false)
    (hp : pieceThread o id i bs = some (entry, th)) : pieceRun s id i =
      ((placeThread s o.core o.block entry th).map fun s1 => s1.modOp id fun o => { o with items := tset o.items i .gone }).getD s := by
  unfold pieceRun
  simp only [ho, hi, hs, hp, Bool.false_eq_true, if_false]
  cases placeThread s o.core o.block entry th <;> rfl

theorem modOp_engops {s : State} (h : tget s.engops id = some o) (f : EngOp → EngOp) : tget (s.modOp id f).engops id = some (f o) := by
  simp [State.modOp, h]

/-- The piece is gone from its operation once it is a thread of a bin; apart from that the state is the one with the thread placed. -/
theorem pieceRun_placed (ho : tget s.engops id = some o) (hi : tget o.items i = some (.read bs)) (hs : o.suspended = false)
    (hp : pieceThread o id i bs = some (entry, th)) (h : placeThread s o.core o.block entry th = some s1) :
    (pieceRun s id i).mem = s.mem ∧ tget (pieceRun s id i).engops id = some { o with items := tset o.items i .gone } ∧
      (pieceRun s id i).waves = s1.waves ∧ (pieceRun s id i).cores = s1.cores := by
  have hg := placeThread_grown h
  rw [pieceRun_read ho hi hs hp, h]
  refine ⟨hg.mem, modOp_engops (hg.engops ▸ ho) _, rfl, rfl⟩

/-- With no operation of the number, a return concerns the closing tapers alone. -/
theorem pieceRun_closing (h : tget s.engops id = none) (i : Nat) : pieceRun s id i = closingReturn s id := by
  unfold pieceRun
  rw [h]

theorem closingReturn_none (h : ∀ c ∈ s.cores, ∀ p ∈ c.2.retbuf, p.thread.born.op ≠ id) : closingReturn s id = s := by
  have hf : s.cores.find? (fun c => c.2.retbuf.any fun p => p.thread.born.op = id) = none :=
    List.find?_eq_none.2 fun c hc => by simpa using h c hc
  unfold closingReturn
  simp only [hf]

theorem closingReturn_placed {x : Core} {p : Piece} (hc : s.cores.find? (fun c => c.2.retbuf.any fun p => p.thread.born.op = id) = some (c, x))
    (hp : x.retbuf.find? (fun p => p.thread.born.op = id) = some p)
    (h : placeThread (s.setCore c { x with retbuf := x.retbuf.erase p }) c p.block p.entry p.thread = some s1) : closingReturn s id = s1 := by
  unfold closingReturn
  simp only [hc, hp, h, Option.getD_some]

end

section
variable {s : State} {c i : Nat} {b : Bin}

theorem binRun_none (h : tget (s.core c).bins i = none) : binRun s c i = s := by
  unfold binRun
  simp only [h]

theorem binRun_idle (h : tget (s.core c).bins i = some b) (hr : b.refused = none)
    (hi : b.expired = true ∨ (s.core c).cycles < b.started + b.limit) : binRun s c i = s := by
  unfold binRun
  simp only [h]
  rw [if_neg (by simp [hr]), if_pos (by simpa using hi)]

theorem binRun_refused (h : tget (s.core c).bins i = some b) (hr : b.refused.isSome = true) : binRun s c i = retryBins s c := by
  unfold binRun
  simp only [h]
  exact if_pos hr

/-- The bin's time is over. -/
def expire (s : State) (c i : Nat) (b : Bin) : State := s.setCore c { s.core c with bins := tset (s.core c).bins i { b with expired := true } }

theorem binRun_expires (h : tget (s.core c).bins i = some b) (hr : b.refused = none) (he : b.expired = false)
    (hc : (s.core c).cycles ≥ b.started + b.limit) : binRun s c i = formBin (expire s c i b) c i := by
  unfold binRun
  simp only [h]
  rw [if_neg (by simp [hr]), if_neg (by simpa [he] using hc)]
  rfl

theorem expire_bins (s : State) (c i : Nat) (b : Bin) : tget ((expire s c i b).core c).bins i = some { b with expired := true } := by
  unfold expire
  rw [core_setCore_same, tget_tset_same]

/-- A bin whose time is over is refused and keeps its threads, or becomes a wave under a fresh key. -/
theorem binRun_forms (h : tget (s.core c).bins i = some b) (hr : b.refused = none) (he : b.expired = false)
    (hc : (s.core c).cycles ≥ b.started + b.limit) :
    (∃ b', tget ((binRun s c i).core c).bins i = some b' ∧ b'.refused.isSome = true ∧ b'.threads = b.threads ∧ (binRun s c i).waves = s.waves) ∨
      ∃ k w, s.wave k = none ∧ (binRun s c i).wave k = some w ∧ FromBin c b w := by
  rw [binRun_expires h hr he hc]
  rcases formBin_cases (expire_bins s c i b) with hf | ⟨⟨w, ⟨h1, h2, h3, h4, h5⟩, hw⟩, -, -⟩
  · rw [hf]
    obtain ⟨b', hb, hr', ht⟩ := refuse_bin (expire s c i b) c i { b with expired := true }
    exact .inl ⟨b', hb, hr', ht, rfl⟩
  · refine .inr ⟨tfresh s.waves, w, tget_tfresh _, ?_, h1, h2, h3, h4, h5⟩
    unfold State.wave
    rw [hw]
    exact tget_tset_same _ _ _

theorem binRun_grown (s : State) (c i : Nat) : Grown s (binRun s c i) := by
  unfold binRun
  dsimp only
  split
  · exact .refl s
  · split_ifs
    · exact retryBins_grown s c
    · exact .refl s
    · exact (setCore_grown _ _ _).trans (formBin_grown _ _ _)

end

/-! SPAWN as it is performed (R356, R358). -/

/-- A thread as SPAWN makes it: its number and its registers (R356). -/
def spawned (w : Wave) (l : Nat × List Word) : BinThread :=
  ⟨l.2, ⟨false, false, 0, 0, 0, 0, 0, 0, [], 64 + w.wid, w.spawnSeq, [l.1, 0, 0, 0], 0⟩⟩

section
variable {s t : State} {k n : Nat} {w : Wave} {entry : DWord} {ls rest : List (Nat × List Word)} {l : Nat × List Word} {b : Bin}

theorem placeSpawned_cons (h : placeThread s w.core w.block entry.toNat (spawned w l) = some t) :
    placeSpawned s w entry (l :: rest) = placeSpawned t w entry rest := by
  unfold spawned at h
  rw [placeSpawned]
  simp only [h]

theorem placeSpawned_stops (h : placeThread s w.core w.block entry.toNat (spawned w l) = none) :
    placeSpawned s w entry (l :: rest) = (s, l :: rest) := by
  unfold spawned at h
  rw [placeSpawned]
  simp only [h]

theorem performSpawn_unlisted (h : ¬ListedEntry s w entry.toNat) : performSpawn s k w entry ls = .fault ⟨22, 1, none, none⟩ := by
  unfold performSpawn
  cases hx : tget s.blocks w.block with
  | none => rfl
  | some x =>
    cases hl : tget s.launches x.launch with
    | none =>
      simp only [Option.bind_some, hl]
      rfl
    | some la =>
      have hg : ¬(la.handlerGranules entry.toNat).isSome = true := fun hg => h ⟨x, la, hx, hl, hg⟩
      simp only [Option.bind_some, hl, hg]
      rfl

/-- A SPAWN whose threads are placed as far as they go. -/
def spawnEnd (k : Nat) (entry : DWord) : State × List (Nat × List Word) → Done
  | (t, []) => .done (t.modWave k fun w => { w with spawnSeq := w.spawnSeq + 1 })
  | (t, rest) => .requeue t (.spawn entry rest) .boundary

/-- With its entry listed and nothing sent, a SPAWN is the placing of its threads. -/
theorem performSpawn_listed (h : ListedEntry s w entry.toNat) (hs : s.sent = []) :
    performSpawn s k w entry ls = spawnEnd k entry (placeSpawned s w entry ls) := by
  obtain ⟨x, la, hx, hl, hg⟩ := h
  unfold performSpawn flushWave
  rw [flushSent_nil hs]
  simp only [hx, Option.bind_some, hl, hg]
  rfl

theorem performSpawn_done (h : ListedEntry s w entry.toNat) (hs : s.sent = []) (hw : t.wave k = some w)
    (hp : placeSpawned s w entry ls = (t, [])) : performSpawn s k w entry ls = .done (t.setWave k { w with spawnSeq := w.spawnSeq + 1 }) := by
  rw [performSpawn_listed h hs, hp, ← modWave_eq_setWave hw fun w => { w with spawnSeq := w.spawnSeq + 1 }]
  rfl

theorem performSpawn_waits (h : ListedEntry s w entry.toNat) (hs : s.sent = []) (hl : ls ≠ [])
    (hn : NoPlace (s.core w.core).bins w.block entry.toNat) : performSpawn s k w entry ls = .requeue s (.spawn entry ls) .boundary := by
  cases ls with
  | nil => exact absurd rfl hl
  | cons l ls =>
    rw [performSpawn_listed h hs, placeSpawned_stops (placeThread_none hn)]
    rfl

/-- Threads that do not fill a bin join it in their order, and nothing else changes but that bin. -/
theorem placeSpawned_joins (ls : List (Nat × List Word)) : ∀ {s : State} {b : Bin},
    (s.core w.core).bins.find? (ofKey w.block entry.toNat) = some (n, b) → tget (s.core w.core).bins n = some b → b.refused = none →
    b.threads.length + ls.length < 32 →
    ∃ t, placeSpawned s w entry ls = (t, []) ∧ t.mem = s.mem ∧ t.waves = s.waves ∧
      tget (t.core w.core).bins n = some { b with threads := b.threads ++ ls.map (spawned w) } ∧
      ∀ j, j ≠ n → tget (t.core w.core).bins j = tget (s.core w.core).bins j := by
  induction ls with
  | nil =>
    intro s b _ hb _ _
    exact ⟨s, rfl, rfl, rfl, by simpa using hb, fun _ _ => rfl⟩
  | cons l ls ih =>
    intro s b hf hb hr hl
    rw [List.length_cons] at hl
    have hkey : ofKey w.block entry.toNat (n, b) = true := List.find?_some hf
    have hp := placeThread_found (th := spawned w l) hf hr (by omega)
    rw [addThread_waits (by omega)] at hp
    rw [placeSpawned_cons hp]
    obtain ⟨t, ht, hm, hw, hn, hj⟩ := ih (b := { b with threads := b.threads ++ [spawned w l] })
      (s := s.setCore w.core { s.core w.core with bins := tset (s.core w.core).bins n { b with threads := b.threads ++ [spawned w l] } })
      (by rw [core_setCore_same]; exact find?_tset hf hb hkey) (by rw [core_setCore_same, tget_tset_same]) hr
      (by simp only [List.length_append, List.length_singleton]; omega)
    refine ⟨t, ht, hm, hw, ?_, fun j h => ?_⟩
    · rw [hn, List.append_assoc]
      rfl
    · rw [hj j h, core_setCore_same]
      exact tget_tset_ne _ _ _ _ h

/-- A bin opened for one thread. -/
def openBin (s : State) (w : Wave) (n : Nat) (entry : DWord) (l : Nat × List Word) : State :=
  s.setCore w.core { s.core w.core with
    bins := tset (s.core w.core).bins n { openedBin s w.core w.block entry.toNat with threads := [spawned w l] } }

theorem openBin_bin (s : State) (w : Wave) (n : Nat) (entry : DWord) (l : Nat × List Word) : tget ((openBin s w n entry l).core w.core).bins n =
    some { openedBin s w.core w.block entry.toNat with threads := [spawned w l] } := by
  unfold openBin
  rw [core_setCore_same, tget_tset_same]

/-- The first thread of a key opens a bin at the least free number (R163). -/
theorem placeSpawned_opens (hf : (s.core w.core).bins.find? (ofKey w.block entry.toNat) = none)
    (hn : (List.range 8).find? (fun i => (tget (s.core w.core).bins i).isNone) = some n) (l : Nat × List Word) :
    placeSpawned s w entry [l] = (openBin s w n entry l, []) := by
  have hp := placeThread_opens (th := spawned w l) hf hn
  rw [addThread_waits (show (openedBin s w.core w.block entry.toNat).threads.length < 31 from Nat.zero_lt_succ _)] at hp
  rw [placeSpawned_cons hp]
  rfl

theorem exists_freeBin {bins : Tab Bin} (h : ∃ n, n < 8 ∧ tget bins n = none) :
    ∃ n, (List.range 8).find? (fun i => (tget bins i).isNone) = some n ∧ tget bins n = none := by
  obtain ⟨m, hm, hb⟩ := h
  have hs : ((List.range 8).find? fun i => (tget bins i).isNone).isSome = true :=
    List.find?_isSome.2 ⟨m, List.mem_range.2 hm, Option.isNone_iff_eq_none.2 hb⟩
  obtain ⟨n, hn⟩ := Option.isSome_iff_exists.1 hs
  exact ⟨n, hn, by simpa using List.find?_some hn⟩

end

/-- What a piece that was read becomes (R166). -/
theorem pieceReturn_clauses {s : State} {id i : Nat} {o : EngOp} {bs : List Byte} {entry : Nat} {th : BinThread}
    (ho : tget s.engops id = some o) (hi : tget o.items i = some (.read bs)) (hs : o.suspended = false)
    (hp : pieceThread o id i bs = some (entry, th)) :
    (placeThread s o.core o.block entry th = none → exec (.bulkPieceReturn id i) s = .next s) ∧
    (NoPlace (s.core o.core).bins o.block entry → exec (.bulkPieceReturn id i) s = .next s) ∧
    (∀ s1, placeThread s o.core o.block entry th = some s1 → ∃ t, exec (.bulkPieceReturn id i) s = .next t ∧ t.mem = s.mem ∧
      tget t.engops id = some { o with items := tset o.items i .gone } ∧ t.waves = s1.waves ∧ t.cores = s1.cores) ∧
    (∀ n b, (s.core o.core).bins.find? (ofKey o.block entry) = some (n, b) → b.refused = none →
      b.threads.length < 31 → ∃ t, exec (.bulkPieceReturn id i) s = .next t ∧ t.mem = s.mem ∧ t.waves = s.waves ∧
        tget t.engops id = some { o with items := tset o.items i .gone } ∧
        tget (t.core o.core).bins n = some { b with threads := b.threads ++ [th] }) := by
  have hwait : placeThread s o.core o.block entry th = none → exec (.bulkPieceReturn id i) s = .next s := fun h => by
    rw [exec_bulkPieceReturn, pieceRun_read ho hi hs hp, h]
    rfl
  refine ⟨hwait, fun h => hwait (placeThread_none h), fun s1 h => ⟨_, exec_bulkPieceReturn _ _ _, pieceRun_placed ho hi hs hp h⟩,
    fun n b hf hr hl => ?_⟩
  have h := placeThread_found (th := th) hf hr (by omega)
  rw [addThread_waits hl] at h
  obtain ⟨hm, he, hw, hc⟩ := pieceRun_placed ho hi hs hp h
  refine ⟨_, exec_bulkPieceReturn _ _ _, hm, hw, he, ?_⟩
  unfold State.core at hc ⊢
  rw [hc]
  exact (congrArg (fun x : Core => tget x.bins n) (core_setCore_same s o.core _)).trans (tget_tset_same _ _ _)

/-- A bin and its timer (R163). -/
theorem binTimer_clauses {s : State} {c i : Nat} {b : Bin} (hb : tget (s.core c).bins i = some b) :
    (b.refused = none → b.expired = true ∨ (s.core c).cycles < b.started + b.limit → exec (.binTimerExpiry c i) s = .next s) ∧
    (b.refused.isSome = true → ∃ t, exec (.binTimerExpiry c i) s = .next t ∧ t.mem = s.mem ∧
      ∀ k w, s.wave k = some w → t.wave k = some w) ∧
    (b.refused = none → b.expired = false → (s.core c).cycles ≥ b.started + b.limit → b.threads ≠ [] →
      ∃ t, exec (.binTimerExpiry c i) s = .next t ∧ t.mem = s.mem ∧ (∀ k w, s.wave k = some w → t.wave k = some w) ∧
        ((∃ b', tget (t.core c).bins i = some b' ∧ b'.refused.isSome = true ∧ b'.threads = b.threads ∧ t.waves = s.waves) ∨
          ∃ k w, s.wave k = none ∧ t.wave k = some w ∧ w.isBin = true ∧ w.block = b.block ∧ w.st.pc = BitVec.ofNat 64 b.entry ∧
            w.core = c ∧ w.st.live = maskOf fun n => n < b.threads.length)) := by
  have hg := binRun_grown s c i
  refine ⟨fun hr hi => congrArg _ (binRun_idle hb hr hi), fun _ => ⟨_, exec_binTimerExpiry _ _ _, hg.mem, hg.waves⟩,
    fun hr he hc _ => ⟨_, exec_binTimerExpiry _ _ _, hg.mem, hg.waves, ?_⟩⟩
  rcases binRun_forms hb hr he hc with h | ⟨k, w, hk, hw, ⟨h1, h2, h3, h4, h5⟩⟩
  · exact .inl h
  · exact .inr ⟨k, w, hk, hw, h1, h2, h3, h4, h5⟩

/-- Settles O54: a thread and its bin by `placeThread_found`, `placeThread_opens` and `placeThread_none`, a bin that becomes a wave by
`formBin_cases`, the threads of a SPAWN by `placeSpawned_joins`. -/
theorem binSteps : Obligations.BinSteps := by
  unfold Obligations.BinSteps
  refine fun s => ⟨fun id i o bs entry th ho hi hs hp => pieceReturn_clauses ho hi hs hp, fun id i hn hr => ?_,
    fun id i c x p s1 hn hc hp h => ?_, fun c i hn => congrArg _ (binRun_none hn), fun c i b hb => binTimer_clauses hb, ?_⟩
  · rw [exec_bulkPieceReturn, pieceRun_closing hn, closingReturn_none hr]
  · rw [exec_bulkPieceReturn, pieceRun_closing hn, closingReturn_placed hc hp h]
  · rintro k w entry ls th e bins hw rfl rfl hth
    obtain rfl : th = spawned w := funext fun l => hth l.1 l.2
    refine ⟨performSpawn_unlisted, fun hl hs => ⟨?_, performSpawn_waits hl hs, fun n b hf hb _ hr hle => ?_, fun hf hn h1 => ?_⟩⟩
    · rintro rfl
      exact performSpawn_done hl hs hw rfl
    · obtain ⟨t, hp, hm, hws, hn, hj⟩ := placeSpawned_joins ls hf hb hr hle
      have hwt : t.wave k = some w := (congrArg (tget · k) hws).trans hw
      refine ⟨_, performSpawn_done hl hs hwt hp, hm, setWave_wave_same _ _ _, fun j h => ?_, hn, hj⟩
      exact (setWave_wave_ne _ _ _ _ h).trans (congrArg (tget · j) hws)
    · obtain ⟨l, rfl⟩ := List.length_eq_one_iff.1 h1
      obtain ⟨n, hn, hb⟩ := exists_freeBin hn
      have hwt : (openBin s w n entry l).wave k = some w := hw
      exact ⟨_, n, _, performSpawn_done hl hs hwt (placeSpawned_opens hf hn l), rfl, setWave_wave_same _ _ _,
        fun j h => setWave_wave_ne _ _ _ _ h, hb, openBin_bin s w n entry l, rfl, rfl, rfl, rfl, rfl⟩

end Sys2Proof.Machine
end

section
/-! SUPPORT. Tapers that retire, the bytes that they count, and O15 (R152, R165 to R167, R225). -/
namespace Sys2Proof.Machine

/-! Contributions applied in token order change no engine operation. -/

theorem modCtx_written (s : State) (c : Nat) (f : Ctx → Ctx) : Written s (s.modCtx c f) := ⟨rfl, id, fun _ h => h⟩

theorem Written.engops {s t : State} (h : Written s t) : t.engops = s.engops := by rw [h.rest]

/-- A contribution as its word takes it, where its page can be had. -/
theorem applyContrib_written (s : State) (c : Contrib) : Written s (applyContrib s c) := by
  have h : Written s (match xlate s .hub c.ctx c.va .atomic with
      | .error _ => s
      | .ok p => if uncorrectable s p.pa then s
        else (atomAt (useXlat s .hub c.ctx c.va p.x) c.ctx p.pa c.op c.pk c.w64 c.rnd c.v 0 (pteCmp p.pte)).1) := by
    split
    · exact .refl s
    · split_ifs
      · exact .refl s
      · exact (useXlat_touched _ _ _ _ _).written.trans (atomAt_written _ _ _ _ _ _ _ _ _ _)
  unfold applyContrib
  cases c.spilled with
  | none => exact h
  | some n => exact h.trans (modCtx_written _ _ _)

theorem applyReady_engops (b : Nat) (x : Block) (l : List Contrib) (s : State) : (applyReady s b x l).1.engops = s.engops := by
  induction l generalizing s with
  | nil => rfl
  | cons c l ih =>
    unfold applyReady
    split_ifs
    · exact (ih _).trans (applyContrib_written s c).engops
    · rfl

theorem tokenStep_engops (l fuel : Nat) (s : State) : (tokenStep l fuel s).engops = s.engops := by
  induction fuel generalizing s with
  | zero => rfl
  | succ n ih =>
    unfold tokenStep
    split
    · rfl
    · split
      · rfl
      · rename_i b x _
        have h := applyReady_engops b x (sortBy (fun p q => !keyLt q.key p.key) x.redd) s
        dsimp only
        split_ifs
        · exact (ih _).trans h
        · exact h

theorem tokenAfter_engops (s : State) (w : Wave) : (tokenAfter s w).engops = s.engops := by
  unfold tokenAfter tokenRun
  split_ifs
  · rfl
  · split
    · rfl
    · split
      · rfl
      · split_ifs
        · exact tokenStep_engops _ _ _
        · rfl

/-! The count of an operation's bytes (R152, R166). -/

/-- What a barrier's arrivals leave as it was. -/
structure Around (s t : State) : Prop where
  waves : t.waves = s.waves
  blocks : t.blocks = s.blocks
  launches : t.launches = s.launches
  engops : t.engops = s.engops

theorem Around.refl (s : State) : Around s s := ⟨rfl, rfl, rfl, rfl⟩

theorem Written.around {s t : State} (h : Written s t) : Around s t := ⟨h.waves, h.blocks, h.launches, h.engops⟩

theorem releaseHeld_rest (s : State) (key : Nat) (last : Bool) :
    ∃ hs cs ws, releaseHeld s key last = { s with helds := hs, ctxs := cs, wakes := ws } := by
  unfold releaseHeld dropHeld
  split
  · exact ⟨_, _, _, rfl⟩
  · dsimp only
    split <;> exact ⟨_, _, _, rfl⟩

section
variable {s : State} {ctx pa n : Nat}

/-- The barrier with its count come down, before what its reaching zero does. -/
def Bar.down (b : Bar) (n : Nat) : Bar := { b with bytes := (b.bytes + (2 ^ 32 - n % 2 ^ 32)) % 2 ^ 32 }

theorem Bar.Fits.down {b : Bar} (h : b.Fits) (n : Nat) : (b.down n).Fits :=
  ⟨h.phase, h.arrive, h.reload, h.wreg, Nat.mod_lt _ (by decide), h.wobs, h.rest⟩

theorem Bar.landed_of_zero {b : Bar} (ha : (b.down n).arrive = 0) (hy : (b.down n).bytes = 0) : b.landed n = (b.down n).landed 0 := by
  have hz : ((b.down n).bytes + (2 ^ 32 - 0 % 2 ^ 32)) % 2 ^ 32 = 0 := by
    rw [hy]
    rfl
  have h1 : b.landed n = { b with
      phase := (b.phase + 1) % 2 ^ 16, arrive := b.reload, bytes := 0, wobs := 0, drn := b.drn || decide (b.wreg > 0) } := if_pos ⟨ha, hy⟩
  rw [h1, Bar.landed]
  simp only [hz, ha]
  rfl

theorem Bar.landed_of_left {b : Bar} (h : ¬((b.down n).arrive = 0 ∧ (b.down n).bytes = 0)) : b.landed n = b.down n := if_neg h

/-- Bytes that land on a barrier in memory (R152, R293). -/
theorem barSubtract_mem (s : State) (ctx pa n : Nat) : barSubtract s ctx (.mem pa) n false =
    if ((barAt s (.mem pa)).down n).arrive = 0 ∧ ((barAt s (.mem pa)).down n).bytes = 0 then
      ((heldAt (barComplete s ctx (.mem pa) ((barAt s (.mem pa)).down n)) (.mem pa)).map fun e =>
        releaseHeld (barComplete s ctx (.mem pa) ((barAt s (.mem pa)).down n)) e.1 true).getD
        (barComplete s ctx (.mem pa) ((barAt s (.mem pa)).down n))
    else setBar s ctx (.mem pa) ((barAt s (.mem pa)).down n) := by
  unfold barSubtract Bar.down
  simp only [Bool.or_false, Bool.and_eq_true, decide_eq_true_eq]
  split_ifs
  · cases heldAt _ _ <;> rfl
  · rfl

theorem barSubtract_around (s : State) (ctx pa n : Nat) : Around s (barSubtract s ctx (.mem pa) n false) := by
  rw [barSubtract_mem]
  split_ifs
  · obtain ⟨h1, h2, h3, h4⟩ := (barComplete_written s ctx pa ((barAt s (.mem pa)).down n)).around
    cases heldAt (barComplete s ctx (.mem pa) ((barAt s (.mem pa)).down n)) (.mem pa) with
    | none => exact ⟨h1, h2, h3, h4⟩
    | some e =>
      obtain ⟨hs, cs, ws, hr⟩ := releaseHeld_rest (barComplete s ctx (.mem pa) ((barAt s (.mem pa)).down n)) e.1 true
      rw [Option.map_some, Option.getD_some, hr]
      exact ⟨h1, h2, h3, h4⟩
  · exact (setBar_written _ _ _ _).around

theorem barSubtract_put (hm : Memory.wf s.mem = true) (ctx pa n : Nat) :
    BarPut s (barSubtract s ctx (.mem pa) n false) pa ((barAt s (.mem pa)).landed n) := by
  have hf := (barAt_fits s (.mem pa)).down n
  rw [barSubtract_mem]
  split_ifs with hz
  · obtain ⟨ha, hy⟩ := hz
    have hp := barComplete_put hm ctx pa hf ha hy
    rw [Bar.landed_of_zero ha hy]
    cases heldAt (barComplete s ctx (.mem pa) ((barAt s (.mem pa)).down n)) (.mem pa) with
    | none => exact hp
    | some e =>
      obtain ⟨hs, cs, ws, hr⟩ := releaseHeld_rest (barComplete s ctx (.mem pa) ((barAt s (.mem pa)).down n)) e.1 true
      rw [Option.map_some, Option.getD_some, hr]
      exact hp.of_mem rfl
  · rw [Bar.landed_of_left hz]
    exact setBar_put hm ctx pa hf

end

section
variable {s u : State} {o : EngOp} {id n : Nat}

theorem countDown_none (h : o.bar = .none) (n : Nat) : countDown s o n false = (s, false) := by
  unfold countDown barPlace
  rw [h]

theorem countDown_mem {pa : Nat} (h : barPlace s (.core o.core) o.ctx o.block o.bar = .ok (some (.mem pa))) (hs : Sound s) (n : Nat) :
    countDown s o n false = (barSubtract s o.ctx (.mem pa) n false, false) := by
  have hv : vigilErr s (.mem pa) 16 = false := by simp [vigilErr, hs.1]
  unfold countDown
  simp only [h, hv, hs.uncorrectable, Bool.or_self, Bool.false_eq_true, if_false]

/-- Bytes of an operation that are not its last and that land without a fault. -/
theorem countBytes_left (ho : tget s.engops id = some o) (hn : o.counted + n ≠ o.total) (hd : countDown s o n false = (u, false)) :
    countBytes s id n false = u.modOp id fun p =>
      { p with counted := o.counted + n, failed := p.failed || false, lost := p.lost || false } := by
  unfold countBytes
  simp [ho, hn, hd]

/-- Only the operation's count has changed among the operations (R166). -/
theorem modOp_counted (ho : tget s.engops id = some o) (hu : u.engops = s.engops) (m : Nat) :
    tget (u.modOp id fun p => { p with counted := m, failed := p.failed || false, lost := p.lost || false }).engops id =
      some { o with counted := m } ∧
    ∀ j, j ≠ id → tget (u.modOp id fun p => { p with counted := m, failed := p.failed || false, lost := p.lost || false }).engops j =
      tget s.engops j := by
  refine ⟨?_, fun j hj => ?_⟩
  · rw [modOp_engops (hu ▸ ho)]
    simp
  · rw [← hu]
    exact tget_tmod_ne _ _ _ _ hj

end

/-! Threads that retire, tapers among them. -/

section
variable {s u : State} {k : Nat} {w : Wave} {x : Word}

theorem retireActive_live {l : List Born} (hl : ((threads x).filterMap fun t => tget w.born t) = l)
    (hu : l.foldl taperRetired (if l.any fun y => y.taper && !y.closing then flushWave s k else s) = u) (hw : u.wave k = some w)
    (hx : w.st.live &&& ~~~x ≠ 0) :
    retireActive s k w x = u.setWave k ({ w with st := retireThreads w.st x } : Wave).recordHead := by
  unfold retireActive
  simp only [hl, hu, hw, Wave.recordHead, retireThreads_live, if_neg hx]

/-- The machine where the boundary's own effect is due (R175). -/
def atRetire (s : State) (k : Nat) (w : Wave) : State := s.setWave k (nextStrand w w.st.svm)

/-- With the bytes of the tapers counted, and a live thread left. -/
theorem exitRun_counted {l : List Born} (hl : ((threads x).filterMap fun t => tget w.born t) = l)
    (hu : l.foldl taperRetired (if l.any fun y => y.taper && !y.closing then flushWave (atRetire s k w) k else atRetire s k w) = u)
    (hw : u.waves = (atRetire s k w).waves) (hx : w.st.live &&& ~~~x ≠ 0) :
    exitRun s k w x = settle (u.setWave k (waveRetired w x)) k := by
  have hk : u.wave k = some (nextStrand w w.st.svm) := (congrArg (tget · k) hw).trans (tget_tset_same _ _ _)
  exact congrArg (settle · k) (retireActive_live (w := nextStrand w w.st.svm) hl hu hk hx)

/-- Closing tapers count no bytes (R166). -/
theorem exitRun_closing (hc : ∀ n ∈ threads x, ∃ b, tget w.born n = some b ∧ b.taper = true ∧ b.closing = true)
    (hx : w.st.live &&& ~~~x ≠ 0) : exitRun s k w x = settle ((atRetire s k w).setWave k (waveRetired w x)) k := by
  have hb : ∀ b ∈ (threads x).filterMap fun t => tget w.born t, b.closing = true := fun b hm => by
    obtain ⟨n, hn, hnb⟩ := List.mem_filterMap.1 hm
    obtain ⟨b', hb', -, hcl⟩ := hc n hn
    rw [hnb] at hb'
    cases hb'
    exact hcl
  have ha : (((threads x).filterMap fun t => tget w.born t).any fun y => y.taper && !y.closing) = false :=
    List.any_eq_false.2 fun b hm => by simp [hb b hm]
  refine exitRun_counted rfl ?_ rfl hx
  rw [ha]
  refine foldl_keeps (· = atRetire s k w) taperRetired _ (fun t b hm ht => ?_) _ rfl
  rw [ht, taperRetired, hb b hm, Bool.or_true]
  rfl

/-- One taper that is not closing counts its bytes (R166). -/
theorem exitRun_taper {n : Nat} {b : Born} (hn : threads x = [n]) (hb : tget w.born n = some b) (ht : b.taper = true) (hc : b.closing = false)
    (hs : s.sent = []) (hu : countBytes (atRetire s k w) b.op b.blen.toNat false = u) (hw : u.waves = (atRetire s k w).waves)
    (hx : w.st.live &&& ~~~x ≠ 0) : exitRun s k w x = settle (u.setWave k (waveRetired w x)) k := by
  have hl : ((threads x).filterMap fun t => tget w.born t) = [b] := by simp [hn, hb]
  refine exitRun_counted hl ?_ hw hx
  have hf : flushWave (atRetire s k w) k = atRetire s k w := flushSent_nil (s := atRetire s k w) hs _
  rw [hf, ite_self, List.foldl_cons, List.foldl_nil, ← hu, taperRetired, ht, hc]
  rfl

end

/-! TEND and its checks (R165, R265). -/

theorem priceOf_tend (f : FmtE) : priceOf (.tend f) = 0 := by
  unfold priceOf
  exact ite_self 0

theorem tendFail_tapers {w : Wave} {h : Hdr} (ht : ∀ n ∈ threads (w.st.act h), isTaper w n = true) : tendFail w h = chainEnds w h := by
  have hf : (threads (w.st.act h)).find? (fun t => !isTaper w t) = none := List.find?_eq_none.2 fun n hn => by simp [ht n hn]
  unfold tendFail
  rw [hf]

theorem tendFail_other {w : Wave} {h : Hdr} {n : Nat} (hf : (threads (w.st.act h)).find? (fun t => !isTaper w t) = some n) :
    tendFail w h = some ⟨14, 1, some n, none⟩ := by
  unfold tendFail
  rw [hf]

section
variable {i : Instr} {f : FmtE} {h : Hdr} {k : Nat} {w : Wave} {s u : State} {x : Word}

theorem exec_tend (hr : Ready (.tend f) k w s) (hq : w.queue = []) (ht : ∀ n ∈ threads (w.st.act f.h), isTaper w n = true)
    (hc : w.st.chain = false) : exec (.tend f) s = .next (boundaryEnd w (.tend f) (exitRun s k w (w.st.act f.h))) := by
  show issueB (.tend f) none (fun _ _ w => tendFail w f.h) s = _
  rw [issueB_ready hr, priceOf_tend, takeLumens_zero]
  simp only [tendFail_tapers ht, chainEnds_none (.inl hc)]
  exact congrArg _ (boundary_empty s k w (.tend f) w.st.svm hq hr.runs rfl)

/-- TEND of any wave, EXIT of one formed from a bin. -/
def Ends (i : Instr) (h : Hdr) (w : Wave) : Prop := (∃ f, i = .tend f ∧ h = f.h) ∨ ∃ f, i = .exit f ∧ h = f.h ∧ w.isBin = true

theorem Ends.exec (hi : Ends i h w) (hr : Ready i k w s) (hq : w.queue = []) (ht : ∀ n ∈ threads (w.st.act h), isTaper w n = true)
    (hc : w.st.chain = false) : Machine.exec i s = .next (boundaryEnd w i (exitRun s k w (w.st.act h))) := by
  rcases hi with ⟨f, rfl, rfl⟩ | ⟨f, rfl, rfl, -⟩
  · exact exec_tend hr hq ht hc
  · exact exec_exit hr hq (.inl hc)

theorem Ends.boundaryEnd (hi : Ends i h w) (t : State) :
    Machine.boundaryEnd w i t = tokenAfter (t.sampled (dieOfCore w.core) 5 w.queue.length) w := by
  rcases hi with ⟨f, rfl, rfl⟩ | ⟨f, rfl, rfl, -⟩ <;> rfl

theorem isTaper_of_born {n : Nat} {b : Born} (hb : tget w.born n = some b) (ht : b.taper = true) : isTaper w n = true := by
  simp [isTaper, hb, ht]

/-- Closing tapers retire as threads do that are no tapers. -/
theorem Ends.exec_closing (hi : Ends i h w) (hr : Ready i k w s) (hq : w.queue = []) (hc : w.st.chain = false)
    (hcl : ∀ n ∈ threads (w.st.act h), ∃ b, tget w.born n = some b ∧ b.taper = true ∧ b.closing = true)
    (hl : w.st.live &&& ~~~w.st.act h ≠ 0) :
    Machine.exec i s = .next (Machine.boundaryEnd w i (settle (s.setWave k (waveRetired w (w.st.act h))) k)) := by
  have ht : ∀ n ∈ threads (w.st.act h), isTaper w n = true := fun n hn => by
    obtain ⟨b, hb, ht, -⟩ := hcl n hn
    exact isTaper_of_born hb ht
  rw [hi.exec hr hq ht hc, exitRun_closing hcl hl, atRetire, setWave_setWave]

/-- One taper that is not closing retires once its bytes are counted. -/
theorem Ends.exec_taper {n : Nat} {b : Born} (hi : Ends i h w) (hr : Ready i k w s) (hq : w.queue = []) (hc : w.st.chain = false)
    (hn : threads (w.st.act h) = [n]) (hb : tget w.born n = some b) (ht : b.taper = true) (hcl : b.closing = false) (hs : s.sent = [])
    (hu : countBytes (atRetire s k w) b.op b.blen.toNat false = u) (hw : u.waves = (atRetire s k w).waves)
    (hl : w.st.live &&& ~~~w.st.act h ≠ 0) :
    Machine.exec i s = .next (Machine.boundaryEnd w i (settle (u.setWave k (waveRetired w (w.st.act h))) k)) := by
  have htap : ∀ m ∈ threads (w.st.act h), isTaper w m = true := fun m hm => by
    rw [hn, List.mem_singleton] at hm
    exact hm ▸ isTaper_of_born hb ht
  rw [hi.exec hr hq htap hc, exitRun_taper hn hb ht hcl hs hu hw hl]

/-- Tapers alone that would end an open chain (R265). -/
theorem Ends.chain (hi : Ends i h w) (hr : Ready i k w s) (ht : ∀ n ∈ threads (w.st.act h), isTaper w n = true) (hc : w.st.chain = true)
    (hx : w.st.act h = w.st.live) : TrapsAtIssue i s k w 17 3 none none := by
  rcases hi with ⟨f, rfl, rfl⟩ | ⟨f, rfl, rfl, -⟩
  · exact traps_of_check hr ⟨17, 3, none, none⟩ (check := fun _ _ w => tendFail w f.h) rfl ((tendFail_tapers ht).trans (chainEnds_some hc hx))
  · exact traps_of_check hr ⟨17, 3, none, none⟩ rfl (chainEnds_some hc hx)

/-- The wave after its tapers have retired and with a path left: what it is, and what else the end of the instruction may change. -/
structure Retired (k : Nat) (w : Wave) (x : Word) (u t : State) : Prop where
  wave : t.wave k = some (waveRetired w x)
  others : ∀ j, j ≠ k → t.wave j = u.wave j
  engops : t.engops = u.engops
  only : Tokenless u w → OnlyWave k u t

theorem Ends.retired (hi : Ends i h w) (hlit : w.lit = true) (hv : w.victim = false) (u : State) (x : Word) :
    Retired k w x u (Machine.boundaryEnd w i (settle (u.setWave k (waveRetired w x)) k)) := by
  obtain ⟨-, -, hl, hvic⟩ := waveRetired_rest w x
  obtain ⟨hk, ho⟩ := settle_lit u _ k _ (setWave_wave_same _ _ _) (hl.trans hlit) (hvic.trans hv) (OnlyWave.set _ _ _ _ (onlyWave_refl u k))
  have ho' := ho.sampled _ _ _ (dieOfCore w.core) 5 w.queue.length
  refine ⟨(boundaryEnd_wave _ _ _ _).trans hk, fun j hj => (boundaryEnd_wave _ _ _ _).trans (ho.waves j hj), ?_, fun htok => ?_⟩
  · rw [hi.boundaryEnd, tokenAfter_engops]
    exact ho.engops
  · rwa [hi.boundaryEnd, tokenAfter_tokenless ho' htok]

/-- The path that is left goes on behind the instruction (R225). -/
theorem waveRetired_path (hx : w.st.exec &&& ~~~x ≠ 0) : (waveRetired w x).st.live = w.st.live &&& ~~~x ∧
    (waveRetired w x).st.exec = w.st.exec &&& ~~~x ∧ (waveRetired w x).st.pc = w.st.pc + 12 := by
  have hst : (waveRetired w x).st = (w.nextHead w.keptMask).without x := (waveRetired_st w x).trans (retireThreads_path hx)
  rw [hst]
  exact ⟨rfl, rfl, rfl⟩

end

/-- Settles O15: the checks at issue, then the boundary; the bytes are counted (`countBytes_left`, `barSubtract_put`) and the threads
retire (`exitRun_closing`, `exitRun_taper`, `Ends.retired`). -/
theorem tendRetires : Obligations.TendRetires := by
  unfold Obligations.TendRetires
  rintro i h k w s x (hi : Ends i h w) hr rfl
  refine ⟨?_, fun ht hc hx => hi.chain hr ht hc hx, fun hq hv _ hc hx hl => ?_⟩
  · rintro n f rfl hf
    rcases hi with ⟨g, hg, rfl⟩ | ⟨g, hg, -⟩
    · cases hg
      exact traps_of_check hr ⟨14, 1, some n, none⟩ (check := fun _ _ w => tendFail w f.h) rfl (tendFail_other hf)
    · cases hg
  obtain ⟨hlive, hexec, hpc⟩ := waveRetired_path hx
  refine ⟨fun hcl => ?_, fun n b o hn hb ht hcl ho hs htot => ⟨fun hbar => ?_, fun va pa hbar hpl hcalm hm => ?_⟩⟩
  · obtain ⟨hw, hj, -, ho⟩ := hi.retired (k := k) hr.lit hv s (w.st.act h)
    exact ⟨_, _, hi.exec_closing hr hq hc hcl hl, hw, ho, hj, waveRetired_after _ _, rfl, hlive, hexec, hpc⟩
  · have hu := countBytes_left (s := atRetire s k w) ho htot (countDown_none hbar _)
    obtain ⟨hsame, hrest⟩ := modOp_counted (u := atRetire s k w) ho rfl (o.counted + b.blen.toNat)
    have he := hi.exec_taper hr hq hc hn hb ht hcl hs hu rfl hl
    obtain ⟨hw, hj, heng, ho⟩ := hi.retired (k := k) hr.lit hv _ (w.st.act h)
    refine ⟨_, _, he, hw, waveRetired_after _ _, rfl, hlive, hexec, hpc, fun htok => (ho htok).mem, ?_, fun j h => ?_, fun j h => ?_⟩
    · rw [heng, hsame]
    · rw [heng, hrest j h]
    · exact (hj j h).trans (setWave_wave_ne _ _ _ _ h)
  · have hd := countDown_mem (s := atRetire s k w) (o := o) hpl ⟨hcalm.errs, hcalm.poison⟩ b.blen.toNat
    have hu := countBytes_left (s := atRetire s k w) ho htot hd
    obtain ⟨hwaves, hblocks, hlaunches, hengops⟩ := barSubtract_around (atRetire s k w) o.ctx pa b.blen.toNat
    obtain ⟨hreads, hothers⟩ := barSubtract_put (s := atRetire s k w) hm o.ctx pa b.blen.toNat
    obtain ⟨hsame, -⟩ := modOp_counted (s := atRetire s k w) ho hengops (o.counted + b.blen.toNat)
    have he := hi.exec_taper hr hq hc hn hb ht hcl hs hu hwaves hl
    obtain ⟨hw, hj, heng, ho⟩ := hi.retired (k := k) hr.lit hv _ (w.st.act h)
    refine ⟨_, _, he, hw, waveRetired_after _ _, hlive, hexec, hpc, fun htok => ?_, heng ▸ hsame, fun j h => ?_⟩
    · have hkept : Tokenless (barSubtract (atRetire s k w) o.ctx (.mem pa) b.blen.toNat false) w := fun y la hy hla =>
        htok y la (hblocks ▸ hy) (hlaunches ▸ hla)
      have hmem := (ho hkept).mem
      exact ⟨(barAt_mem hmem pa).trans hreads, fun a ha => (congrArg (memByte · a) hmem).trans (hothers a ha)⟩
    · exact (hj j h).trans ((congrArg (tget · j) hwaves).trans (setWave_wave_ne s _ _ _ h))

end Sys2Proof.Machine
end

section
/-! SUPPORT. Why O58 fails: a table of blocks in which one number stands twice. The clause on retiring outside a deterministic launch does not ask
that the numbers rise (`tsorted`), as the clause on deterministic launches does. -/
namespace Sys2Proof.Machine

/-- Block 0 twice, both resident and with no wave left; the context's save area lies on page 0, which may not be written (R81, R377). -/
def doubled : State := { readOnly with waves := [], blocks := [(0, placeBlock), (0, placeBlock)] }

/-- The block that reading the table finds is done, and its launch is not deterministic. -/
theorem doubled_done : tget doubled.blocks 0 = some placeBlock ∧ tget doubled.launches placeBlock.launch = some placeLaunch ∧
    blockDone doubled 0 placeBlock = true ∧ placeLaunch.det = false := by decide +kernel

/-- As it retires, its header cannot be written and its context is halted (R442); the halt finds the second entry resident, swaps block 0 out, and
strands it as the save area fails again. -/
theorem doubled_strands {t : State} (h : exec (.blockRetire 0) doubled = .next t) :
    (tget t.blocks 0).map Block.status = some .stranded := by
  have hr : (match exec (.blockRetire 0) doubled with
    | .next t => decide ((tget t.blocks 0).map Block.status = some .stranded)
    | _ => false) = true := by decide +kernel
  rw [h] at hr
  exact of_decide_eq_true hr

/-- Refutes O58: BLOCK_RETIRE of a block that is done, its number twice in the table, its save area not writable. The statement wants the block
retired; the halt that follows the failed header swaps it out once more, as the second entry is resident, and it is left stranded. -/
theorem not_blockSteps : ¬ Obligations.BlockSteps := by
  unfold Obligations.BlockSteps
  intro h
  obtain ⟨hb, hl, hd, hn⟩ := doubled_done
  obtain ⟨-, hr, -⟩ := (h doubled 0).2 placeBlock placeLaunch hb hl
  obtain ⟨t, y, he, hy, hs⟩ := hr hd hn
  have ht := doubled_strands he
  rw [hy, Option.map_some, hs] at ht
  cases ht

end Sys2Proof.Machine
end

section
/-! SUPPORT. STRAND with nothing queued, and O13 (R174 to R176, R437, R438). -/
namespace Sys2Proof.Machine

/-- At PL 1 a STRAND that names survivors does not pass its checks (R65, R362). -/
theorem strand_mask_zero {f : FmtC} {k : Nat} {w : Wave} {s : State} (h : Ready (.strand f) k w s) (hp : w.st.pl1 = true) : f.imm = 0 := by
  have hc := (lowestSub_none _).1 (illegalSub_of_checks h.checks) (2, f.offs ≠ 0 || f.sub ≠ 0 || (w.st.pl1 && f.imm ≠ 0))
    (by simp [checksOf, chkC, resv, cks])
  simp only [hp, Bool.true_and, Bool.or_eq_false_iff, decide_eq_false_iff_not, not_not] at hc
  exact hc.2

/-- A sample depends on the machine before it through its dies alone. -/
theorem SampledBy.of_dies {d src v : Nat} {s u t : State} (h : SampledBy d src v u t) (hd : u.dies = s.dies) : SampledBy d src v s t :=
  fun n c hc => h n c (by unfold State.die at hc ⊢; rwa [hd])

/-- Settles O13: the boundary is its own part alone (`boundary_empty`), STRAND has no effect of its own, and the depth that is sampled is 0. -/
theorem strandBoundary : Obligations.StrandBoundary := by
  unfold Obligations.StrandBoundary
  intro f k w s h hq hv
  obtain ⟨hafter, hst, hhead⟩ := nextStrand_after w f.imm (strand_mask_zero h)
  have hw := setWave_wave_same s k (nextStrand w f.imm)
  obtain ⟨hwave, honly⟩ := settle_lit s _ k _ hw h.lit hv (.set _ _ _ _ (onlyWave_refl s k))
  have hexec : exec (.strand f) s = .next ((settle (s.setWave k (nextStrand w f.imm)) k).sampled (dieOfCore w.core) 5 0) := by
    show issueB (.strand f) (some f.imm) (fun _ _ _ => none) s = _
    rw [issueB_ready h, priceOf_strand, takeLumens_zero]
    dsimp only [Option.getD_some]
    rw [boundary_empty s k w (.strand f) f.imm hq h.runs rfl, boundaryEnd_plain _ _ _ (.inl rfl), hq]
    rfl
  have hdies : (settle (s.setWave k (nextStrand w f.imm)) k).dies = s.dies := by
    rw [settle_lit_rest hw h.lit hv]
    rfl
  exact ⟨_, nextStrand w f.imm, hexec, (sampled_wave _ _ _ _ _).trans hwave, honly.sampled _ _ _ _ _ _, hafter, hst, hhead,
    (sampled_by _ _ _ _).of_dies hdies⟩

end Sys2Proof.Machine
end

section
/-! SUPPORT. Lighting, victims and the batches of grid-wide releases, and O59 (R173, R350, R406). -/
namespace Sys2Proof.Machine

/-- In a sorted table every entry is the one that its key reads. -/
theorem tget_of_mem {α : Type} {t : Tab α} {k : Nat} {v : α} (hs : tsorted t = true) (h : (k, v) ∈ t) : tget t k = some v := by
  induction t with
  | nil => cases h
  | cons e t ih =>
    obtain ⟨n, u⟩ := e
    obtain ⟨ha, hs⟩ := (tsorted_cons _ _).1 hs
    rcases List.mem_cons.1 h with h | h
    · cases h
      simp [tget]
    · have hn : n < k := ha _ h
      simp only [tget]
      rw [if_neg (by omega), if_neg (by omega)]
      exact ih hs h

/-- What is sorted first by a key has the least key. -/
theorem sortBy_head_le {α : Type} {key : α → Nat} {l rest : List α} {x : α} (h : sortBy (fun a b => decide (key a ≤ key b)) l = x :: rest) :
    x ∈ l ∧ ∀ y ∈ l, key x ≤ key y := by
  have hm (y : α) : y ∈ x :: rest ↔ y ∈ l := by rw [← h, mem_sortBy]
  refine ⟨(hm x).1 List.mem_cons_self, fun y hy => ?_⟩
  have : Std.Total fun a b : α => key a ≤ key b := ⟨fun a b => le_total (key a) (key b)⟩
  have : IsTrans α fun a b => key a ≤ key b := ⟨fun _ _ _ => le_trans⟩
  have hp := List.pairwise_insertionSort (fun a b : α => key a ≤ key b) l
  rw [← sortBy_eq_insertionSort, h, List.pairwise_cons] at hp
  rcases List.mem_cons.1 ((hm y).2 hy) with rfl | hy
  · exact le_rfl
  · exact hp.1 y hy

theorem sortBy_ne_nil {α : Type} (r : α → α → Bool) {l : List α} (h : l ≠ []) : sortBy r l ≠ [] := by
  obtain ⟨x, hx⟩ := List.exists_mem_of_ne_nil l h
  exact List.ne_nil_of_mem ((mem_sortBy r l x).2 hx)

/-! WAVE_LIGHTING. -/

section
variable {s : State} {sd k : Nat} {rest : List Nat}

theorem exec_waveLighting (sd : Nat) (s : State) : exec (.waveLighting sd) s = .next (lightingRun s sd) := rfl

theorem lightingRun_none (h : (s.side sd).lighting.filter (canLight s sd) = []) : lightingRun s sd = s := by
  unfold lightingRun
  dsimp only
  rw [h]

/-- A wave that takes a lit slot: its survivors come back from the bank (R173). -/
def Wave.lighted (w : Wave) (now : Nat) : Wave := { w.reload with lit := true, litAt := now, victim := false, wait := .none }

theorem lightingRun_lights {w : Wave} (h : (s.side sd).lighting.filter (canLight s sd) = k :: rest) (hl : (litOf s sd).length < 4)
    (hw : s.wave k = some w) : lightingRun s sd =
      (s.setSide sd { s.side sd with lighting := rest }).setWave k (w.lighted (s.core (coreOfSide sd)).cycles) := by
  unfold lightingRun
  dsimp only
  rw [h]
  dsimp only
  rw [if_pos hl, modWave_eq_setWave ((setSide_wave s sd k _).trans hw)]
  rfl

/-- The lit waves of a side that have been lit for long enough to give way (R350). -/
def oldLit (s : State) (sd : Nat) : List (Nat × Wave) :=
  (litOf s sd).filter fun e => (s.core (coreOfSide sd)).cycles ≥ e.2.litAt + 1024

/-- With no slot free nothing happens while there is a victim, or no wave to choose as one (R350). -/
theorem lightingRun_waits (h : (s.side sd).lighting.filter (canLight s sd) = k :: rest) (hl : (litOf s sd).length ≥ 4)
    (hv : (∃ e ∈ litOf s sd, e.2.victim = true) ∨ oldLit s sd = []) : lightingRun s sd = s := by
  unfold lightingRun
  dsimp only
  rw [h]
  dsimp only
  rw [if_neg (Nat.not_lt.2 hl)]
  split_ifs with hx
  · rfl
  · rcases hv with hv | hv
    · exact absurd (List.any_eq_true.2 hv) hx
    · rw [show (litOf s sd).filter _ = [] from hv]
      rfl

/-- With no slot free and no victim, a wave that has been lit longest becomes it (R350). -/
theorem lightingRun_victim (h : (s.side sd).lighting.filter (canLight s sd) = k :: rest) (hl : (litOf s sd).length ≥ 4)
    (hv : ∀ e ∈ litOf s sd, e.2.victim = false) (ho : oldLit s sd ≠ []) :
    ∃ v ∈ oldLit s sd, (∀ e ∈ oldLit s sd, v.2.litAt ≤ e.2.litAt) ∧
      lightingRun s sd = s.modWave v.1 fun w => { w with victim := true, litAt := (s.core (coreOfSide sd)).cycles } := by
  have hx : ¬(litOf s sd).any (fun e => e.2.victim) = true := fun hx => by
    obtain ⟨e, he, hev⟩ := List.any_eq_true.1 hx
    rw [hv e he] at hev
    cases hev
  obtain ⟨v, more, hs⟩ := List.exists_cons_of_ne_nil (sortBy_ne_nil (fun a b : Nat × Wave => decide (a.2.litAt ≤ b.2.litAt)) ho)
  obtain ⟨hm, hmin⟩ := sortBy_head_le (key := fun e : Nat × Wave => e.2.litAt) hs
  refine ⟨v, hm, hmin, ?_⟩
  unfold oldLit at hs
  unfold lightingRun
  dsimp only
  rw [h]
  dsimp only
  rw [if_neg (Nat.not_lt.2 hl), if_neg hx, hs]

end

/-! VICTIM_TIMEOUT. -/

section
variable {s : State} {k : Nat} {w : Wave}

theorem exec_victimTimeout (k : Nat) (s : State) : exec (.victimTimeout k) s = .next (victimRun s k) := rfl

/-- A dark wave that joins its side's lighting queue waits there, and no other wave and no memory changes (R350). -/
theorem joinLighting_joins (h : s.wave k = some w) : (joinLighting s k).wave k = some { w with wait := .parked } ∧
    k ∈ ((joinLighting s k).side w.side).lighting ∧ KeepsOthers k s (joinLighting s k) := by
  have ho (j : Nat) (hj : j ≠ k) := setWave_wave_ne s k j { w with wait := .parked } hj
  unfold joinLighting
  simp only [h]
  split_ifs with hc
  · exact ⟨setWave_wave_same _ _ _, List.contains_iff_mem.1 hc, rfl, ho⟩
  · refine ⟨setWave_wave_same _ _ _, ?_, rfl, ho⟩
    rw [side_setSide, if_pos rfl]
    exact List.mem_append_right _ List.mem_cons_self

theorem victimRun_early (h : s.wave k = some w) (hn : w.lit = false ∨ w.victim = false ∨ (s.core w.core).cycles < w.litAt + 16384) :
    victimRun s k = s := by
  unfold victimRun
  rw [h]
  refine if_neg fun hx => ?_
  simp only [Bool.and_eq_true, decide_eq_true_eq] at hx
  obtain ⟨⟨hl, hv⟩, hc⟩ := hx
  rcases hn with hn | hn | hn
  · rw [hl] at hn; cases hn
  · rw [hv] at hn; cases hn
  · omega

theorem victimRun_due (h : s.wave k = some w) (hl : w.lit = true) (hv : w.victim = true) (hc : (s.core w.core).cycles ≥ w.litAt + 16384) :
    victimRun s k = joinLighting (s.setWave k w.rollback.darken) k := by
  unfold victimRun
  rw [h]
  exact if_pos (by simp [hl, hv, hc])

end

/-! GRID_RELEASE_BATCH. -/

/-- A wave settled: of the machine only waves, lighting queues and what counts waiting change. -/
theorem settle_rest (s : State) (k : Nat) : settle s k =
    { s with waves := (settle s k).waves, sides := (settle s k).sides, blocks := (settle s k).blocks, launches := (settle s k).launches } := by
  have hj (u : State) : joinLighting u k = { u with waves := (joinLighting u k).waves, sides := (joinLighting u k).sides } := by
    unfold joinLighting
    split
    · rfl
    · dsimp only
      split_ifs <;> rfl
  have hn (w : Wave) := noteBusy_rest s w.block
  unfold settle
  split
  · rfl
  · rename_i w hw
    have hw' : (noteBusy s w.block).wave k = some w := (noteBusy_wave s w.block k).trans hw
    dsimp only
    split_ifs
    · rfl
    · obtain ⟨-, -, -, hr⟩ := lightOrQueue_cases hw'
      rw [hr, hn w]
    · rw [hj, hn w]
      rfl
    · rw [hn w]

section
variable {s : State} {id : Nat} {r : Release}

theorem exec_gridReleaseBatch (id : Nat) (s : State) : exec (.gridReleaseBatch id) s = .next (releaseRun s id) := rfl

theorem releaseRun_none (h : tget s.releases id = none) : releaseRun s id = s := by
  unfold releaseRun
  rw [h]

/-- A batch some wave of which has not been lit yet is waited for (R406). -/
theorem releaseRun_unlit (h : tget s.releases id = some r) (hb : r.batch ≠ []) (hl : ∃ k ∈ r.batch, beenLit s k = false) :
    releaseRun s id = s := by
  obtain ⟨k, hk, hl⟩ := hl
  unfold releaseRun
  rw [h]
  dsimp only
  rw [if_pos hb, if_neg fun ha => by rw [List.all_eq_true.1 ha k hk] at hl; cases hl]

theorem releaseRun_lit (h : tget s.releases id = some r) (hb : r.batch ≠ []) (hl : ∀ k ∈ r.batch, beenLit s k = true) :
    releaseRun s id = { s with releases := tset s.releases id { r with batch := [], nextUs := s.hubUs + 1 } } := by
  unfold releaseRun
  rw [h]
  dsimp only
  rw [if_pos hb, if_pos (List.all_eq_true.2 hl)]

theorem releaseRun_soon (h : tget s.releases id = some r) (hb : r.batch = []) (hw : r.waves ≠ []) (hu : s.hubUs < r.nextUs) :
    releaseRun s id = s := by
  unfold releaseRun
  rw [h]
  dsimp only
  rw [if_neg (not_not.2 hb), if_neg hw, if_pos hu]

/-- The waves of a release in the order in which they are to come, those on their cores first (R406). -/
def releasePool (s : State) (r : Release) : List (Nat × Nat × Nat × Nat) :=
  let onCores := r.waves.filter fun x => ((s.wave x.1).map (onCore s)).getD false
  sortBy (fun a b => !keyLt [b.2.2.1, b.2.2.2] [a.2.2.1, a.2.2.2]) (if onCores = [] then r.waves else onCores)

/-- The next batch: the waves of the first clusters of the pool, as many as the slew allows (R406, R422). -/
def nextBatch (s : State) (r : Release) : List Nat :=
  let clusters := (((releasePool s r).map fun x => (x.2.1, x.2.2.1)).eraseDups).take r.slew
  ((releasePool s r).filter fun x => clusters.contains (x.2.1, x.2.2.1)).map Prod.fst

theorem mem_releasePool {x : Nat × Nat × Nat × Nat} (h : x ∈ releasePool s r) : x ∈ r.waves := by
  unfold releasePool at h
  rw [mem_sortBy] at h
  split_ifs at h
  · exact h
  · exact (List.mem_filter.1 h).1

theorem releasePool_ne_nil (h : r.waves ≠ []) : releasePool s r ≠ [] := by
  refine sortBy_ne_nil _ ?_
  split_ifs with hc
  · exact h
  · exact hc

theorem mem_nextBatch {k : Nat} (h : k ∈ nextBatch s r) : ∃ x ∈ r.waves, x.1 = k := by
  obtain ⟨x, hx, rfl⟩ := List.mem_map.1 h
  exact ⟨x, mem_releasePool (List.mem_filter.1 hx).1, rfl⟩

/-- The first wave of the pool is of the batch. -/
theorem nextBatch_ne_nil (h : r.waves ≠ []) (hs : 0 < r.slew) : nextBatch s r ≠ [] := by
  obtain ⟨x, more, hp⟩ := List.exists_cons_of_ne_nil (releasePool_ne_nil (s := s) h)
  obtain ⟨n, hn⟩ := Nat.exists_eq_succ_of_ne_zero hs.ne'
  unfold nextBatch
  rw [hp, hn]
  simp [List.eraseDups_cons]

/-- A release whose next batch has come. -/
def nextRelease (s : State) (r : Release) : Release :=
  { r with batch := nextBatch s r, waves := r.waves.filter fun x => !(nextBatch s r).contains x.1 }

/-- A batch due: those of its waves that are on their cores and wait for nothing else are settled (R350, R406). -/
theorem releaseRun_next (h : tget s.releases id = some r) (hb : r.batch = []) (hw : r.waves ≠ []) (hu : r.nextUs ≤ s.hubUs) :
    releaseRun s id = (nextBatch s r).foldl
      (fun s k => if ((s.wave k).map fun w => decide (w.wait = .none) && onCore s w).getD false then settle s k else s)
      { s with releases := tset s.releases id (nextRelease s r) } := by
  unfold releaseRun
  rw [h]
  dsimp only
  rw [if_neg (not_not.2 hb), if_neg hw, if_neg (Nat.not_lt.2 hu)]
  rfl

theorem settled_batch (l : List Nat) (s : State) :
    let t := l.foldl (fun s k => if ((s.wave k).map fun w => decide (w.wait = .none) && onCore s w).getD false then settle s k else s) s
    t.mem = s.mem ∧ t.releases = s.releases := by
  refine foldl_keeps (fun t : State => t.mem = s.mem ∧ t.releases = s.releases) _ l (fun t k _ ht => ?_) s ⟨rfl, rfl⟩
  split_ifs
  · rw [settle_rest]
    exact ht
  · exact ht

end

/-- Settles O59: each step by its branches; the victim is the head of a list sorted by `litAt`, and a batch holds the first wave of its pool. -/
theorem lightingSteps : Obligations.LightingSteps := by
  unfold Obligations.LightingSteps
  intro s
  refine ⟨fun sd h => ?none, fun sd k rest h => ⟨fun w hl hw => ?lights, fun hl hv => ?waits, fun hl hv ho hs => ?victim⟩,
    fun k w hw => ⟨fun hn => ?early, fun hl hv hc => ?due⟩, fun id h => ?gone, fun id r h => ⟨fun hb hl => ?unlit, fun hb hl => ?lit,
    fun hb hw hu => ?soon, fun hb hw hu hs => ?next⟩⟩
  case none => rw [exec_waveLighting, lightingRun_none h]
  case lights =>
    rw [exec_waveLighting, lightingRun_lights h hl hw]
    refine ⟨_, _, rfl, setWave_wave_same _ _ _, rfl, rfl, rfl, rfl, rfl, ?_, ⟨rfl, fun j hj => setWave_wave_ne _ _ _ _ hj⟩, fun i l => List.mem_filter⟩
    show ((s.setSide sd _).side sd).lighting = rest
    rw [side_setSide, if_pos rfl]
  case waits =>
    refine congrArg Host.Outcome.next (lightingRun_waits h hl (hv.imp_right fun hv => ?_))
    exact List.filter_eq_nil_iff.2 fun e he => by simpa [coreOfSide] using hv e he
  case victim =>
    obtain ⟨e, he, hc⟩ := ho
    obtain ⟨⟨v, w⟩, hm, hmin, hr⟩ := lightingRun_victim h hl hv
      (List.ne_nil_of_mem (List.mem_filter.2 ⟨he, decide_eq_true hc⟩))
    obtain ⟨hlit, hage⟩ := List.mem_filter.1 hm
    have hage : (s.core (coreOfSide sd)).cycles ≥ w.litAt + 1024 := of_decide_eq_true hage
    have hw : s.wave v = some w := tget_of_mem hs (List.mem_filter.1 hlit).1
    rw [exec_waveLighting, hr, modWave_eq_setWave hw]
    refine ⟨_, v, w, rfl, hlit, hage, fun x hx => ?_, ⟨rfl, fun j hj => setWave_wave_ne _ _ _ _ hj⟩, setWave_wave_same _ _ _⟩
    by_cases hxa : (s.core (coreOfSide sd)).cycles ≥ x.2.litAt + 1024
    · exact hmin x (List.mem_filter.2 ⟨hx, decide_eq_true hxa⟩)
    · omega
  case early => rw [exec_victimTimeout, victimRun_early hw hn]
  case due =>
    obtain ⟨hk, hq, hm, ho⟩ := joinLighting_joins (setWave_wave_same s k w.rollback.darken)
    rw [exec_victimTimeout, victimRun_due hw hl hv hc]
    exact ⟨_, _, rfl, hk, rfl, rfl, rfl, rfl, rfl, hq, hm, fun j hj => (ho j hj).trans (setWave_wave_ne _ _ _ _ hj)⟩
  case gone => rw [exec_gridReleaseBatch, releaseRun_none h]
  case unlit => rw [exec_gridReleaseBatch, releaseRun_unlit h hb hl]
  case lit =>
    rw [exec_gridReleaseBatch, releaseRun_lit h hb hl]
    exact ⟨_, rfl, rfl, tget_tset_same _ _ _⟩
  case soon => rw [exec_gridReleaseBatch, releaseRun_soon h hb hw hu]
  case next =>
    rw [exec_gridReleaseBatch, releaseRun_next h hb hw hu]
    obtain ⟨hm, hr⟩ := settled_batch (nextBatch s r) { s with releases := tset s.releases id (nextRelease s r) }
    refine ⟨_, nextRelease s r, rfl, ?_, nextBatch_ne_nil hw hs, fun k hk => mem_nextBatch hk, fun x => ?_, hm⟩
    · rw [hr]
      exact tget_tset_same _ _ _
    · simp [nextRelease, List.mem_filter]

end Sys2Proof.Machine
end

section
/-! SUPPORT. What a halt of a context leaves of the waves and of the messages that wait to go out (R188, R370, R442). -/
namespace Sys2Proof.Machine

/-- No message is taken back, and no wave is lost; a wave keeps its absent granules, as many as it has far registers for. -/
structure HaltKept (s t : State) : Prop where
  outbox : ∀ m ∈ s.outbox, m ∈ t.outbox
  waves : ∀ k w, s.wave k = some w → ∃ w', t.wave k = some w' ∧ w'.farRegs = w.farRegs ∧
    ∀ g ∈ w.absent, g < w.farRegs / 16 → g ∈ w'.absent

section
variable {s t u : State}

theorem HaltKept.trans (h : HaltKept s t) (g : HaltKept t u) : HaltKept s u := by
  refine ⟨fun m hm => g.outbox m (h.outbox m hm), fun k w hw => ?_⟩
  obtain ⟨v, hv, hf, ha⟩ := h.waves k w hw
  obtain ⟨v', hv', hf', ha'⟩ := g.waves k v hv
  exact ⟨v', hv', hf'.trans hf, fun x hx hlt => ha' x (ha x hx hlt) (hf.symm ▸ hlt)⟩

theorem haltKept_of_eq (hw : t.waves = s.waves) (ho : t.outbox = s.outbox) : HaltKept s t :=
  ⟨fun _ hm => ho.symm ▸ hm, fun k w hk => ⟨w, (congrArg (tget · k) hw).trans hk, rfl, fun _ hx _ => hx⟩⟩

theorem HaltKept.refl (s : State) : HaltKept s s := haltKept_of_eq rfl rfl

theorem HaltKept.foldl {β : Type} {g : State → β → State} (hg : ∀ s x, HaltKept s (g s x)) (l : List β) (s : State) :
    HaltKept s (l.foldl g s) :=
  foldl_keeps (HaltKept s) g l (fun _ _ _ h => h.trans (hg _ _)) s (.refl s)

theorem Written.outbox (h : Written s t) : t.outbox = s.outbox := by rw [h.rest]

theorem Written.haltKept (h : Written s t) : HaltKept s t := haltKept_of_eq h.waves h.outbox

theorem Touched.haltKept (h : Touched s t) : HaltKept s t := h.written.haltKept

end

/-- A wave changed in what is neither a far register's number nor an absent granule, or left with every granule absent. -/
theorem modWave_haltKept (s : State) (k : Nat) {f : Wave → Wave}
    (hf : ∀ w, (f w).farRegs = w.farRegs ∧ ((f w).absent = w.absent ∨ (f w).absent = List.range (w.farRegs / 16))) :
    HaltKept s (s.modWave k f) := by
  refine ⟨fun _ hm => hm, fun j w hw => ?_⟩
  rw [modWave_wave]
  split_ifs with hj
  · subst hj
    obtain ⟨hr, ha⟩ := hf w
    refine ⟨f w, by rw [hw]; rfl, hr, fun g hg hlt => ?_⟩
    rcases ha with ha | ha <;> rw [ha]
    · exact hg
    · exact List.mem_range.2 hlt
  · exact ⟨w, hw, rfl, fun _ hx _ => hx⟩

/-! The steps of the matrix engine, and the writes of a swap-out (R262, R343). -/

theorem modTile_haltKept (s : State) (id : Nat) (f : Tile → Tile) : HaltKept s (s.modTile id f) := haltKept_of_eq rfl rfl

theorem errs_haltKept (s : State) (e : List ErrLoc) : HaltKept s { s with errs := e } := haltKept_of_eq rfl rfl

theorem tileWrite_haltKept (s : State) (id off : Nat) (bs : List Byte) : HaltKept s (tileWrite s id off bs) :=
  ((modTile_haltKept s id _).trans (errs_haltKept _ _)).trans (evalVigils_written _ _ _).haltKept

theorem runStep_haltKept (s : State) (st : MStep) : HaltKept s (runStep s st).1 := by
  unfold runStep
  dsimp only
  split
  · unfold runMma
    split <;> exact haltKept_of_eq rfl rfl
  · exact haltKept_of_eq rfl rfl
  · exact HaltKept.foldl (fun _ _ => tileWrite_haltKept _ _ _ _) _ _
  · unfold runMscl
    split <;> exact haltKept_of_eq rfl rfl
  · exact .refl s

theorem correctError_haltKept (s : State) (d : Nat) : HaltKept s (correctError s d) := by
  unfold correctError
  split_ifs
  · exact haltKept_of_eq rfl rfl
  · exact .refl s

theorem mergeStep_haltKept (s : State) (st : MStep) (fl : FFlags) : HaltKept s (mergeStep s st fl) := by
  refine HaltKept.foldl (fun s k => modWave_haltKept s k fun w => ?_) _ _
  unfold Wave.chainFlags
  split_ifs <;> exact ⟨rfl, .inl rfl⟩

theorem completeStep_haltKept (s : State) (c : Nat) (st : MStep) : HaltKept s (completeStep s c st) := by
  have h1 : HaltKept s (if accBad s st then correctError (runStep s st).1 (dieOfCore c) else (runStep s st).1) := by
    split_ifs
    · exact (runStep_haltKept s st).trans (correctError_haltKept _ _)
    · exact runStep_haltKept s st
  exact (h1.trans (mergeStep_haltKept _ st (runStep s st).2)).trans (haltKept_of_eq rfl rfl)

theorem completeBlockSteps_haltKept (s : State) (c b : Nat) : HaltKept s (completeBlockSteps s c b) :=
  HaltKept.foldl (fun _ _ => completeStep_haltKept _ _ _) _ _

theorem settleAccesses_haltKept (s : State) (k : Nat) : HaltKept s (settleAccesses s k) := by
  have h : ∀ l, HaltKept s { s with sent := l } := fun _ => haltKept_of_eq rfl rfl
  exact ((h _).trans (performSent_written _ _).haltKept).trans (haltKept_of_eq rfl rfl)

theorem writeBackPrivate_haltKept (s : State) (k : Nat) (w : Wave) : HaltKept s (writeBackPrivate s k w) := by
  have h : ∀ x, HaltKept s (s.setCore w.core x) := fun _ => haltKept_of_eq rfl rfl
  exact (h _).trans (HaltKept.foldl (fun _ _ => (homeWrite_written _ _ _ _ _).haltKept) _ _)

/-- Leaving its lit slot is no loss of a granule. -/
theorem suspend_farRegs (w : Wave) : w.suspend.farRegs = w.farRegs ∧ w.suspend.absent = w.absent := by
  have h : (if w.lit then w.rollback else w).farRegs = w.farRegs ∧ (if w.lit then w.rollback else w).absent = w.absent := by
    split_ifs <;> exact ⟨rfl, rfl⟩
  unfold Wave.suspend
  dsimp only
  split <;> exact h

theorem suspendWaves_haltKept (s : State) (b : Nat) : HaltKept s (suspendWaves s b) := by
  refine HaltKept.foldl (fun s kw => ?_) _ s
  have h := (settleAccesses_haltKept s kw.1).trans
    (modWave_haltKept _ kw.1 fun w => ⟨(suspend_farRegs w).1, .inl (suspend_farRegs w).2⟩)
  dsimp only
  split
  · exact h
  · exact h.trans (writeBackPrivate_haltKept _ _ _)

theorem saWriteParts_haltKept {ctx : Nat} {ps : List (Nat × List Byte)} {s t : State} (h : saWriteParts s ctx ps = .ok t) :
    HaltKept s t := by
  induction ps generalizing s with
  | nil => cases h; exact .refl _
  | cons e ps ih =>
    unfold saWriteParts at h
    split at h
    · cases h
    · exact ((useXlat_touched _ _ _ _ _).haltKept.trans (homeWrite_written _ _ _ _ _).haltKept).trans (ih h)

theorem saWrites_haltKept {ctx : Nat} {ps : List (Nat × List Byte)} {s t : State} (h : saWrites s ctx ps = .ok t) : HaltKept s t := by
  induction ps generalizing s with
  | nil => cases h; exact .refl _
  | cons e ps ih =>
    unfold saWrites at h
    split at h
    · cases h
    · rename_i u hu
      exact (saWriteParts_haltKept hu).trans (ih h)

/-! The swap-out and the halt. -/

theorem detachBlock_haltKept (s : State) (b : Nat) (x : Block) : HaltKept s (detachBlock s b x) := haltKept_of_eq rfl rfl

theorem swapOutRaw_haltKept (s : State) (b : Nat) (status : BStatus) : HaltKept s (swapOutRaw s b status).1 := by
  unfold swapOutRaw
  split
  · exact .refl s
  · rename_i x _
    split
    · exact .refl s
    · have h1 := (completeBlockSteps_haltKept s x.core b).trans (suspendWaves_haltKept _ b)
      dsimp only
      split
      · exact h1.trans (haltKept_of_eq rfl rfl)
      · rename_i hw
        refine ((h1.trans (saWrites_haltKept hw)).trans (detachBlock_haltKept _ b _)).trans
          (HaltKept.foldl (fun _ _ => modWave_haltKept _ _ fun w => ?_) _ _)
        split_ifs
        · exact ⟨rfl, .inl rfl⟩
        · exact ⟨rfl, .inr rfl⟩

theorem noteSaFail_haltKept (s : State) (ctx slot : Nat) (e : SaFail) (redo : SaRedo) : HaltKept s (noteSaFail s ctx slot e redo) :=
  ⟨fun _ hm => List.mem_append_left _ hm, fun _ w hk => ⟨w, hk, rfl, fun _ hx _ => hx⟩⟩

theorem writeCflags_haltKept (s : State) (ctx : Nat) : HaltKept s (writeCflags s ctx) := by
  unfold writeCflags
  split
  · exact .refl s
  · split
    · exact noteSaFail_haltKept _ _ _ _ _
    · rename_i h
      exact saWriteParts_haltKept h

theorem halt_haltKept (s : State) (ctx : Nat) : HaltKept s (s.modCtx ctx fun c => { c with halted := true }) := haltKept_of_eq rfl rfl

theorem haltCtx_haltKept (s : State) (ctx : Nat) : HaltKept s (haltCtx s ctx) := by
  refine ((HaltKept.foldl (fun s e => ?_) _ s).trans (halt_haltKept _ ctx)).trans (writeCflags_haltKept _ ctx)
  have h := swapOutRaw_haltKept s e.1 .swapped
  split
  · rename_i hr
    rwa [hr] at h
  · rename_i hr
    rw [hr] at h
    exact h.trans (noteSaFail_haltKept _ _ _ _ _)

/-- The flags of a context's header are written, or a failure is noted; whether it is halted stays as it was (R377, R442). -/
theorem writeCflags_standing (s : State) (ctx j : Nat) :
    (tget (writeCflags s ctx).ctxs j).map Ctx.standing = (tget s.ctxs j).map Ctx.standing := by
  unfold writeCflags
  split
  · rfl
  · split
    · exact map_tget_tmod _ _ _ _ _ fun _ => rfl
    · rename_i h
      exact (saWriteParts_workKept h).ctxs j

/-- The last that a halt does: the context is marked, and its flags are written (R377). -/
theorem haltCtx_ends (s : State) (ctx : Nat) :
    ∃ u : State, haltCtx s ctx = writeCflags (u.modCtx ctx fun c => { c with halted := true }) ctx := ⟨_, rfl⟩

/-- A context that there is is halted. -/
theorem haltCtx_halted {s : State} {ctx : Nat} {c : Ctx} (h : tget s.ctxs ctx = some c) :
    ∃ c', tget (haltCtx s ctx).ctxs ctx = some c' ∧ c'.halted = true := by
  have hs := (haltCtx_placesKept s ctx).1.slots ctx
  rw [h] at hs
  obtain ⟨c', hc', -⟩ := Option.map_eq_some_iff.1 hs
  refine ⟨c', hc', ?_⟩
  obtain ⟨u, hu⟩ := haltCtx_ends s ctx
  have hf := writeCflags_standing (u.modCtx ctx fun c => { c with halted := true }) ctx ctx
  rw [← hu, hc', State.modCtx_ctxs, tget_tmod_same, Option.map_map] at hf
  obtain ⟨y, -, hy⟩ := Option.map_eq_some_iff.1 hf.symm
  exact (congrArg (fun x => x.2.1) hy).symm

/-- A failed access that is noted is told to the owner of the context (R442). -/
theorem notifySa_mem (s : State) (ctx slot : Nat) (e : SaFail) (he : e.1 ≠ 0) : ∃ m ∈ (notifySa s ctx slot e).outbox,
    m.typ = 6 ∧ m.ctx = BitVec.ofNat 12 ctx ∧ m.cmd = 3 ∧ m.arg = BitVec.ofNat 64 (slot + e.1 * 2 ^ 52) := by
  unfold notifySa
  rw [if_neg he, if_neg he]
  exact ⟨_, List.mem_append_right _ (List.mem_singleton_self _), rfl, rfl, rfl, rfl⟩

/-- A failure of the save area (R442): its context is halted, its owner is told, and no wave loses an absent granule. -/
theorem saFailed_spec (s : State) {ctx : Nat} {c : Ctx} (h : tget s.ctxs ctx = some c) (slot : Nat) (e : SaFail) (redo : SaRedo) (he : e.1 ≠ 0) :
    HaltKept s (saFailed s ctx slot e redo) ∧ (∃ c', tget (saFailed s ctx slot e redo).ctxs ctx = some c' ∧ c'.halted = true) ∧
    ∃ m ∈ (saFailed s ctx slot e redo).outbox,
      m.typ = 6 ∧ m.ctx = BitVec.ofNat 12 ctx ∧ m.cmd = 3 ∧ m.arg = BitVec.ofNat 64 (slot + e.1 * 2 ^ 52) := by
  have hk := haltCtx_haltKept (noteSaFail s ctx slot e redo) ctx
  refine ⟨(noteSaFail_haltKept s ctx slot e redo).trans hk,
    haltCtx_halted (c := { c with failed := c.failed ++ [⟨slot, e.1, e.2, redo⟩] }) ?_, ?_⟩
  · show tget (tmod s.ctxs ctx _) ctx = _
    rw [tget_tmod_same, h]
    rfl
  · obtain ⟨m, hm, hmsg⟩ := notifySa_mem (s.modCtx ctx fun c => { c with failed := c.failed ++ [⟨slot, e.1, e.2, redo⟩] }) ctx slot e he
    exact ⟨m, hk.outbox m hm, hmsg⟩

end Sys2Proof.Machine
end

section
/-! SUPPORT. An absent granule and its fill (R188); the instruction that meets one that cannot be filled (R440). -/
namespace Sys2Proof.Machine

/-! What lumens do not reach: the save area as it is read. -/

theorem takeLumens_uncorrectable (s : State) (c d p a : Nat) : uncorrectable (takeLumens s c d p) a = uncorrectable s a := by
  obtain ⟨_, _, _, h⟩ := takeLumens_rest s c d p
  rw [h]
  rfl

theorem takeLumens_walkFrom (s : State) (c d p pn level table : Nat) :
    walkFrom (takeLumens s c d p) pn level table = walkFrom s pn level table := by
  induction level generalizing table with
  | zero => rfl
  | succ n ih => simp only [walkFrom, takeLumens_mem, takeLumens_uncorrectable, ih]

theorem takeLumens_walk (s : State) (c d p ctx pn : Nat) : walk (takeLumens s c d p) ctx pn = walk s ctx pn := by
  simp only [walk, takeLumens_ctxReg, takeLumens_walkFrom]

theorem takeLumens_cachedLeaves (s : State) (c d p : Nat) (a : Agent) (ctx pn : Nat) :
    cachedLeaves (takeLumens s c d p) a ctx pn = cachedLeaves s a ctx pn := by
  obtain ⟨_, _, _, h⟩ := takeLumens_rest s c d p
  rw [h]
  rfl

theorem takeLumens_leafOf (s : State) (c d p : Nat) (a : Agent) (ctx pn : Nat) (acc : Acc) :
    leafOf (takeLumens s c d p) a ctx pn acc = leafOf s a ctx pn acc := by
  unfold leafOf
  rw [takeLumens_walk, takeLumens_cachedLeaves, takeLumens_fv]

theorem takeLumens_frameOwner (s : State) (c d p ctx va : Nat) : frameOwner (takeLumens s c d p) ctx va = frameOwner s ctx va := by
  have hf : frameOf (takeLumens s c d p) ctx va = frameOf s ctx va := by simp only [frameOf, takeLumens_ctxReg]
  unfold frameOwner
  rw [hf]
  obtain ⟨_, _, _, h⟩ := takeLumens_rest s c d p
  rw [h]
  rfl

theorem takeLumens_xlate (s : State) (c d p : Nat) (a : Agent) (ctx va : Nat) (acc : Acc) :
    xlate (takeLumens s c d p) a ctx va acc = xlate s a ctx va acc := by
  simp only [xlate, permFail, takeLumens_leafOf, takeLumens_frameOwner]

theorem takeLumens_saReadParts (s : State) (c d p ctx : Nat) (l : List (Nat × Nat)) :
    saReadParts (takeLumens s c d p) ctx l = saReadParts s ctx l := by
  induction l with
  | nil => rfl
  | cons e l ih => simp only [saReadParts, takeLumens_xlate, takeLumens_uncorrectable, takeLumens_mem, ih]

theorem takeLumens_saRead (s : State) (c d p ctx va n : Nat) : saRead (takeLumens s c d p) ctx va n = saRead s ctx va n :=
  takeLumens_saReadParts s c d p ctx _

/-- A record of the save area stands where it stood. -/
theorem takeLumens_saAddr {s : State} {j : Nat} {x : Ctx} (hx : tget s.ctxs j = some x) (c d p : Nat) :
    ∃ y, tget (takeLumens s c d p).ctxs j = some y ∧ ∀ k slot off, saAddr y k slot off = saAddr x k slot off := by
  have h := takeLumens_ctxs (fun c => (c.sabase, c.bslots)) (fun _ _ => rfl) s c d p j
  rw [hx] at h
  obtain ⟨y, hy, he⟩ := Option.map_eq_some_iff.1 h
  refine ⟨y, hy, fun k slot off => ?_⟩
  unfold saAddr
  rw [show y.sabase = x.sabase from congrArg Prod.fst he, show y.bslots = x.bslots from congrArg Prod.snd he]

/-! How a fill ends. -/

section
variable {s : State} {k g : Nat} {w : Wave} {c : Ctx} {b : Block}

theorem fillGranule_bad (hw : s.wave k = some w) (hc : tget s.ctxs w.ctx = some c) (hb : tget s.blocks w.block = some b) {a : Nat}
    (h : saRead s w.ctx (saAddr c 1 b.slot (30720 * w.wid + 2048 * g)) 2048 = .error (0, a)) : fillGranule s k g = .bad s a := by
  unfold fillGranule
  simp only [hw, hc, hb, h]

theorem fillGranule_failed (hw : s.wave k = some w) (hc : tget s.ctxs w.ctx = some c) (hb : tget s.blocks w.block = some b) {e a : Nat}
    (h : saRead s w.ctx (saAddr c 1 b.slot (30720 * w.wid + 2048 * g)) 2048 = .error (e, a)) (he : e ≠ 0) :
    fillGranule s k g = .failed (saFailed s w.ctx b.slot (e, a) (.read 1)) := by
  obtain ⟨n, rfl⟩ := Nat.exists_eq_succ_of_ne_zero he
  unfold fillGranule
  simp only [hw, hc, hb, h]

/-- A wave with a granule's registers from the save area. -/
def Wave.withGranule (w : Wave) (g : Nat) (bs : List Byte) : Wave :=
  { w with far := granuleRegs w.far g bs, absent := w.absent.filter (· ≠ g) }

theorem fillGranule_filled (hw : s.wave k = some w) (hc : tget s.ctxs w.ctx = some c) (hb : tget s.blocks w.block = some b) {bs : List Byte}
    (h : saRead s w.ctx (saAddr c 1 b.slot (30720 * w.wid + 2048 * g)) 2048 = .ok bs) : fillGranule s k g =
    .filled ((saTouch s w.ctx (saAddr c 1 b.slot (30720 * w.wid + 2048 * g)) 2048).setWave k (w.withGranule g bs)) := by
  unfold fillGranule
  simp only [hw, hc, hb, h]
  rfl

end

/-! The registers of a granule. -/

/-- A run of writes to the registers from `base` on: those that are written hold the last value, every other keeps its own. -/
theorem tget_foldl_tset {α : Type} (f : Nat → α) (base n : Nat) (t : Tab α) (i : Nat) :
    tget ((List.range n).foldl (fun t r => tset t (base + r) (f r)) t) i =
      if base ≤ i ∧ i < base + n then some (f (i - base)) else tget t i := by
  induction n with
  | zero => simp [show ¬ (base ≤ i ∧ i < base) by omega]
  | succ n ih =>
    rw [List.range_succ, List.foldl_append]
    show tget (tset _ (base + n) (f n)) i = _
    rw [tget_tset, ih]
    by_cases h : i = base + n
    · subst h
      simp
    · rw [if_neg h]
      exact if_congr (by omega) rfl rfl

theorem file_two (w : Wave) : w.file 2 = w.far := rfl

theorem withGranule_far (w : Wave) (g : Nat) (bs : List Byte) : (w.withGranule g bs).far = granuleRegs w.far g bs := by
  simp only [Wave.withGranule]

/-- Of the wave, a fill changes the far registers and what is absent. -/
theorem withGranule_eq (w : Wave) (g : Nat) (bs : List Byte) :
    w.withGranule g bs = { w with far := (w.withGranule g bs).far, absent := w.absent.filter (· ≠ g) } := by
  rw [withGranule_far, Wave.withGranule]

theorem withGranule_lane (w : Wave) (g : Nat) (bs : List Byte) {r n : Nat} (hr : r < 16) (hn : n < 32) :
    (w.withGranule g bs).lane 2 (16 * g + r) n = some (BitVec.ofNat 32 (leNat ((bs.drop (128 * r + 4 * n)).take 4))) := by
  unfold Wave.lane
  rw [file_two, withGranule_far, granuleRegs, tget_foldl_tset, if_pos (by omega)]
  simp [hn, recNat]

theorem withGranule_lane_ne (w : Wave) (g : Nat) (bs : List Byte) {i : Nat} (n : Nat) (hi : i / 16 ≠ g) :
    (w.withGranule g bs).lane 2 i n = w.lane 2 i n := by
  unfold Wave.lane
  rw [file_two, withGranule_far, granuleRegs, tget_foldl_tset, if_neg (by omega)]
  rfl

/-! What a read of the save area leaves. -/

theorem saTouch_touched (s : State) (ctx va n : Nat) : Touched s (saTouch s ctx va n) := by
  refine Touched.foldl (fun s q => ?_) _ s
  split
  · exact .refl s
  · exact useRead_touched _ _ _ _ _

/-- Caches that were touched, and one wave that was set. -/
theorem Touched.onlyCaches {s t : State} (h : Touched s t) (k : Nat) (w : Wave) : OnlyCaches k s (t.setWave k w) := by
  rw [h.rest]
  refine ⟨rfl, rfl, rfl, rfl, rfl, fun _ => rfl, fun _ => rfl, rfl, rfl, rfl, rfl, rfl, fun j hj => setWave_wave_ne _ _ _ _ hj,
    fun _ _ => rfl, fun _ => rfl⟩

/-! LAZY_FILL. -/

theorem exec_lazyFill (k g : Nat) (s : State) : exec (.lazyFill k g) s = .next (lazyRun s k g) := rfl

section
variable {s : State} {k g : Nat} {w : Wave}

/-- Nothing is filled where the granule is there, its block has left its core, or the save area has failed. -/
theorem lazyRun_idle (hw : s.wave k = some w)
    (h : g ∉ w.absent ∨ s.residentBlock w.block = false ∨ knownFailed s w.ctx (.read 1) = true) : lazyRun s k g = s := by
  unfold lazyRun
  simp only [hw]
  refine if_neg fun hc => ?_
  simp only [onCore, Bool.and_eq_true, List.contains_iff_mem, Bool.not_eq_true'] at hc
  obtain ⟨⟨hr, hg⟩, hf⟩ := hc
  rcases h with h | h | h
  · exact h hg
  · simp [h] at hr
  · simp [h] at hf

/-- Elsewhere the granule is to be filled. -/
structure ToFill (s : State) (k g : Nat) (w : Wave) : Prop where
  wave : s.wave k = some w
  absent : g ∈ w.absent
  resident : s.residentBlock w.block = true
  readable : knownFailed s w.ctx (.read 1) = false

theorem ToFill.cond (h : ToFill s k g w) : (onCore s w && w.absent.contains g && !knownFailed s w.ctx (.read 1)) = true := by
  simp [onCore, h.absent, h.resident, h.readable]

theorem ToFill.filled {t : State} (h : ToFill s k g w) (hf : fillGranule s k g = .filled t) : lazyRun s k g = t := by
  unfold lazyRun
  simp only [h.wave, hf]
  exact if_pos h.cond

theorem ToFill.failed {t : State} (h : ToFill s k g w) (hf : fillGranule s k g = .failed t) : lazyRun s k g = t := by
  unfold lazyRun
  simp only [h.wave, hf]
  exact if_pos h.cond

/-- An uncorrectable error leaves the granule to the instruction that accesses it. -/
theorem ToFill.bad {t : State} {a : Nat} (h : ToFill s k g w) (hf : fillGranule s k g = .bad t a) : lazyRun s k g = s := by
  unfold lazyRun
  simp only [h.wave, hf]
  exact if_pos h.cond

end

/-! The instruction that meets a bad granule. -/

/-- Whatever the instruction, where its common beginning stops, it ends there. -/
theorem exec_stopped {i : Instr} {k : Nat} {w : Wave} {s t : State} (hi : i.isEvent = false) (hc : s.cur = some k) (hw : s.wave k = some w)
    (hp : prologue s k w i = .stop t) : exec i s = .next t := by
  cases i
  all_goals try exact Bool.noConfusion hi
  all_goals
    conv_lhs => whnf
    simp only [hc, hw, hp]

/-- An absent granule whose read meets an uncorrectable error is soft-error fault 2 of the instruction that touches it first (R440). -/
theorem prologue_bad {i : Instr} {k a g : Nat} {rest : List Nat} {w : Wave} {s s1 : State} (hl : canTake s w.side (priceOf i) = true)
    (hf : issueFail w i = none) (hg : absentOf w (readsOf i ++ writesOf i) = g :: rest) (h1 : takeLumens s w.ctx w.side (priceOf i) = s1)
    (hw : s1.wave k = some w) (hb : fillGranule s1 k g = .bad s1 a) :
    prologue s k w i = .stop (trapAtIssue s1 k w ⟨26, 2, none, some (BitVec.ofNat 64 a)⟩) := by
  unfold prologue
  simp only [hl, hf, hg, h1, fillAll, hb, hw]
  rfl

end Sys2Proof.Machine
end

section
/-! SUPPORT. A parity error in a lit wave (R184), and what a lazy fill leaves (R188, R442). -/
namespace Sys2Proof.Machine

/-! PARITY_ROLLBACK. -/

theorem exec_parityRollback (k : Nat) (s : State) : exec (.parityRollback k) s = .next (parityRun s k) := rfl

/-- A soft error that is counted touches its die alone. -/
theorem correctError_rest (s : State) (d : Nat) : ∃ l, correctError s d = { s with dies := l } := by
  unfold correctError
  split_ifs
  · exact ⟨_, rfl⟩
  · exact ⟨s.dies, rfl⟩

theorem correctError_onlyWave (s : State) (d k : Nat) : OnlyWave k s (correctError s d) := by
  obtain ⟨l, h⟩ := correctError_rest s d
  rw [h]
  exact ⟨rfl, rfl, rfl, rfl, fun _ _ => .rfl, rfl, rfl, rfl, fun _ => rfl, fun _ => rfl, rfl, rfl, rfl, rfl, rfl, fun _ _ => rfl,
    fun _ _ => rfl, fun _ => rfl⟩

theorem correctError_ctxReg (s : State) (d c n : Nat) : (correctError s d).ctxReg c n = s.ctxReg c n := by
  obtain ⟨l, h⟩ := correctError_rest s d
  rw [h]
  rfl

theorem correctError_counts (s : State) {d : Nat} (hd : d < 4) : ((correctError s d).die d).corrected = (s.die d).corrected + 1 := by
  unfold correctError
  rw [if_pos hd, die_setDie, if_pos rfl]

/-- A trap with no instruction that caused it, delivered to the handler (R184, R368): the wave resumes at its strand head. -/
theorem trapNoCause_handler {s : State} {w : Wave} {cause : Nat} (hh : trapToHost s w.rollback cause = false) (h3 : cause ≠ 3) (k sub : Nat) :
    ∃ w', trapNoCause s k w cause sub = s.setWave k w' ∧
      AtHandler (handlerEntry s w) w.head w w' cause sub 3 none w.head.pc w.head.pc (decide (w.residual ≠ [])) w.be.isSome := by
  obtain ⟨w', hd, ha, -⟩ := deliver_atHandler s k
    { w.rollback with head := { w.head with pc := w.head.pc }, st := { w.head with pc := w.head.pc } }
    ⟨cause, sub, 3, none, w.head.pc, w.head.pc, 0⟩
  refine ⟨w', ?_, { ha with far := ha.far }⟩
  unfold trapNoCause takeTrap
  rw [if_neg h3]
  simp only [hh]
  exact hd

section
variable {s : State} {k : Nat} {w : Wave}

theorem parityRun_dark (hw : s.wave k = some w) (h : isLit s w = false) : parityRun s k = s := by
  unfold parityRun
  simp only [hw, h]
  rfl

theorem parityRun_rolls (hw : s.wave k = some w) (h : isLit s w = true) (hp : w.parity < 2) :
    parityRun s k = (correctError s (dieOfCore w.core)).setWave k { w.rollback with parity := w.parity + 1 } := by
  unfold parityRun
  simp only [hw, h, Bool.not_true, Bool.false_eq_true, if_false]
  exact if_pos (Nat.succ_lt_succ hp)

theorem parityRun_third (hw : s.wave k = some w) (h : isLit s w = true) (hp : w.parity ≥ 2) :
    parityRun s k = trapNoCause (correctError s (dieOfCore w.core)) k w 26 1 := by
  unfold parityRun
  simp only [hw, h, Bool.not_true, Bool.false_eq_true, if_false]
  exact if_neg (Nat.not_lt.2 (Nat.succ_le_succ hp))

/-- The third parity error of a strand is a machine check (R184). -/
theorem parityRun_third_handler (hw : s.wave k = some w) (h : isLit s w = true) (hp : w.parity ≥ 2) (hh : trapToHost s w.rollback 26 = false) :
    ∃ w', (parityRun s k).wave k = some w' ∧ OnlyWave k s (parityRun s k) ∧
      AtHandler (handlerEntry s w) w.head w w' 26 1 3 none w.head.pc w.head.pc (decide (w.residual ≠ [])) w.be.isSome := by
  have hr := correctError_ctxReg s (dieOfCore w.core)
  have hh' : trapToHost (correctError s (dieOfCore w.core)) w.rollback 26 = false := by
    unfold trapToHost at hh ⊢
    rwa [hr]
  obtain ⟨w', ht, ha⟩ := trapNoCause_handler hh' (by decide) k 1
  rw [parityRun_third hw h hp, ht]
  refine ⟨w', setWave_wave_same _ _ _, OnlyWave.set _ _ _ _ (correctError_onlyWave _ _ _), ?_⟩
  unfold handlerEntry at ha ⊢
  rwa [hr] at ha

end

/-! LAZY_FILL, by how the read of the save area ends. -/

section
variable {s : State} {k g : Nat} {w : Wave} {c : Ctx} {b : Block}

/-- A read that is uncorrectable fills nothing; the instruction that accesses the granule meets the error at issue (R440). -/
theorem bad_granule_traps {a : Nat} (hw : s.wave k = some w) (hc : tget s.ctxs w.ctx = some c) (hb : tget s.blocks w.block = some b)
    (hread : saRead s w.ctx (saAddr c 1 b.slot (30720 * w.wid + 2048 * g)) 2048 = .error (0, a)) {i : Instr} {rest : List Nat}
    (hi : i.isEvent = false) (hcur : s.cur = some k) (hl : canTake s w.side (priceOf i) = true) (hf : issueFail w i = none)
    (hg : absentOf w (readsOf i ++ writesOf i) = g :: rest) (hh : trapToHost s w.rollback 26 = false) :
    ∃ t w', exec i s = .next t ∧ t.wave k = some w' ∧ OnlyWave k s t ∧ w'.eaddr = BitVec.ofNat 64 a ∧
      AtHandler (handlerEntry s w) w.head w w' 26 2 0 none w.st.pc w.head.pc (decide (w.residual ≠ [])) w.be.isSome := by
  obtain ⟨c1, hc1, haddr⟩ := takeLumens_saAddr hc w.ctx w.side (priceOf i)
  have hw1 : (takeLumens s w.ctx w.side (priceOf i)).wave k = some w := (takeLumens_wave _ _ _ _ _).trans hw
  have hb1 : tget (takeLumens s w.ctx w.side (priceOf i)).blocks w.block = some b := by rw [takeLumens_blocks]; exact hb
  have hbad := fillGranule_bad (g := g) hw1 hc1 hb1 (by rw [takeLumens_saRead, haddr]; exact hread)
  obtain ⟨t, w', ht, hwt, ho, ha, -, he⟩ := trapAtIssue_handler s _ k w ⟨26, 2, none, some (BitVec.ofNat 64 a)⟩
    (fun _ _ => takeLumens_ctxReg _ _ _ _ _ _) (onlyWave_takeLumens s k w.ctx w.side (priceOf i)) hh
  exact ⟨t, w', (exec_stopped hi hcur hw (prologue_bad hl hf hg rfl hw1 hbad)).trans (congrArg _ ht), hwt, ho, he _ rfl, ha⟩

end

/-- Settles O51: the lazy fill by how its read of the save area ends, the parity error by how many the strand has met. -/
theorem fillsAndParity : Obligations.FillsAndParity := by
  unfold Obligations.FillsAndParity
  intro k g s w hw
  refine ⟨fun h => by rw [exec_lazyFill, lazyRun_idle hw h], ?_, fun h => by rw [exec_parityRollback, parityRun_dark hw h], ?_, ?_⟩
  · rintro c b va hg hr hk hc hb rfl
    have hfill : ToFill s k g w := ⟨hw, hg, hr, hk⟩
    refine ⟨fun e a he hread => ?_, fun a hread => ⟨?_, ?_⟩, fun bs hread => ?_⟩
    · have hrun := hfill.failed (fillGranule_failed hw hc hb hread he)
      obtain ⟨hkept, ⟨c', hc', hhalt⟩, hmsg⟩ := saFailed_spec s hc b.slot (e, a) (.read 1) he
      obtain ⟨w', hw', -, habs⟩ := hkept.waves k w hw
      exact ⟨_, c', (exec_lazyFill k g s).trans (congrArg _ hrun), hc', hhalt, fun hlt => ⟨w', hw', habs g hg hlt⟩, hmsg⟩
    · rw [exec_lazyFill, hfill.bad (fillGranule_bad hw hc hb hread)]
    · intro i rest hi hcur hl hf habs hh
      exact bad_granule_traps hw hc hb hread hi hcur hl hf habs hh
    · have hrun := hfill.filled (fillGranule_filled hw hc hb hread)
      exact ⟨_, w.withGranule g bs, (exec_lazyFill k g s).trans (congrArg _ hrun), setWave_wave_same _ _ _,
        (saTouch_touched _ _ _ _).onlyCaches _ _, withGranule_eq w g bs,
        fun r n hr' hn => withGranule_lane w g bs hr' hn, fun j n hj => withGranule_lane_ne w g bs n hj⟩
  · intro h hp
    refine ⟨_, _, (exec_parityRollback k s).trans (congrArg _ (parityRun_rolls hw h hp)), setWave_wave_same _ _ _,
      OnlyWave.set _ _ _ _ (correctError_onlyWave _ _ _), rfl, rfl, rfl, rfl, rfl, rfl, rfl, fun j l => List.mem_filter, correctError_counts s⟩
  · intro h hp hh
    obtain ⟨w', hw', ho, ha⟩ := parityRun_third_handler hw h hp hh
    exact ⟨_, w', exec_parityRollback k s, hw', ho, ha⟩

end Sys2Proof.Machine
end

section
/-! SUPPORT. Why O20 fails: a step of the matrix engine, queued on another core for another block, that names the handler's wave among its members. -/
namespace Sys2Proof.Machine

/-- The wave of `readOnly` in its handler, its frame the state that it had (R368). -/
def hostedWave : Wave := { readOnlyWave with st := { readOnlyWave.st with pl1 := true }, frame := some readOnlyWave.st, eres := 36 }

/-- A tile of block 1 whose one element is 1.0 in single precision (R106, R272). -/
def scaledTile : Tile :=
  { owner := .block 1, handle := 0, lvl := 2, ew := 2, rows := 32, cols := 1, cores := [1], bytes := 128, bd := 0, bs := 0
    data := [(2, 128), (3, 63)], cleared := true, poison := false }

/-- A step of block 1 that scales the element by a signalling NaN, for wave 0 of block 0. -/
def strayStep : MStep :=
  { id := 0, block := 1, members := [0], handler := [], inChain := false, behind := 0, ordered := false
    op := .mscl 0 0 0 0 [0x7F800001] false, rows := [] }

/-- Block 0 on core 0, whose queue of steps is empty; block 1 of the same context on core 1, where the step waits. The save area lies on page 0, which
may not be written (R81, R377). -/
def hosted : State :=
  { (readOnly.setWave 0 hostedWave).setCore 1 { readOnly.core 1 with steps := [strayStep] } with
    blocks := [(0, placeBlock), (1, { placeBlock with core := 1, linear := 1, slot := 1 })], tiles := [(0, scaledTile)] }

/-- ERET with HOST. -/
def hostEret : FmtY := ⟨⟨false, false, 0⟩, ⟨0, 0, 0, 0⟩, ⟨0, 0, 0, 0⟩, ⟨0, 0, 0, 0⟩, 0, 0, 1⟩

theorem hosted_ready : Ready (.eret hostEret) 0 hostedWave hosted := by
  constructor <;> decide +kernel

/-- Nothing has been raised in the wave's strand, and no step waits on its own core. -/
theorem hosted_calm : tget hosted.blocks hostedWave.block = some placeBlock ∧ (tget hosted.ctxs placeBlock.ctx).isSome = true ∧
    tsorted hosted.blocks = true ∧ tsorted hosted.waves = true ∧ (hosted.core placeBlock.core).steps = [] ∧
    readOnlyWave.st.fpstat = 0 := by decide +kernel

/-- The swap-out of block 0 cannot write its record and halts the context (R442); the halt swaps block 1 out too, whose step is executed first
(R262), and its flag goes to FPSTAT of wave 0 (R259). -/
theorem hosted_fpstat {t : State} {w : Wave} (h : exec (.eret hostEret) hosted = .next t) (hw : t.wave 0 = some w) : w.st.fpstat = 1 := by
  have hr : (match exec (.eret hostEret) hosted with
    | .next t => decide ((t.wave 0).map (fun w => w.st.fpstat) = some 1)
    | _ => false) = true := by decide +kernel
  rw [h] at hr
  have hs := of_decide_eq_true hr
  rw [hw] at hs
  exact Option.some.inj hs

/-- Refutes O20: ERET with HOST where the save area cannot be written, and a step of another block, on another core, names the wave among its
members. The statement wants the wave left with the state of FRAME; the halt that follows the failed swap-out executes that step, and FPSTAT
takes its invalid-operation flag. The statement asks that no step waits on the core of the wave's block, but of the steps of other cores asks
nothing, where none should name a wave of this block (R257). -/
theorem not_eretRestores : ¬ Obligations.EretRestores := by
  unfold Obligations.EretRestores
  intro h
  obtain ⟨hb, hc, hsb, hsw, hsteps, hflags⟩ := hosted_calm
  obtain ⟨-, -, hhost⟩ := h hostEret 0 hostedWave hosted readOnlyWave.st _ hosted_ready (by decide +kernel) (by decide +kernel) rfl rfl
  obtain ⟨t, -, he, -, -, -, -, -, -, w', hw, hst, -⟩ := hhost placeBlock rfl hb hc hsb hsw hsteps
  have hf := hosted_fpstat he hw
  rw [hst] at hf
  exact absurd (hflags.symm.trans hf) (by decide)

end Sys2Proof.Machine
end
